-- ==== Sys2Proof/Word.lean ====
section
/-! DEFINITION. Word types and sparse maps of the Psinor 84 model. -/

namespace Sys2Proof

/-- A byte of memory. -/
abbrev Byte := BitVec 8
/-- One lane of a vector register (00 R8). -/
abbrev Word := BitVec 32
/-- One scalar, mask or status register, or one 64-bit word of a record. -/
abbrev DWord := BitVec 64
/-- A virtual address (16 R389). -/
abbrev Addr := BitVec 80
/-- A packet address, VA bits [79:4] (01 R36). -/
abbrev PAddr := BitVec 76

/-- A finite map from numbers to values as plain data: keys strictly rising, and no entry that holds
the value `d` which an unlisted key reads as. -/
abbrev Sparse (α : Type) := List (Nat × α)

namespace Sparse

/-- The value at key `k`; an unlisted key reads as `d`. -/
def get {α : Type} (d : α) : Sparse α → Nat → α
  | [], _ => d
  | (k, v) :: m, j => if j = k then v else get d m j

/-- The entry `(k, v)` at its place, in the stead of one with that key. -/
def put {α : Type} (m : Sparse α) (k : Nat) (v : α) : Sparse α :=
  match m with
  | [] => [(k, v)]
  | (j, w) :: r => if k < j then (k, v) :: (j, w) :: r else if k = j then (k, v) :: r else (j, w) :: put r k v

/-- `v` at key `k`, keeping the canonical form. -/
def set {α : Type} [DecidableEq α] (d : α) (m : Sparse α) (k : Nat) (v : α) : Sparse α :=
  if v = d then m.filter fun p => p.1 != k else put m k v

/-- Every key is above `b`, the keys rise strictly, and no entry holds `d`. -/
def wfAbove {α : Type} [DecidableEq α] (d : α) : Nat → Sparse α → Bool
  | _, [] => true
  | b, (k, v) :: m => decide (b ≤ k) && decide (v ≠ d) && wfAbove d (k + 1) m

/-- The canonical form. -/
def wf {α : Type} [DecidableEq α] (d : α) (m : Sparse α) : Bool := wfAbove d 0 m

end Sparse

end Sys2Proof
end

