-- ==== Sys2Proof/Config.lean ====
section
/-! DEFINITION. What an implementation fixes and the spec leaves open: opaque constants with no value in the model, and the
device figures of 00 R4, R6 and 08 R252 that the meanings use. -/

namespace Sys2Proof.Config

/-- A part's own number, of which its stepping is made. -/
opaque steppingCode : Nat → BitVec 8
/-- GETINFO item 2 and ID[39:32]: the stepping, of which 07 R234 says only that it is not zero. -/
def stepping : BitVec 8 := if steppingCode 0 = 0 then 1 else steppingCode 0
/-- A value that the spec leaves open, one for each value of the counter `State.fresh` (log entry 34). -/
opaque freeWord : Nat → Word
/-- Which byte of a crew's cached adapter entries, or zero, a read of a byte of its cache's range returns (11 R478), for a value of
`State.fresh` and an offset. -/
opaque openByte : Nat → Nat → Nat
/-- What the crew, matrix and queue sections of a context image take beyond what 16 R411 lays out, in units of 128 bytes.  DESIGN CHOICE (log entry 25):
fewer than 2^16 units each, for SIZE of 16 R410 has 32 bits. -/
opaque ctxUnits : Nat → BitVec 16
/-- The random wait of 15 R382: a number drawn for the counter's value. -/
opaque freeDraw : Nat → Nat
/-- The digest of what the boot ROM and the firmware extend into MEAS0 to MEAS4 (20 R458, R462), of what the model knows of it: fuses,
firmware, configuration, tables and images have no bytes in the spec. -/
opaque bootDigest : Nat → List Nat → BitVec 384
/-- Fuses (20 R458): PKD, the digest of the platform public key, FSVN, the least security version of firmware, and the device identity secret. -/
opaque fusePkd : BitVec 384
opaque fuseFsvn : Nat
opaque fuseSecret : BitVec 384
/-- The identity key that the boot ROM derives from the secret, by a rule that the spec does not give (20 R459). -/
opaque identityKey : BitVec 384 → BitVec 384
/-- The platform's public key, a point of the curve, whose digest PKD is. -/
opaque platformKey : Nat × Nat
/-- The public key of a firmware container, whose place in it the spec does not give (20 R459). -/
opaque firmwareKey : List Byte → Nat × Nat
/-- The digest of the public key of a firmware container, whose place in the container the spec does not give (20 R459). -/
opaque keyDigest : List Byte → BitVec 384
/-- The certificate chain and other SPDM payloads (20 R463). -/
opaque spdmBytes : Nat → List Nat → List Byte
/-- The bytes of an ECDSA signature with the identity key over a digest, whose random number is open (20 R463). -/
opaque identitySign : BitVec 384 → List Byte → List Byte
/-- The rule of 17 R428, 1 to 3, that a protocol table breaks in the verifier's model of a line, or 0, where the search of that model is not over
after 2^20 states (log entry 59). -/
opaque tableModelBad : List Nat → Nat
/-- The minimum security version of images and tables, ISVN (20 R458). -/
opaque isvn : Nat → Nat
/-- A layer's temperature in °C and its supply current in mA as it finds them at a pass boundary (11 R308). -/
opaque layerTemp : Nat → Nat
opaque layerCurrent : Nat → Nat
/-- The limits that the platform's configuration asks for a layer, core × 4 + layer (20 R471): °C and mA. -/
opaque platformTemp : Nat → Nat
opaque platformCurrent : Nat → Nat
/-- The PCI vendor ID (19 R440), of which the spec gives no number. -/
opaque vendorId : BitVec 16

/-- Whether the stacked cache keeps a line in the spill area of a core, by a hash that the spec does not give (08 R249; 16 R400). -/
opaque spillLine : Nat → Nat → Bool

/-- Cores of a tower (00 R4). -/
def coresPerTower : Nat := 48
/-- Columns of the core grid (00 R4). -/
def gridCols : Nat := 8
/-- Least cycles from issue to an L1 hit's return, to the home, and to GDDR7 beyond it; what the die-to-die bridge adds;
the least time of host memory (08 R252: 40; 110; 420; 30; 600). -/
def latL1 : Nat := 40
def latHome : Nat := 110
def latDram : Nat := 420
def latBridge : Nat := 30
def latHost : Nat := 600
/-- Own vault latency (08 R240) and one towpath hop (08 R242). -/
def latVault : Nat := 24
def latHop : Nat := 8
/-- L1 data cache lines, 256 KiB of 128 bytes (08 R245), and L1 instruction cache lines (08 R247). -/
def l1Lines : Nat := 2048
def l1iLines : Nat := 1024
/-- TLB sizes and walkers (16 R392). -/
def l1Tlb : Nat := 64
def l2Sets : Nat := 1024
def l2Ways : Nat := 8
def walkCache : Nat := 512
def walkers : Nat := 32
/-- Outstanding page requests of a tower (16 R394). -/
def pageReqs : Nat := 256
/-- The bytes of device memory with inline ECC and without (08 R248). -/
def memEcc : Nat := 62 * 2 ^ 30
def memPlain : Nat := 64 * 2 ^ 30
/-- The first byte of host memory and the end of the physical space (19 R441). -/
def hostBase : Nat := 2 ^ 51
def paEnd : Nat := 2 ^ 52

end Sys2Proof.Config
end

