-- ==== Sys2Proof/Syntax.lean ====
section
/-! DEFINITION. The instruction words (03 R77 to R95) and the steps of the device (spec/opcode_table.json),
one constructor of `Instr` for each row of the table. -/

namespace Sys2Proof

/-! ## Register numbers (01 R16, 03 R83) -/

/-- V0 to V95. -/
abbrev VReg := Fin 96
/-- S0 to S15. -/
abbrev SReg := Fin 16
/-- A0 to A15. -/
abbrev AReg := Fin 16
/-- K0 to K7. -/
abbrev KReg := Fin 8
/-- Q0 to Q15. -/
abbrev QReg := Fin 16
/-- H0 to H7. -/
abbrev HReg := Fin 8
/-- NB0 to NB15. -/
abbrev NBReg := Fin 16
/-- T0 to T3. -/
abbrev TReg := Fin 4

/-- The read-only specials (01 R18). -/
inductive Special where
  | lane | sliceid | gangid | crewid | crewx | crewy | crewz | clock
  deriving DecidableEq, Repr

/-- The inline constants, codes 122 to 127 (03 R81). -/
inductive Inline where
  | zero | one | mone | two | half | mhalf
  deriving DecidableEq, Repr

/-- A 7-bit operand field (03 R79). -/
inductive Src where
  | v (n : VReg)
  | s (n : SReg)
  | sp (x : Special)
  | lit
  | plit
  | cst (c : Inline)
  deriving DecidableEq, Repr

/-- A destination that may be a V or an S register (REDUCE, 05 R159). -/
inductive VSDst where
  | v (n : VReg)
  | s (n : SReg)
  deriving DecidableEq, Repr

/-- Integer types of IADD, ISUB and ICMP in T order (04 R101, R103). -/
inductive IntTy where
  | s32 | u32 | s64 | u64
  deriving DecidableEq, Repr

/-- Conditions of ICMP and FCMP (03 R91). -/
inductive Cond where
  | eq | ne | lt | le | gt | ge | ord | unord
  deriving DecidableEq, Repr

/-- SCMP variants in T order (04 R111). -/
inductive SCond where
  | eq | ne | ltS | ltU
  deriving DecidableEq, Repr

/-- MOVS forms (04 R109). -/
inductive MovsForm where
  | toS (d : SReg) (a : VReg)
  | toV (d : VReg) (a : SReg)
  deriving DecidableEq, Repr

/-- MOVA forms (04 R114). -/
inductive MovaForm where
  | a (d : AReg) (aa : AReg) (b : Src)
  | lo (d : SReg) (aa : AReg)
  | hi (d : SReg) (aa : AReg)
  deriving DecidableEq, Repr

/-- BRK tests (04 R122). -/
inductive BrkTest where
  | nz | z | any | all
  deriving DecidableEq, Repr

/-- BRS tests (04 R123). -/
inductive BrsTest where
  | z | nz | ltz | gez | gtz | lez
  deriving DecidableEq, Repr

/-- Shape of an FP8 dot product operand (05 R142). -/
inductive Fp8 where
  | e4m3 | e5m2
  deriving DecidableEq, Repr

/-- Element formats of conversions and shape records (03 R92, 07 R202). -/
inductive Fmt where
  | s8 | u8 | s16 | u16 | s32 | u32 | s64 | u64
  | f32 | f16 | bf16 | e4m3 | e5m2 | e2m1 | i4 | i2 | i1
  deriving DecidableEq, Repr

/-- Tokens of EXPR (03 R94). -/
inductive Tok where
  | a | b | c | d | add | sub | mul | fma | min | max | neg | abs | rcp | sel
  deriving DecidableEq, Repr

/-- SHFL modes in T order (05 R153). -/
inductive ShflMode where
  | idx | xor | up | down
  deriving DecidableEq, Repr

/-- VOTE modes (05 R157). -/
inductive VoteMode where
  | any | all | eq
  deriving DecidableEq, Repr

/-- SCAN and REDUCE operations (05 R158). -/
inductive ScanOp where
  | add | min | max
  deriving DecidableEq, Repr

/-- SCAN and REDUCE types (05 R158). -/
inductive ScanTy where
  | s32 | u32 | f32
  deriving DecidableEq, Repr

/-- Load sizes: 0x40 SZ and 0x41 SZ (06 R165). -/
inductive LdSize where
  | b32 | b64 | b128 | u8 | s8 | u16 | s16
  deriving DecidableEq, Repr

/-- Store sizes: 0x42 SZ and 0x43 SZ (06 R165). -/
inductive StSize where
  | b32 | b64 | b128 | b8 | b16
  deriving DecidableEq, Repr

/-- Sizes of LDG, STG, LDV and STV. -/
inductive WSize where
  | b32 | b64 | b128
  deriving DecidableEq, Repr

/-- Memory atomics (06 R170). -/
inductive AtomOp where
  | addU32 | faddF32 | minS32 | maxS32 | minU32 | maxU32 | and32 | or32 | xor32 | xchg32
  | cas32 | cas64 | fminF32 | fmaxF32
  deriving DecidableEq, Repr

/-- Vault atomics in OP4 order (06 R174). -/
inductive AtomvOp where
  | add | minS | maxS | minU | maxU | and | or | xor | xchg | cas | fadd | fmin | fmax
  deriving DecidableEq, Repr

/-- Cache treatments (06 R167). -/
inductive Hint where
  | none | strm | last
  deriving DecidableEq, Repr

/-- Memory-model scopes (00 R11). -/
inductive Scope where
  | slice | gang | quarter | crew | core | cluster | tower | device | host | system
  deriving DecidableEq, Repr

/-- Access paths (00 R12, 03 R89). -/
inductive Path where
  | lsu | vlt | cpy | mtx | adp | isl | ing
  deriving DecidableEq, Repr

/-- Causes of a data fault (01 R46, 07 R231). -/
inductive FaultKind where
  | page | vaultBusy | mmx | uncorrectable
  deriving DecidableEq, Repr

/-- Answers to a page request (19 R451). -/
inductive PageAnswer where
  | success | invalidRequest | responseFailure
  deriving DecidableEq, Repr

/-- The instruction words and the steps of the device.  Event rows carry the keys of what they act on:
`g` a gang, `c` a core (tower × 48 + core), `h` a home, `n` an index into the queue the row serves,
`t` a tenant, `k` a number the row's own rule names. -/
inductive Instr where
  -- the pipeline (01)
  | packetDecode (g : Nat)
  | resultWriteback (g : Nat)
  | variableResultArrival (g : Nat)
  | switchParkEnd (g : Nat)
  | dataFault (g tag : Nat) (k : FaultKind) (lanes : DWord)
  | gangResume (g : Nat)
  -- vector integer (04 R99 to R108)
  | iadd (ty : IntTy) (d : VReg) (a b : Src)
  | isub (ty : IntTy) (d : VReg) (a b : Src)
  | imul (hi uns : Bool) (d : VReg) (a b : Src)
  | imad (uns : Bool) (d : VReg) (a b : Src)
  | idiv (uns : Bool) (d : VReg) (a b : Src)
  | irem (uns : Bool) (d : VReg) (a b : Src)
  | movi (d : VReg) (imm : BitVec 16)
  | imin (uns : Bool) (d : VReg) (a b : Src)
  | imax (uns : Bool) (d : VReg) (a b : Src)
  | iabs (d : VReg) (a : Src)
  | ineg (d : VReg) (a : Src)
  | brev (d : VReg) (a : Src)
  | icmp (cc : Cond) (ty : IntTy) (k : KReg) (a b : Src)
  | and (d : VReg) (a b : Src)
  | or (d : VReg) (a b : Src)
  | xor (d : VReg) (a b : Src)
  | andn (d : VReg) (a b : Src)
  | not (d : VReg) (a : Src)
  | popc (d : VReg) (a : Src)
  | clz (d : VReg) (a : Src)
  | ctz (d : VReg) (a : Src)
  | shl (d : VReg) (a b : Src)
  | shr (d : VReg) (a b : Src)
  | sar (d : VReg) (a b : Src)
  | rot (d : VReg) (a b : Src)
  | bfe (sgn : Bool) (d : VReg) (a b : Src)
  | bfi (d : VReg) (a b : Src)
  | sel (k : Fin 4) (d : VReg) (a b : Src)
  | mov (wide : Bool) (d : VReg) (a : Src)
  -- scalar, address and mask words (04 R109 to R117)
  | sadd (d : SReg) (a b : Src)
  | ssub (d : SReg) (a b : Src)
  | sand (d : SReg) (a b : Src)
  | sor (d : SReg) (a b : Src)
  | sshl (d : SReg) (a b : Src)
  | sshr (d : SReg) (a b : Src)
  | smul (d : SReg) (a b : Src)
  | scmp (cc : SCond) (d : SReg) (a b : Src)
  | movs (f : MovsForm)
  | adda (d : AReg) (a : AReg) (b : Src)
  | lea (sh : Fin 5) (d : AReg) (a : AReg) (b : Src)
  | mova (f : MovaForm)
  | kand (d a b : KReg)
  | kor (d a b : KReg)
  | knot (d a : KReg)
  | kpop (d : SReg) (a : KReg)
  | setx (a : KReg)
  | getx (d : KReg)
  -- control words (04 R118 to R132)
  | br (off : BitVec 20)
  | brk (cc : BrkTest) (k : KReg) (off : BitVec 16)
  | brs (cc : BrsTest) (a : SReg) (off : BitVec 16)
  | jmp (a : AReg)
  | callIndirect (d : AReg) (a : AReg)
  | ret (a : AReg)
  | call (off : BitVec 20)
  | loop (a : SReg) (off : BitVec 16)
  | join (dist : BitVec 14)
  -- floating point (05 R133 to R151)
  | fadd (x : Bool) (d : VReg) (a b : Src)
  | fsub (x : Bool) (d : VReg) (a b : Src)
  | fmul (x : Bool) (d : VReg) (a b : Src)
  | ffma (x : Bool) (d : VReg) (a b : Src)
  | fmin (x : Bool) (d : VReg) (a b : Src)
  | fmax (x : Bool) (d : VReg) (a b : Src)
  | fcmp (x : Bool) (cc : Cond) (k : KReg) (a b : Src)
  | fclass (x : Bool) (d : VReg) (a : Src)
  | frnd (x : Bool) (d : VReg) (a : Src)
  | hadd2 (x bf : Bool) (d : VReg) (a b : Src)
  | hmul2 (x bf : Bool) (d : VReg) (a b : Src)
  | hfma2 (x bf : Bool) (d : VReg) (a b : Src)
  | dot4F8 (fa fb : Fp8) (d : VReg) (a b : Src)
  | dot4I8 (ua ub : Bool) (d : VReg) (a b : Src)
  | cvtFromFloat (x : Bool) (dst src : Fmt) (d : VReg) (a : Src)
  | cvtFromInt (x : Bool) (dst src : Fmt) (d : VReg) (a : Src)
  | rcp (x : Bool) (d : VReg) (a : Src)
  | rsq (x : Bool) (d : VReg) (a : Src)
  | sqrt (x : Bool) (d : VReg) (a : Src)
  | log2 (x : Bool) (d : VReg) (a : Src)
  | exp2 (x : Bool) (d : VReg) (a : Src)
  | sin (x : Bool) (d : VReg) (a : Src)
  | cos (x : Bool) (d : VReg) (a : Src)
  | expr (half : Bool) (dst : VReg) (a b c d : Src) (toks : List Tok)
  -- cross-lane (05 R152 to R159)
  | shfl (m : ShflMode) (d : VReg) (a : VReg) (b : Src)
  | bcast (d : VReg) (a : VReg) (b : Src)
  | perm (d : VReg) (a : VReg) (b : Src)
  | ballot (k : KReg) (a : VReg)
  | vote (m : VoteMode) (k : KReg) (a : VReg)
  | scan (op : ScanOp) (excl : Bool) (ty : ScanTy) (d : VReg) (a : VReg)
  | reduce (op : ScanOp) (ty : ScanTy) (d : VSDst) (a : VReg)
  -- memory (06 R160 to R178)
  | ld (sz : LdSize) (hint : Hint) (d : VReg) (o : Src) (ba : AReg)
  | st (sz : StSize) (hint : Hint) (d : Src) (o : Src) (ba : AReg)
  | ldg (sz : WSize) (hint : Hint) (d : VReg) (o : Src) (ba : AReg)
  | stg (sz : WSize) (hint : Hint) (d : Src) (o : Src) (ba : AReg)
  | ldAcq (wide : Bool) (sc : Scope) (d : VReg) (o : Src) (ba : AReg)
  | stRel (wide : Bool) (sc : Scope) (d : Src) (o : Src) (ba : AReg)
  | atom (op : AtomOp) (sc : Scope) (d : VReg) (o : Src) (ba : AReg)
  | pref (hint : Hint) (o : Src) (ba : AReg)
  | ldv (sz : WSize) (d : VReg) (o : Src) (ba : SReg)
  | stv (sz : WSize) (d : Src) (o : Src) (ba : SReg)
  | atomv (op : AtomvOp) (d : VReg) (o : Src) (ba : SReg)
  | towpathRequestArrival (n : Nat)
  | fence (sc : Scope)
  | fenceX (sc : Scope) (p1 p2 : Path)
  | afence (sc : Scope) (ax ay : AReg)
  -- barriers, tide groups, events, queues (06 R180 to R197)
  | nbinit (nb : NBReg) (cnt : Src)
  | nbarr (d : SReg) (nb : NBReg)
  | nbwait (d : SReg) (nb : NBReg)
  | nbwaitComplete (g tag : Nat)
  | tgarr (d : SReg) (grp : Src)
  | tgwait (d : SReg) (grp : Src)
  | tgwaitComplete (g tag : Nat)
  | tgjoin (grp : Src)
  | tgleave (grp : Src)
  | evsig (e : Src)
  | evwait (d : SReg) (e : Src)
  | evtest (d : SReg) (e : Src)
  | eventOverflowOperation (tower : Nat)
  | qbind (q : QReg) (desc : Src)
  | qpush (q : QReg) (vs : VReg)
  | qpop (d : VReg) (q : QReg)
  | qpeek (d : VReg) (q : QReg)
  | qpopRecordArrival (g : Nat) (q : QReg)
  | qdepth (d : SReg) (q : QReg)
  -- shapes, copies, matrix, islands (07)
  | shape (h : HReg) (sk : SReg)
  | copy (follow tomem : Bool) (h : HReg) (rng : Src) (nb : NBReg)
  | copyCsr (h : HReg) (rng : Src) (nb : NBReg)
  | copyPlane (follow tomem : Bool) (h : HReg) (rng : Src) (nb : NBReg)
  | copyQ (h : HReg) (rng : Src) (nb : NBReg)
  | copyqRecordDelivery (cp : Nat)
  | copyComplete (cp : Nat)
  | followOnIssue (cp : Nat)
  | cpstat (d : SReg) (h : HReg)
  | mma (t : TReg) (ha hb : HReg)
  | mmaI (t : TReg) (ha hb : HReg)
  | mmaAd (t : TReg) (ha hb : HReg) (sv : SReg)
  | mmaQ (t : TReg) (qa : QReg) (hb : HReg) (dsc : Src)
  | passStart (c : Nat)
  | passEnd (c : Nat)
  | layerFail (c layer : Nat)
  | stagingRecordMove (c mi : Nat)
  | adapterFillComplete (c n : Nat)
  | matrixComplete (c mi : Nat)
  | macq (t : TReg)
  | macqComplete (g : Nat) (t : TReg)
  | mrel (t : TReg)
  | mlda (d : VReg) (t : TReg) (pos : Src)
  | msta (vs : VReg) (t : TReg) (pos : Src)
  | mclr (t : TReg)
  | adinv (id : Src)
  | islpush (mark : Bool) (q : QReg) (vs : VReg) (tag : Src)
  | islrecv (d : SReg) (q : QReg) (cnt : Src)
  | islrecvComplete (g tag : Nat)
  | islstat (d : SReg) (isel : Src)
  -- system words (07 R230 to R234)
  | rdsr (d : SReg) (n : BitVec 16)
  | wrsr (n : BitVec 16) (src : Src)
  | trap (code : BitVec 16)
  | brkpt (code : BitVec 16)
  | dbgmark (code : BitVec 16)
  | sleep (a : Src)
  | sleepExpiry (g : Nat)
  | getinfo (d : SReg) (a : Src)
  -- coherence: messages at homes (10 R280), by index into the messages in flight
  | gets (n : Nat)
  | upgo (n : Nat)
  | upgs (n : Nat)
  | upgn (n : Nat)
  | wbmo (n : Nat)
  | wbmx (n : Nat)
  | wbc (n : Nat)
  | wrt (n : Nat)
  | renew (n : Nat)
  | invack (n : Nat)
  | invackl (n : Nat)
  | fwdack (n : Nat)
  | fwdackx (n : Nat)
  | rcldata (n : Nat)
  | rclack (n : Nat)
  | requestRetry (h line : Nat)
  | noncachingRequest (n : Nat)
  -- messages at agents
  | datas (n : Nat)
  | datae (n : Nat)
  | datam (n : Nat)
  | upgack (n : Nat)
  | wback (n : Nat)
  | inv (n : Nat)
  | fwds (n : Nat)
  | fwdx (n : Nat)
  | recall (n : Nat)
  | update (n : Nat)
  | renack (n : Nat)
  | rebase (n : Nat)
  | rebaseAnswer (n : Nat)
  | nak (n : Nat)
  | leaseFlushTimer (c line : Nat)
  | selfRefreshEntry (h : Nat)
  -- the host bridge and CXL (10 R304, 19 R452)
  | hostReadShared (pa : Nat)
  | hostReadOwn (pa : Nat)
  | memrd (pa : Nat)
  | memwr (pa : Nat) (data : List Byte) (mask : DWord)
  -- tenant windows (19 R443 to R450)
  | qtail (t q : Nat) (val : DWord)
  | qprogWrite (t q : Nat) (val : DWord)
  | qdWrite (t q k : Nat) (val : DWord)
  | switchOut (t q : Nat)
  | switchIn (t q : Nat)
  | cancel (t : Nat) (req : DWord)
  | cancelTimeout (g : Nat)
  | rootWrite (t : Nat) (val : DWord)
  | tlbInvalidate (t : Nat) (val : DWord)
  | tlbInvalidateComplete (t : Nat)
  | imgflush (t : Nat) (val : DWord)
  | trbaseWrite (t : Nat) (val : DWord)
  | cecntClear (k : Nat)
  | registerWrite (off size : Nat) (val : DWord)
  -- the scheduler (15)
  | recordIntake (t q : Nat)
  | launchStart (lent : Nat)
  | starvationExpiry (lent : Nat)
  | bindPost (tower : Nat) (b0 b1 : DWord)
  | bindAccept (tower n : Nat)
  | clusterReserve (tower cgrp : Nat)
  | clusterBackoffExpiry (tower cgrp : Nat)
  | crewRetire (crew : Nat)
  -- translation and pre-emption (16)
  | pageWalk (tower n : Nat)
  | pageResponse (tower n : Nat) (ans : PageAnswer)
  | swapoutTimer (crew : Nat)
  | vacate (tower : Nat) (cores : List Nat)
  | crewSaveComplete (crew : Nat)
  | crewRestore (crew core : Nat)
  | borrowCommand (c : Nat)
  | borrowRestoreComplete (c : Nat)
  -- islands (12)
  | islandRecordEntry (isl : Nat)
  | islandRecordExit (isl : Nat)
  | i1ImageLoad (c : Nat)
  | i1ImageLoadComplete (c : Nat)
  -- the ingress port (19 R455 to R457)
  | ingressSignal (win : Nat)
  -- outside happenings of the host link, the ingress port and DOE (10 R304, 19 R440, R448, R455 to R457, 20 R463)
  | hostWriteback (pa : Nat) (data : List Byte)
  | hostDropHalf (pa : Nat)
  | birsp (tower line : Nat)
  | hostSnoop (pa : Nat)
  | msixVectorUnmask (v : Nat)
  | peerWrite (win off requester : Nat) (data : List Byte)
  | peerRead (win off : Nat)
  | getCertificate (slot : Nat)
  | challenge (nonce : List Byte)
  | getMeasurements (idx : Nat)
  -- words without operands
  | nop
  | endl
  | regang
  | yield
  | exit
  | endGang
  | halt
  -- the ingress link's reset, privileged commands (19 R454, R461), attestation (20 R463), the device's life (20)
  | ingressPerst
  | tcreate
  | tdestroy
  | coremask
  | rtset
  | coresp
  | scgran
  | tidealloc
  | tideisl
  | pin
  | unpin
  | tabload
  | rangewr
  | wload
  | wgrant
  | pgretire
  | measext
  | starve
  | invalidCommand
  | commandEnd
  | getVersion
  | getCapabilities
  | negotiateAlgorithms
  | getDigests
  | reset
  | brownOut
  | scrub
  deriving DecidableEq, Repr

end Sys2Proof
end

