-- ==== Sys2Proof/WellFormed.lean ====
section
/-! DEFINITION. Which instruction terms are words of the encoding: operand classes (03 R80, R81, R83; 04 R99, R110,
R112; 05 R133; 06 R160, R180; 07 R198), register groups, reserved codes and the EXPR token rules (03 R93, R95). -/

namespace Sys2Proof

/-- Inline constants that an integer-typed operand accepts: codes 122 to 125 (03 R81). -/
def Inline.isInt : Inline → Bool
  | .half => false
  | .mhalf => false
  | .zero => true
  | .one => true
  | .mone => true
  | .two => true

/-- V, S, specials, LIT, PLIT, 122 to 125 (04 R99; offsets of 06 R160). -/
def Src.isInt : Src → Bool
  | .cst c => c.isInt
  | .v _ => true
  | .s _ => true
  | .sp _ => true
  | .lit => true
  | .plit => true

/-- A V operand whose number is a multiple of `n`; other operands pass (03 R80). -/
def Src.group (n : Nat) : Src → Bool
  | .v r => r.val % n == 0
  | .s _ => true
  | .sp _ => true
  | .lit => true
  | .plit => true
  | .cst _ => true

/-- A 64-bit source of CVT (05 R133): an even V register, an S register or a literal, and no special; DEDUCED (log entry 29): also an inline constant,
to which R133 gives the value of its operand's type. -/
def Src.isPair : Src → Bool
  | .v r => r.val % 2 == 0
  | .sp _ => false
  | .s _ => true
  | .lit => true
  | .plit => true
  | .cst _ => true

/-- S, specials, LIT, PLIT, 122 to 125 (04 R110). -/
def Src.isScalar : Src → Bool
  | .v _ => false
  | .cst c => c.isInt
  | .s _ => true
  | .sp _ => true
  | .lit => true
  | .plit => true

/-- S, LIT, PLIT, 122 to 125: the class "operand" of 06 R180 and 07 R198. -/
def Src.isOperand : Src → Bool
  | .v _ => false
  | .sp _ => false
  | .cst c => c.isInt
  | .s _ => true
  | .lit => true
  | .plit => true

/-- V, S, LIT, PLIT, 122 to 125: store data (06 R160). -/
def Src.isStore : Src → Bool
  | .sp _ => false
  | .cst c => c.isInt
  | .v _ => true
  | .s _ => true
  | .lit => true
  | .plit => true

/-- V and S registers, specials and every inline constant: an EXPR input (03 R93). -/
def Src.isExpr : Src → Bool
  | .lit => false
  | .plit => false
  | .v _ => true
  | .s _ => true
  | .sp _ => true
  | .cst _ => true

/-- Is a type of 64 bits? -/
def IntTy.wide : IntTy → Bool
  | .s32 => false
  | .u32 => false
  | .s64 => true
  | .u64 => true

/-- Is a type signed? -/
def IntTy.signed : IntTy → Bool
  | .s32 => true
  | .u32 => false
  | .s64 => true
  | .u64 => false

/-- The conditions that ICMP accepts (03 R91). -/
def Cond.isInt : Cond → Bool
  | .ord => false
  | .unord => false
  | .eq => true
  | .ne => true
  | .lt => true
  | .le => true
  | .gt => true
  | .ge => true

/-- The CVT code of a format, `none` outside 03 R92. -/
def Fmt.cvtCode : Fmt → Option Nat
  | .s8 => some 0
  | .u8 => some 1
  | .s16 => some 2
  | .u16 => some 3
  | .s32 => some 4
  | .u32 => some 5
  | .s64 => some 6
  | .u64 => some 7
  | .f32 => some 8
  | .f16 => some 9
  | .bf16 => some 10
  | .e4m3 => some 11
  | .e5m2 => some 12
  | .e2m1 => none
  | .i4 => none
  | .i2 => none
  | .i1 => none

/-- A float format of CVT. -/
def Fmt.isCvtFloat (f : Fmt) : Bool :=
  match f.cvtCode with
  | some c => decide (8 ≤ c)
  | none => false

/-- An integer format of CVT. -/
def Fmt.isCvtInt (f : Fmt) : Bool :=
  match f.cvtCode with
  | some c => decide (c < 8)
  | none => false

/-- A 64-bit side of a conversion (05 R144). -/
def Fmt.is64 : Fmt → Bool
  | .s64 => true
  | .u64 => true
  | _ => false

/-- How many stack entries a token pops; pushes pop none (03 R94). -/
def Tok.arity : Tok → Nat
  | .a => 0
  | .b => 0
  | .c => 0
  | .d => 0
  | .add => 2
  | .sub => 2
  | .mul => 2
  | .fma => 3
  | .min => 2
  | .max => 2
  | .neg => 1
  | .abs => 1
  | .rcp => 1
  | .sel => 3

/-- Is a token an operator? -/
def Tok.isOp (t : Tok) : Bool := decide (0 < t.arity)

/-- The depth walk of 03 R95: `none` on overflow or underflow. -/
def exprDepth : Nat → List Tok → Option Nat
  | d, [] => some d
  | d, t :: ts =>
    if t.isOp then (if d < t.arity then none else exprDepth (d + 1 - t.arity) ts)
    else (if d = 4 then none else exprDepth (d + 1) ts)

/-- The number of operators of a token string (03 R95). -/
def exprOps (ts : List Tok) : Nat := (ts.filter Tok.isOp).length

/-- A token string that passes 03 R93 and R95. -/
def exprOk (ts : List Tok) : Bool :=
  decide (1 ≤ ts.length) && decide (ts.length ≤ 15) && decide (exprOps ts ≤ 7) &&
    (match exprDepth 0 ts with
     | some d => d == 1
     | none => false)

/-- Registers of one element at a size (06 R160). -/
def WSize.regs : WSize → Nat
  | .b32 => 1
  | .b64 => 2
  | .b128 => 4

/-- Registers of a load's destination. -/
def LdSize.regs : LdSize → Nat
  | .b64 => 2
  | .b128 => 4
  | .b32 => 1
  | .u8 => 1
  | .s8 => 1
  | .u16 => 1
  | .s16 => 1

/-- Registers of a store's data. -/
def StSize.regs : StSize → Nat
  | .b64 => 2
  | .b128 => 4
  | .b32 => 1
  | .b8 => 1
  | .b16 => 1

/-- Registers that an atomic's data group spans (06 R160, R170). -/
def AtomOp.regs : AtomOp → Nat
  | .cas32 => 2
  | .cas64 => 4
  | _ => 1

/-- Store data at a size: a V group, or another store operand below `.b128` (06 R160). -/
def storeOk (n : Nat) (d : Src) : Bool :=
  match d with
  | .v r => r.val % n == 0
  | _ => decide (n < 4) && d.isStore

/-- The status registers and whether WRSR accepts them (07 R230). -/
def statusReadable (n : BitVec 16) : Bool := decide (n.toNat ≤ 9)

/-- Status registers that WRSR may name. -/
def statusWritable (n : BitVec 16) : Bool :=
  decide (n.toNat = 0) || decide (n.toNat = 1) || decide (n.toNat = 7) || decide (n.toNat = 8)

/-- A 64-bit offset of LDG and STG: even V, S, LIT, PLIT, 122 to 125 (06 R160). -/
def gatherOffOk (o : Src) : Bool := o.isStore && o.group 2

/-- A record group vd to vd + 3. -/
def quadOk (v : VReg) : Bool := v.val % 4 == 0

/-- An instruction word whose fields the encoding admits. Steps of the device are well formed as they are.  B of PERM is taken as an integer-typed
operand, as that of SHFL is (DESIGN CHOICE, log entry 49: 05 R152 and R155 restrict A only). -/
def Instr.wf : Instr → Bool
  | .iadd ty d a b => a.isInt && b.isInt && (!ty.wide || (d.val % 2 == 0 && a.group 2 && b.group 2))
  | .isub ty d a b => a.isInt && b.isInt && (!ty.wide || (d.val % 2 == 0 && a.group 2 && b.group 2))
  | .imul _ _ _ a b => a.isInt && b.isInt
  | .imad _ _ a b => a.isInt && b.isInt
  | .idiv _ _ a b => a.isInt && b.isInt
  | .irem _ _ a b => a.isInt && b.isInt
  | .imin _ _ a b => a.isInt && b.isInt
  | .imax _ _ a b => a.isInt && b.isInt
  | .iabs _ a => a.isInt
  | .ineg _ a => a.isInt
  | .brev _ a => a.isInt
  | .icmp cc ty _ a b => cc.isInt && a.isInt && b.isInt && (!ty.wide || (a.group 2 && b.group 2))
  | .and _ a b => a.isInt && b.isInt
  | .or _ a b => a.isInt && b.isInt
  | .xor _ a b => a.isInt && b.isInt
  | .andn _ a b => a.isInt && b.isInt
  | .not _ a => a.isInt
  | .popc _ a => a.isInt
  | .clz _ a => a.isInt
  | .ctz _ a => a.isInt
  | .shl _ a b => a.isInt && b.isInt
  | .shr _ a b => a.isInt && b.isInt
  | .sar _ a b => a.isInt && b.isInt
  | .rot _ a b => a.isInt && b.isInt
  | .bfe _ _ a b => a.isInt && b.isInt
  | .bfi _ a b => a.isInt && b.isInt
  | .sel _ _ a b => a.isInt && b.isInt
  | .mov w d a => a.isInt && (!w || (d.val % 2 == 0 && a.group 2))
  | .sadd _ a b => a.isScalar && b.isScalar
  | .ssub _ a b => a.isScalar && b.isScalar
  | .sand _ a b => a.isScalar && b.isScalar
  | .sor _ a b => a.isScalar && b.isScalar
  | .sshl _ a b => a.isScalar && b.isScalar
  | .sshr _ a b => a.isScalar && b.isScalar
  | .smul _ a b => a.isScalar && b.isScalar
  | .scmp _ _ a b => a.isScalar && b.isScalar
  | .adda _ _ b => b.isScalar
  | .lea _ _ _ b => b.isScalar
  | .mova (.a _ _ b) => b.isScalar
  | .loop _ off => decide (0 < off.toInt)
  | .dot4I8 _ _ _ a b => a.isInt && b.isInt
  | .cvtFromFloat _ dst src d _ => src.isCvtFloat && dst.cvtCode.isSome && (!dst.is64 || d.val % 2 == 0)
  | .cvtFromInt _ dst src d a =>
    src.isCvtInt && dst.cvtCode.isSome && (!dst.is64 || d.val % 2 == 0) && a.isInt && (!src.is64 || a.isPair)
  | .expr _ _ a b c d ts => a.isExpr && b.isExpr && c.isExpr && d.isExpr && exprOk ts
  | .shfl _ _ _ b => b.isInt
  | .bcast _ _ b => b.isOperand
  | .perm _ _ b => b.isInt
  | .ld sz _ d o _ => d.val % sz.regs == 0 && o.isInt
  | .st sz _ d o _ => storeOk sz.regs d && o.isInt
  | .ldg sz _ d o _ => d.val % sz.regs == 0 && gatherOffOk o
  | .stg sz _ d o _ => storeOk sz.regs d && gatherOffOk o
  | .ldAcq w _ d o _ => (!w || d.val % 2 == 0) && o.isInt
  | .stRel w _ d o _ => storeOk (if w then 2 else 1) d && o.isInt
  | .atom op _ d o _ => d.val % op.regs == 0 && o.isInt
  | .pref _ o _ => o.isInt
  | .ldv sz d o _ => d.val % sz.regs == 0 && o.isInt
  | .stv sz d o _ => storeOk sz.regs d && o.isInt
  | .atomv op d o _ => (!(op == .cas) || d.val % 2 == 0) && o.isInt
  | .nbinit _ c => c.isOperand
  | .tgarr _ g => g.isOperand
  | .tgwait _ g => g.isOperand
  | .tgjoin g => g.isOperand
  | .tgleave g => g.isOperand
  | .evsig e => e.isOperand
  | .evwait _ e => e.isOperand
  | .evtest _ e => e.isOperand
  | .qbind _ d => d.isOperand
  | .qpush _ v => quadOk v
  | .qpop d _ => quadOk d
  | .qpeek d _ => quadOk d
  | .shape _ sk => sk.val % 4 == 0
  | .copy _ _ _ r _ => r.isOperand
  | .copyCsr _ r _ => r.isOperand
  | .copyPlane _ _ _ r _ => r.isOperand
  | .copyQ _ r _ => r.isOperand
  | .mmaQ _ _ _ d => d.isOperand
  | .mlda d _ p => quadOk d && p.isOperand
  | .msta d _ p => quadOk d && p.isOperand
  | .adinv i => i.isOperand
  | .islpush _ _ v t => quadOk v && t.isOperand
  | .islrecv _ _ c => c.isOperand
  | .islstat _ i => i.isOperand
  | .rdsr _ n => statusReadable n
  | .wrsr n s => statusWritable n && s.isOperand
  | .sleep a => a.isScalar
  | .getinfo _ a => a.isScalar
  | .mova (.lo ..) | .mova (.hi ..)
  | .packetDecode .. | .resultWriteback .. | .variableResultArrival .. | .switchParkEnd .. | .dataFault ..
  | .gangResume .. | .movi .. | .movs .. | .kand .. | .kor .. | .knot .. | .kpop .. | .setx .. | .getx .. | .br ..
  | .brk .. | .brs .. | .jmp .. | .callIndirect .. | .ret .. | .call .. | .join .. | .fadd .. | .fsub .. | .fmul ..
  | .ffma .. | .fmin .. | .fmax .. | .fcmp .. | .fclass .. | .frnd .. | .hadd2 .. | .hmul2 .. | .hfma2 ..
  | .dot4F8 .. | .rcp .. | .rsq .. | .sqrt .. | .log2 .. | .exp2 .. | .sin .. | .cos .. | .ballot .. | .vote ..
  | .scan .. | .reduce .. | .towpathRequestArrival .. | .fence .. | .fenceX .. | .afence .. | .nbarr .. | .nbwait ..
  | .nbwaitComplete .. | .tgwaitComplete .. | .eventOverflowOperation .. | .qpopRecordArrival .. | .qdepth ..
  | .copyqRecordDelivery .. | .copyComplete .. | .followOnIssue .. | .cpstat .. | .mma .. | .mmaI .. | .mmaAd ..
  | .passStart .. | .passEnd .. | .layerFail .. | .stagingRecordMove .. | .adapterFillComplete ..
  | .matrixComplete .. | .macq .. | .macqComplete .. | .mrel .. | .mclr .. | .islrecvComplete .. | .trap ..
  | .brkpt .. | .dbgmark .. | .sleepExpiry .. | .gets .. | .upgo .. | .upgs .. | .upgn .. | .wbmo .. | .wbmx ..
  | .wbc .. | .wrt .. | .renew .. | .invack .. | .invackl .. | .fwdack .. | .fwdackx .. | .rcldata .. | .rclack ..
  | .requestRetry .. | .noncachingRequest .. | .datas .. | .datae .. | .datam .. | .upgack .. | .wback .. | .inv ..
  | .fwds .. | .fwdx .. | .recall .. | .update .. | .renack .. | .rebase .. | .rebaseAnswer .. | .nak ..
  | .leaseFlushTimer .. | .selfRefreshEntry .. | .hostReadShared .. | .hostReadOwn .. | .memrd .. | .memwr ..
  | .qtail .. | .qprogWrite .. | .qdWrite .. | .switchOut .. | .switchIn .. | .cancel .. | .cancelTimeout ..
  | .rootWrite .. | .tlbInvalidate .. | .tlbInvalidateComplete .. | .imgflush .. | .trbaseWrite .. | .cecntClear ..
  | .registerWrite .. | .recordIntake .. | .launchStart .. | .starvationExpiry .. | .bindPost .. | .bindAccept ..
  | .clusterReserve .. | .clusterBackoffExpiry .. | .crewRetire .. | .pageWalk .. | .pageResponse ..
  | .swapoutTimer .. | .vacate .. | .crewSaveComplete .. | .crewRestore .. | .borrowCommand ..
  | .borrowRestoreComplete .. | .islandRecordEntry .. | .islandRecordExit .. | .i1ImageLoad ..
  | .i1ImageLoadComplete .. | .ingressSignal .. | .hostWriteback .. | .hostDropHalf .. | .birsp .. | .hostSnoop ..
  | .msixVectorUnmask .. | .peerWrite .. | .peerRead .. | .getCertificate .. | .challenge .. | .getMeasurements ..
  | .nop | .endl | .regang | .yield | .exit | .endGang | .halt | .ingressPerst | .tcreate | .tdestroy | .coremask
  | .rtset | .coresp | .scgran | .tidealloc | .tideisl | .pin | .unpin | .tabload | .rangewr | .wload | .wgrant
  | .pgretire | .measext | .starve | .invalidCommand | .commandEnd | .getVersion | .getCapabilities
  | .negotiateAlgorithms | .getDigests | .reset | .brownOut | .scrub => true

end Sys2Proof
end

