-- ==== Sys2Proof/Decode.lean ====
section
/-! DEFINITION. Decoding and encoding of instruction words (03 R77 to R95), numbered as in 03 R77: bit 0 is the least
significant bit of the word. -/

namespace Sys2Proof

/-- Why a word is not an instruction (03 R96). -/
inductive Reject where
  /-- an unassigned primary, or one of 0x78 to 0x7F -/
  | unassignedPrimary
  /-- an unassigned T variant or sub-operation -/
  | unassignedVariant
  /-- a reserved condition, scope, path, format code, token or status register -/
  | reservedCode
  /-- an operand or destination of a class that the field does not accept -/
  | operandClass
  /-- a word of the hint region, which decode removes (03 R30, R78) -/
  | hintRegion
  /-- EXPR outside slot 0, or an EXPR packet that fails 03 R93 or R95 -/
  | exprPlace
  deriving DecidableEq, Repr

/-- Bits `[lo + n - 1 : lo]` of a word. -/
def fld (w lo n : Nat) : Nat := w / 2 ^ lo % 2 ^ n

/-! ## Operand codes (03 R79) -/

/-- The special of codes 112 to 119. -/
def Special.ofIdx : Nat → Special
  | 0 => .lane
  | 1 => .sliceid
  | 2 => .gangid
  | 3 => .crewid
  | 4 => .crewx
  | 5 => .crewy
  | 6 => .crewz
  | _ => .clock

/-- The position of a special in 01 R18. -/
def Special.idx : Special → Nat
  | .lane => 0
  | .sliceid => 1
  | .gangid => 2
  | .crewid => 3
  | .crewx => 4
  | .crewy => 5
  | .crewz => 6
  | .clock => 7

/-- The inline constant of codes 122 to 127. -/
def Inline.ofIdx : Nat → Inline
  | 0 => .zero
  | 1 => .one
  | 2 => .mone
  | 3 => .two
  | 4 => .half
  | _ => .mhalf

/-- The position of an inline constant in 03 R81. -/
def Inline.idx : Inline → Nat
  | .zero => 0
  | .one => 1
  | .mone => 2
  | .two => 3
  | .half => 4
  | .mhalf => 5

/-- The operand of a 7-bit code. -/
def Src.ofCode (c : Nat) : Src :=
  if h : c < 96 then .v ⟨c, h⟩
  else if h : c < 112 then .s ⟨c - 96, by omega⟩
  else if c < 120 then .sp (Special.ofIdx (c - 112))
  else if c = 120 then .lit
  else if c = 121 then .plit
  else .cst (Inline.ofIdx (c - 122))

/-- The 7-bit code of an operand. -/
def Src.code : Src → Nat
  | .v n => n.val
  | .s n => 96 + n.val
  | .sp x => 112 + x.idx
  | .lit => 120
  | .plit => 121
  | .cst c => 122 + c.idx

/-- A V register in an operand field. -/
def vregOf (c : Nat) : Except Reject VReg :=
  if h : c < 96 then .ok ⟨c, h⟩ else .error .operandClass

/-- An S register in an operand field. -/
def sregOf (c : Nat) : Except Reject SReg :=
  if h : 96 ≤ c ∧ c < 112 then .ok ⟨c - 96, by omega⟩ else .error .operandClass

/-- A register number in the low four bits of a field (03 R83). -/
def num16 (f : Nat) : Fin 16 := ⟨f % 16, Nat.mod_lt _ (by decide)⟩
/-- A register number in the low three bits of a field (03 R83). -/
def num8 (f : Nat) : Fin 8 := ⟨f % 8, Nat.mod_lt _ (by decide)⟩
/-- A register number in the low two bits of a field (03 R83). -/
def num4 (f : Nat) : Fin 4 := ⟨f % 4, Nat.mod_lt _ (by decide)⟩

/-! ## Codes of 03 R89 to R94 -/

/-- The scope of a SCOPE field. -/
def Scope.ofCode : Nat → Option Scope
  | 0 => some .slice
  | 1 => some .gang
  | 2 => some .quarter
  | 3 => some .crew
  | 4 => some .core
  | 5 => some .cluster
  | 6 => some .tower
  | 7 => some .device
  | 8 => some .host
  | 9 => some .system
  | _ => none

/-- The number of a scope (00 R11). -/
def Scope.code : Scope → Nat
  | .slice => 0
  | .gang => 1
  | .quarter => 2
  | .crew => 3
  | .core => 4
  | .cluster => 5
  | .tower => 6
  | .device => 7
  | .host => 8
  | .system => 9

/-- The path of a P1 or P2 field. -/
def Path.ofCode : Nat → Option Path
  | 0 => some .lsu
  | 1 => some .vlt
  | 2 => some .cpy
  | 3 => some .mtx
  | 4 => some .adp
  | 5 => some .isl
  | 6 => some .ing
  | _ => none

/-- The code of a path. -/
def Path.code : Path → Nat
  | .lsu => 0
  | .vlt => 1
  | .cpy => 2
  | .mtx => 3
  | .adp => 4
  | .isl => 5
  | .ing => 6

/-- The condition of D[22:19]. -/
def Cond.ofCode : Nat → Option Cond
  | 0 => some .eq
  | 1 => some .ne
  | 2 => some .lt
  | 3 => some .le
  | 4 => some .gt
  | 5 => some .ge
  | 6 => some .ord
  | 7 => some .unord
  | _ => none

/-- The code of a condition. -/
def Cond.code : Cond → Nat
  | .eq => 0
  | .ne => 1
  | .lt => 2
  | .le => 3
  | .gt => 4
  | .ge => 5
  | .ord => 6
  | .unord => 7

/-- The format of a CVT code (03 R92). -/
def Fmt.ofCvt : Nat → Option Fmt
  | 0 => some .s8
  | 1 => some .u8
  | 2 => some .s16
  | 3 => some .u16
  | 4 => some .s32
  | 5 => some .u32
  | 6 => some .s64
  | 7 => some .u64
  | 8 => some .f32
  | 9 => some .f16
  | 10 => some .bf16
  | 11 => some .e4m3
  | 12 => some .e5m2
  | _ => none

/-- The format of a shape-record code (07 R202). -/
def Fmt.ofShape : Nat → Option Fmt
  | 13 => some .e2m1
  | 14 => some .i4
  | 15 => some .i2
  | 16 => some .i1
  | n => Fmt.ofCvt n

/-- The token of a 4-bit code (03 R94). -/
def Tok.ofCode : Nat → Option Tok
  | 0 => some .a
  | 1 => some .b
  | 2 => some .c
  | 3 => some .d
  | 4 => some .add
  | 5 => some .sub
  | 6 => some .mul
  | 7 => some .fma
  | 8 => some .min
  | 9 => some .max
  | 10 => some .neg
  | 11 => some .abs
  | 12 => some .rcp
  | 13 => some .sel
  | _ => none

/-- The code of a token. -/
def Tok.code : Tok → Nat
  | .a => 0
  | .b => 1
  | .c => 2
  | .d => 3
  | .add => 4
  | .sub => 5
  | .mul => 6
  | .fma => 7
  | .min => 8
  | .max => 9
  | .neg => 10
  | .abs => 11
  | .rcp => 12
  | .sel => 13

/-- The type that T selects in IADD, ISUB and ICMP. -/
def IntTy.ofT : Nat → IntTy
  | 0 => .s32
  | 1 => .u32
  | 2 => .s64
  | _ => .u64

/-- T of a type. -/
def IntTy.t : IntTy → Nat
  | .s32 => 0
  | .u32 => 1
  | .s64 => 2
  | .u64 => 3

/-- The cache treatment of a HINT field; an unassigned value acts as 0b000 (03 R89). -/
def Hint.ofCode : Nat → Hint
  | 1 => .strm
  | 2 => .last
  | _ => .none

/-- The code of a cache treatment. -/
def Hint.code : Hint → Nat
  | .none => 0
  | .strm => 1
  | .last => 2

/-! ## Decoding by primary (03 R90) -/

/-- An optional code, or a reserved-code rejection. -/
def codeOr {α : Type} (o : Option α) : Except Reject α :=
  match o with
  | some a => .ok a
  | none => .error .reservedCode

/-- Primaries 0x01 to 0x0F. -/
def decodeInt (op w : Nat) : Except Reject Instr :=
  let a := Src.ofCode (fld w 9 7)
  let b := Src.ofCode (fld w 2 7)
  let t := fld w 0 2
  let cc := fld w 19 4
  if op = 9 then do
    let c ← codeOr (Cond.ofCode cc)
    pure (.icmp c (IntTy.ofT t) (num8 (fld w 16 3)) a b)
  else do
    let d ← vregOf (fld w 16 7)
    match op, t with
    | 1, _ => pure (.iadd (IntTy.ofT t) d a b)
    | 2, _ => pure (.isub (IntTy.ofT t) d a b)
    | 3, _ => pure (.imul (t / 2 == 1) (t % 2 == 1) d a b)
    | 4, 0 => pure (.imad false d a b)
    | 4, 1 => pure (.imad true d a b)
    | 5, 0 => pure (.idiv false d a b)
    | 5, 1 => pure (.idiv true d a b)
    | 5, 2 => pure (.irem false d a b)
    | 5, _ => pure (.irem true d a b)
    | 6, _ => pure (.movi d (BitVec.ofNat 16 (fld w 0 16)))
    | 7, 0 => pure (.imin false d a b)
    | 7, 1 => pure (.imin true d a b)
    | 7, 2 => pure (.imax false d a b)
    | 7, _ => pure (.imax true d a b)
    | 8, 0 => pure (.iabs d a)
    | 8, 1 => pure (.ineg d a)
    | 8, 2 => pure (.brev d a)
    | 10, 0 => pure (.and d a b)
    | 10, 1 => pure (.or d a b)
    | 10, 2 => pure (.xor d a b)
    | 10, _ => pure (.andn d a b)
    | 11, 0 => pure (.not d a)
    | 11, 1 => pure (.popc d a)
    | 11, 2 => pure (.clz d a)
    | 11, _ => pure (.ctz d a)
    | 12, 0 => pure (.shl d a b)
    | 12, 1 => pure (.shr d a b)
    | 12, 2 => pure (.sar d a b)
    | 12, _ => pure (.rot d a b)
    | 13, 0 => pure (.bfe false d a b)
    | 13, 1 => pure (.bfe true d a b)
    | 13, 2 => pure (.bfi d a b)
    | 14, _ => pure (.sel (num4 t) d a b)
    | 15, 0 => pure (.mov false d a)
    | 15, 1 => pure (.mov true d a)
    | _, _ => .error .unassignedVariant

/-- Primaries 0x10 to 0x16. -/
def decodeScalar (op w : Nat) : Except Reject Instr :=
  let df := fld w 16 7
  let af := fld w 9 7
  let bf := fld w 2 7
  let a := Src.ofCode af
  let b := Src.ofCode bf
  match op, fld w 0 2 with
  | 0x10, 0 => do let d ← sregOf df; pure (.sadd d a b)
  | 0x10, 1 => do let d ← sregOf df; pure (.ssub d a b)
  | 0x10, 2 => do let d ← sregOf df; pure (.sand d a b)
  | 0x10, _ => do let d ← sregOf df; pure (.sor d a b)
  | 0x11, 0 => do let d ← sregOf df; pure (.sshl d a b)
  | 0x11, 1 => do let d ← sregOf df; pure (.sshr d a b)
  | 0x11, 2 => do let d ← sregOf df; pure (.smul d a b)
  | 0x12, 0 => do let d ← sregOf df; pure (.scmp .eq d a b)
  | 0x12, 1 => do let d ← sregOf df; pure (.scmp .ne d a b)
  | 0x12, 2 => do let d ← sregOf df; pure (.scmp .ltS d a b)
  | 0x12, _ => do let d ← sregOf df; pure (.scmp .ltU d a b)
  | 0x13, 0 => do let d ← sregOf df; let v ← vregOf af; pure (.movs (.toS d v))
  | 0x13, 1 => do let d ← vregOf df; let v ← sregOf af; pure (.movs (.toV d v))
  | 0x14, 0 => pure (.adda (num16 df) (num16 af) b)
  | 0x14, 1 =>
    if h : df / 16 < 5 then pure (.lea ⟨df / 16, h⟩ (num16 df) (num16 af) b) else .error .reservedCode
  | 0x14, 2 =>
    match df / 16 with
    | 0 => pure (.mova (.a (num16 df) (num16 af) b))
    | 1 => pure (.mova (.lo (num16 df) (num16 af)))
    | 2 => pure (.mova (.hi (num16 df) (num16 af)))
    | _ => .error .reservedCode
  | 0x15, 0 => pure (.kand (num8 df) (num8 af) (num8 bf))
  | 0x15, 1 => pure (.kor (num8 df) (num8 af) (num8 bf))
  | 0x15, 2 => pure (.knot (num8 df) (num8 af))
  | 0x15, _ => do let d ← sregOf df; pure (.kpop d (num8 af))
  | 0x16, 0 => pure (.setx (num8 af))
  | 0x16, 1 => pure (.getx (num8 df))
  | _, _ => .error .unassignedVariant

/-- Primaries 0x18 to 0x1F. -/
def decodeCtl (op w : Nat) : Except Reject Instr :=
  let cond := fld w 20 3
  let reg := fld w 16 4
  let off := BitVec.ofNat 16 (fld w 0 16)
  let off20 := BitVec.ofNat 20 (fld w 0 20)
  let df := fld w 16 7
  let af := fld w 9 7
  match op with
  | 0x18 => if cond = 0 then pure (.br off20) else .error .reservedCode
  | 0x19 =>
    match cond with
    | 0 => pure (.brk .nz (num8 reg) off)
    | 1 => pure (.brk .z (num8 reg) off)
    | 2 => pure (.brk .any (num8 reg) off)
    | 3 => pure (.brk .all (num8 reg) off)
    | _ => .error .reservedCode
  | 0x1A =>
    match cond with
    | 0 => pure (.brs .z (num16 reg) off)
    | 1 => pure (.brs .nz (num16 reg) off)
    | 2 => pure (.brs .ltz (num16 reg) off)
    | 3 => pure (.brs .gez (num16 reg) off)
    | 4 => pure (.brs .gtz (num16 reg) off)
    | 5 => pure (.brs .lez (num16 reg) off)
    | _ => .error .reservedCode
  | 0x1B =>
    match fld w 0 2 with
    | 0 => pure (.jmp (num16 af))
    | 1 => pure (.callIndirect (num16 df) (num16 af))
    | 2 => pure (.ret (num16 af))
    | _ => .error .unassignedVariant
  | 0x1C => if cond = 0 then pure (.call off20) else .error .reservedCode
  | 0x1D => if cond = 0 then pure (.loop (num16 reg) off) else .error .reservedCode
  | 0x1E =>
    match fld w 0 2 with
    | 0 => pure .endl
    | 1 => pure (.join (BitVec.ofNat 14 (fld w 2 14)))
    | 2 => pure .regang
    | _ => pure .yield
  | 0x1F => if fld w 0 2 = 0 then pure .exit else .error .unassignedVariant
  | _ => .error .unassignedPrimary

/-- The FP8 format that a T bit selects. -/
def Fp8.ofBit (b : Nat) : Fp8 := if b = 1 then .e5m2 else .e4m3

/-- The T bit of an FP8 format. -/
def Fp8.bit : Fp8 → Nat
  | .e4m3 => 0
  | .e5m2 => 1

/-- Primaries 0x20 to 0x35. -/
def decodeFloat (op w : Nat) : Except Reject Instr :=
  let a := Src.ofCode (fld w 9 7)
  let b := Src.ofCode (fld w 2 7)
  let x := fld w 1 1 == 1
  if op = 0x24 then
    if fld w 0 1 = 0 then do
      let c ← codeOr (Cond.ofCode (fld w 19 4))
      pure (.fcmp x c (num8 (fld w 16 3)) a b)
    else .error .unassignedVariant
  else do
    let d ← vregOf (fld w 16 7)
    match op, fld w 0 1 with
    | 0x20, 0 => pure (.fadd x d a b)
    | 0x20, _ => pure (.fsub x d a b)
    | 0x21, 0 => pure (.fmul x d a b)
    | 0x22, 0 => pure (.ffma x d a b)
    | 0x23, 0 => pure (.fmin x d a b)
    | 0x23, _ => pure (.fmax x d a b)
    | 0x25, 0 => pure (.fclass x d a)
    | 0x25, _ => pure (.frnd x d a)
    | 0x26, t => pure (.hadd2 x (t == 1) d a b)
    | 0x27, t => pure (.hmul2 x (t == 1) d a b)
    | 0x28, t => pure (.hfma2 x (t == 1) d a b)
    | 0x29, t => pure (.dot4F8 (Fp8.ofBit (fld w 1 1)) (Fp8.ofBit t) d a b)
    | 0x2A, t => pure (.dot4I8 (fld w 1 1 == 1) (t == 1) d a b)
    | 0x30, _ => do
      let dst ← codeOr (Fmt.ofCvt (fld w 5 4))
      let src ← codeOr (Fmt.ofCvt (fld w 2 3 + 8))
      pure (.cvtFromFloat x dst src d a)
    | 0x31, _ => do
      let dst ← codeOr (Fmt.ofCvt (fld w 5 4))
      let src ← codeOr (Fmt.ofCvt (fld w 2 3))
      pure (.cvtFromInt x dst src d a)
    | 0x32, 0 => pure (.rcp x d a)
    | 0x32, _ => pure (.rsq x d a)
    | 0x33, 0 => pure (.sqrt x d a)
    | 0x33, _ => pure (.log2 x d a)
    | 0x34, 0 => pure (.exp2 x d a)
    | 0x35, 0 => pure (.sin x d a)
    | 0x35, _ => pure (.cos x d a)
    | _, _ => .error .unassignedVariant

/-- The operation of T in SCAN and REDUCE. -/
def ScanOp.ofT : Nat → Option ScanOp
  | 0 => some .add
  | 1 => some .min
  | 2 => some .max
  | _ => none

/-- T of a SCAN or REDUCE operation. -/
def ScanOp.t : ScanOp → Nat
  | .add => 0
  | .min => 1
  | .max => 2

/-- The type of B[7:5]. -/
def ScanTy.ofCode : Nat → Option ScanTy
  | 0 => some .s32
  | 1 => some .u32
  | 2 => some .f32
  | _ => none

/-- B[7:5] of a type. -/
def ScanTy.code : ScanTy → Nat
  | .s32 => 0
  | .u32 => 1
  | .f32 => 2

/-- The mode of T in SHFL. -/
def ShflMode.ofT : Nat → ShflMode
  | 0 => .idx
  | 1 => .xor
  | 2 => .up
  | _ => .down

/-- T of a SHFL mode. -/
def ShflMode.t : ShflMode → Nat
  | .idx => 0
  | .xor => 1
  | .up => 2
  | .down => 3

/-- Primaries 0x38 to 0x3D. -/
def decodeCross (op w : Nat) : Except Reject Instr := do
  let df := fld w 16 7
  let t := fld w 0 2
  let b := Src.ofCode (fld w 2 7)
  let a ← vregOf (fld w 9 7)
  match op, t with
  | 0x38, _ => do let d ← vregOf df; pure (.shfl (ShflMode.ofT t) d a b)
  | 0x39, 0 => do let d ← vregOf df; pure (.bcast d a b)
  | 0x39, 1 => do let d ← vregOf df; pure (.perm d a b)
  | 0x3A, 0 => pure (.ballot (num8 df) a)
  | 0x3B, 0 =>
    match fld w 19 4 with
    | 0 => pure (.vote .any (num8 df) a)
    | 1 => pure (.vote .all (num8 df) a)
    | 2 => pure (.vote .eq (num8 df) a)
    | _ => .error .reservedCode
  | 0x3C, _ => do
    let d ← vregOf df
    let o ← codeOr (ScanOp.ofT t)
    let ty ← codeOr (ScanTy.ofCode (fld w 5 3))
    pure (.scan o (fld w 8 1 == 1) ty d a)
  | 0x3D, _ => do
    let o ← codeOr (ScanOp.ofT t)
    let ty ← codeOr (ScanTy.ofCode (fld w 5 3))
    if df < 96 then do let d ← vregOf df; pure (.reduce o ty (.v d) a)
    else do let d ← sregOf df; pure (.reduce o ty (.s d) a)
  | _, _ => .error .unassignedVariant

/-- The word size of SZ. -/
def WSize.ofSz : Nat → Option WSize
  | 0 => some .b32
  | 1 => some .b64
  | 2 => some .b128
  | _ => none

/-- SZ of a word size. -/
def WSize.sz : WSize → Nat
  | .b32 => 0
  | .b64 => 1
  | .b128 => 2

/-- The vault atomic of OP4. -/
def AtomvOp.ofCode : Nat → Option AtomvOp
  | 0 => some .add
  | 1 => some .minS
  | 2 => some .maxS
  | 3 => some .minU
  | 4 => some .maxU
  | 5 => some .and
  | 6 => some .or
  | 7 => some .xor
  | 8 => some .xchg
  | 9 => some .cas
  | 10 => some .fadd
  | 11 => some .fmin
  | 12 => some .fmax
  | _ => none

/-- OP4 of a vault atomic. -/
def AtomvOp.code : AtomvOp → Nat
  | .add => 0
  | .minS => 1
  | .maxS => 2
  | .minU => 3
  | .maxU => 4
  | .and => 5
  | .or => 6
  | .xor => 7
  | .xchg => 8
  | .cas => 9
  | .fadd => 10
  | .fmin => 11
  | .fmax => 12

/-- The memory atomic of primary 0x50 + `i` and VAR (06 R170). -/
def AtomOp.ofCode : Nat → Nat → Option AtomOp
  | 0, 0 => some .addU32
  | 0, _ => some .faddF32
  | 1, 0 => some .minS32
  | 1, _ => some .maxS32
  | 2, 0 => some .minU32
  | 2, _ => some .maxU32
  | 3, 0 => some .and32
  | 3, _ => some .or32
  | 4, 0 => some .xor32
  | 4, _ => some .xchg32
  | 5, 0 => some .cas32
  | 5, _ => some .cas64
  | 6, 0 => some .fminF32
  | 6, _ => some .fmaxF32
  | _, _ => none

/-- Primary minus 0x50, and VAR, of a memory atomic. -/
def AtomOp.code : AtomOp → Nat × Nat
  | .addU32 => (0, 0)
  | .faddF32 => (0, 1)
  | .minS32 => (1, 0)
  | .maxS32 => (1, 1)
  | .minU32 => (2, 0)
  | .maxU32 => (2, 1)
  | .and32 => (3, 0)
  | .or32 => (3, 1)
  | .xor32 => (4, 0)
  | .xchg32 => (4, 1)
  | .cas32 => (5, 0)
  | .cas64 => (5, 1)
  | .fminF32 => (6, 0)
  | .fmaxF32 => (6, 1)

/-- Primaries 0x40 to 0x57. -/
def decodeMem (op w : Nat) : Except Reject Instr :=
  let df := fld w 16 7
  let d := Src.ofCode df
  let o := Src.ofCode (fld w 9 7)
  let ba : Fin 16 := num16 (fld w 5 4)
  let hint := Hint.ofCode (fld w 2 3)
  let sz := fld w 0 2
  let sc := codeOr (Scope.ofCode (fld w 1 4))
  match op with
  | 0x40 => do
    let z ← match WSize.ofSz sz with
      | some .b32 => pure LdSize.b32
      | some .b64 => pure LdSize.b64
      | some .b128 => pure LdSize.b128
      | none => .error .unassignedVariant
    let v ← vregOf df
    pure (.ld z hint v o ba)
  | 0x41 => do
    let v ← vregOf df
    match sz with
    | 0 => pure (.ld .u8 hint v o ba)
    | 1 => pure (.ld .s8 hint v o ba)
    | 2 => pure (.ld .u16 hint v o ba)
    | _ => pure (.ld .s16 hint v o ba)
  | 0x42 =>
    match WSize.ofSz sz with
    | some .b32 => pure (.st .b32 hint d o ba)
    | some .b64 => pure (.st .b64 hint d o ba)
    | some .b128 => pure (.st .b128 hint d o ba)
    | none => .error .unassignedVariant
  | 0x43 =>
    match sz with
    | 0 => pure (.st .b8 hint d o ba)
    | 1 => pure (.st .b16 hint d o ba)
    | _ => .error .unassignedVariant
  | 0x44 => do let s ← sc; let v ← vregOf df; pure (.ldAcq (fld w 0 1 == 1) s v o ba)
  | 0x45 => do let s ← sc; pure (.stRel (fld w 0 1 == 1) s d o ba)
  | 0x46 =>
    match WSize.ofSz sz with
    | some z => do let v ← vregOf df; pure (.ldg z hint v o ba)
    | none => .error .unassignedVariant
  | 0x47 =>
    match WSize.ofSz sz with
    | some z => pure (.stg z hint d o ba)
    | none => .error .unassignedVariant
  | 0x48 =>
    match WSize.ofSz sz with
    | some z => do let v ← vregOf df; pure (.ldv z v o ba)
    | none => .error .unassignedVariant
  | 0x49 =>
    match WSize.ofSz sz with
    | some z => pure (.stv z d o ba)
    | none => .error .unassignedVariant
  | 0x4A =>
    match AtomvOp.ofCode (fld w 1 4) with
    | some z => do let v ← vregOf df; pure (.atomv z v o ba)
    | none => .error .unassignedVariant
  | 0x4B => pure (.pref hint o ba)
  | 0x57 =>
    match Scope.ofCode (fld w 17 4), fld w 21 2 with
    | some s, 0 => pure (.fence s)
    | some s, 1 => do
      let p1 ← codeOr (Path.ofCode (fld w 14 3))
      let p2 ← codeOr (Path.ofCode (fld w 11 3))
      pure (.fenceX s p1 p2)
    | some s, 2 => pure (.afence s (num16 (fld w 7 4)) (num16 (fld w 3 4)))
    | some _, _ => .error .unassignedVariant
    | none, _ => .error .reservedCode
  | _ =>
    match AtomOp.ofCode (op - 0x50) (fld w 0 1) with
    | some z => do let s ← sc; let v ← vregOf df; pure (.atom z s v o ba)
    | none => .error .unassignedPrimary

/-- Primaries 0x58 to 0x68, format E. -/
def decodeEngine (op w : Nat) : Except Reject Instr :=
  let odf := fld w 16 7
  let od := Src.ofCode odf
  let oaf := fld w 9 7
  let oa := Src.ofCode oaf
  let hnd := fld w 5 4
  let f := fld w 0 2
  let f0 := f % 2 == 1
  let f1 := f / 2 == 1
  let tok : TReg := num4 f
  match op, fld w 2 3 with
  | 0x58, 0 => pure (.nbinit (num16 hnd) oa)
  | 0x58, 1 => do let s ← sregOf odf; pure (.nbarr s (num16 hnd))
  | 0x58, 2 => do let s ← sregOf odf; pure (.nbwait s (num16 hnd))
  | 0x59, 0 => do let s ← sregOf odf; pure (.tgarr s oa)
  | 0x59, 1 => do let s ← sregOf odf; pure (.tgwait s oa)
  | 0x59, 2 => pure (.tgjoin oa)
  | 0x59, 3 => pure (.tgleave oa)
  | 0x5A, 0 => pure (.evsig oa)
  | 0x5A, 1 => do let s ← sregOf odf; pure (.evwait s oa)
  | 0x5A, 2 => do let s ← sregOf odf; pure (.evtest s oa)
  | 0x5B, 0 => pure (.qbind (num16 hnd) oa)
  | 0x5B, 1 => do let v ← vregOf odf; pure (.qpush (num16 hnd) v)
  | 0x5B, 2 => do let v ← vregOf odf; pure (.qpop v (num16 hnd))
  | 0x5B, 3 => do let v ← vregOf odf; pure (.qpeek v (num16 hnd))
  | 0x5B, 4 => do let s ← sregOf odf; pure (.qdepth s (num16 hnd))
  | 0x60, 0 => do let s ← sregOf odf; pure (.shape (num8 hnd) s)
  | 0x61, 0 => pure (.copy f0 f1 (num8 hnd) od (num16 oaf))
  | 0x61, 1 => if f = 0 then pure (.copyCsr (num8 hnd) od (num16 oaf)) else .error .reservedCode
  | 0x61, 2 => pure (.copyPlane f0 f1 (num8 hnd) od (num16 oaf))
  | 0x61, 3 => do let s ← sregOf odf; pure (.cpstat s (num8 hnd))
  | 0x61, 4 => if f = 0 then pure (.copyQ (num8 hnd) od (num16 oaf)) else .error .reservedCode
  | 0x62, 0 => pure (.mma tok (num8 hnd) (num8 oaf))
  | 0x62, 1 => pure (.mmaI tok (num8 hnd) (num8 oaf))
  | 0x62, 2 => do let s ← sregOf odf; pure (.mmaAd tok (num8 hnd) (num8 oaf) s)
  | 0x62, 3 => pure (.mmaQ tok (num16 hnd) (num8 oaf) od)
  | 0x63, 0 => pure (.macq tok)
  | 0x63, 1 => pure (.mrel tok)
  | 0x63, 2 => do let v ← vregOf odf; pure (.mlda v tok oa)
  | 0x63, 3 => do let v ← vregOf odf; pure (.msta v tok oa)
  | 0x63, 4 => pure (.mclr tok)
  | 0x64, 0 => pure (.adinv oa)
  | 0x68, 0 => do let v ← vregOf odf; pure (.islpush f0 (num16 hnd) v oa)
  | 0x68, 1 => do let s ← sregOf odf; pure (.islrecv s (num16 hnd) oa)
  | 0x68, 2 => do let s ← sregOf odf; pure (.islstat s oa)
  | _, _ => .error .unassignedVariant

/-- Primaries 0x6C to 0x6F. -/
def decodeSystem (op w : Nat) : Except Reject Instr :=
  let df := fld w 16 7
  let imm := BitVec.ofNat 16 (fld w 0 16)
  let a := Src.ofCode (fld w 9 7)
  match op with
  | 0x6C => do let d ← sregOf df; pure (.rdsr d imm)
  | 0x6D => pure (.wrsr imm (Src.ofCode df))
  | 0x6E =>
    match df % 8 with
    | 0 => pure (.trap imm)
    | 1 => pure (.brkpt imm)
    | 2 => pure (.dbgmark imm)
    | _ => .error .unassignedVariant
  | _ =>
    match fld w 0 2 with
    | 0 => pure .endGang
    | 1 => pure .halt
    | 2 => pure (.sleep a)
    | _ => do let d ← sregOf df; pure (.getinfo d a)

/-- The fields of a word, by its primary (03 R90); operand classes are checked by `decodeWord`. -/
def decodeRaw (w : Nat) : Except Reject Instr :=
  let op := fld w 23 7
  if op = 0 then .ok .nop
  else if op ≤ 0x0F then decodeInt op w
  else if op ≤ 0x16 then decodeScalar op w
  else if op = 0x17 then .error .unassignedPrimary
  else if op ≤ 0x1F then decodeCtl op w
  else if op ≤ 0x2A then decodeFloat op w
  else if op ≤ 0x2F then .error .unassignedPrimary
  else if op ≤ 0x35 then decodeFloat op w
  else if op ≤ 0x37 then .error .unassignedPrimary
  else if op ≤ 0x3D then decodeCross op w
  else if op = 0x3E then .error .exprPlace
  else if op = 0x3F then .error .unassignedPrimary
  else if op ≤ 0x57 then (if 0x4C ≤ op ∧ op ≤ 0x4F then .error .unassignedPrimary else decodeMem op w)
  else if op ≤ 0x5B then decodeEngine op w
  else if op ≤ 0x5F then .error .unassignedPrimary
  else if op ≤ 0x64 then decodeEngine op w
  else if op ≤ 0x67 then .error .unassignedPrimary
  else if op = 0x68 then decodeEngine op w
  else if op ≤ 0x6B then .error .unassignedPrimary
  else if op ≤ 0x6F then decodeSystem op w
  else if op ≤ 0x77 then .error .hintRegion
  else .error .unassignedPrimary

/-- The instruction of one word, or the name of why it is none (03 R80, R96). -/
def decodeWord (w : Nat) : Except Reject Instr := do
  let i ← decodeRaw w
  if i.wf then .ok i else .error .operandClass

/-- Tokens 0 to `n - 1` of an EXPR packet, from the two token words (03 R93). -/
def exprToks (w2 w3 : Nat) : Nat → Option (List Tok)
  | 0 => some []
  | n + 1 =>
    match exprToks w2 w3 n, Tok.ofCode (if n < 8 then fld w2 (4 * n) 4 else fld w3 (4 * (n - 8)) 4) with
    | some ts, some t => some (ts ++ [t])
    | _, _ => none

/-- The instruction of an EXPR packet whose slot 0 holds primary 0x3E (03 R93). -/
def decodeExpr (w0 w1 w2 w3 : Nat) : Except Reject Instr :=
  if fld w1 23 7 ≠ 0x3E then .error .exprPlace
  else if 2 ≤ fld w0 0 2 then .error .unassignedVariant
  else do
    let d ← vregOf (fld w0 16 7)
    let ts ← codeOr (exprToks w2 w3 (fld w1 5 4))
    let i := Instr.expr (fld w0 0 2 == 1) d (Src.ofCode (fld w0 9 7)) (Src.ofCode (fld w0 2 7))
      (Src.ofCode (fld w1 16 7)) (Src.ofCode (fld w1 9 7)) ts
    if i.wf then .ok i else .error .exprPlace

/-! ## Packets (03 R74, R30) -/

/-- One word of a packet after decode. -/
structure PWord where
  slot : Nat
  i : Instr
  chain : Bool
  deriving DecidableEq, Repr

/-- Is a word removed before grouping: all zero, or in the hint region (01 R30)? -/
def removedWord (w : Nat) : Bool := w == 0 || (decide (0x70 ≤ fld w 23 7) && decide (fld w 23 7 ≤ 0x77))

/-- The four slots of a packet. -/
structure Packet where
  w0 : Nat
  w1 : Nat
  w2 : Nat
  w3 : Nat
  deriving DecidableEq, Repr

/-- An EXPR packet: primary 0x3E in slot 0 (03 R93). -/
def Packet.isExpr (p : Packet) : Bool := fld p.w0 23 7 == 0x3E

/-- The switch marker of a packet: S in any of its words, in words 0 and 1 of an EXPR packet (01 R43, 03 R78, R93). -/
def Packet.isSwitch (p : Packet) : Bool :=
  fld p.w0 30 1 == 1 || fld p.w1 30 1 == 1 || (!p.isExpr && fld p.w2 30 1 == 1)

/-- The result of decoding the words of a packet: the remaining words in slot order, or the lowest slot that holds no
instruction (03 R97). -/
def decodeSlots : List (Nat × Nat) → Except Nat (List PWord)
  | [] => .ok []
  | (slot, w) :: r =>
    if removedWord w then decodeSlots r
    else
      match decodeWord w with
      | .error _ => .error slot
      | .ok i =>
        match decodeSlots r with
        | .error s => .error s
        | .ok ws => .ok ({ slot := slot, i := i, chain := fld w 31 1 == 1 && slot < 2 } :: ws)

/-- The words of a packet, or the slot that meets UNDEF (03 R97). -/
def Packet.words (p : Packet) : Except Nat (List PWord) :=
  if p.isExpr then
    match decodeExpr p.w0 p.w1 p.w2 p.w3 with
    | .ok i => .ok [{ slot := 0, i := i, chain := false }]
    | .error _ => .error 0
  else decodeSlots [(0, p.w0), (1, p.w1), (2, p.w2)]

/-- The chain groups of the remaining words (01 R30). -/
def chainGroups : List PWord → List (List PWord)
  | [] => []
  | w :: r =>
    match w.chain, chainGroups r with
    | true, g :: gs => (w :: g) :: gs
    | _, gs => [w] :: gs

/-- The packet of four little-endian words (00 R8, 03 R74). -/
def Packet.ofBytes (b : Nat → Byte) : Packet :=
  let word (k : Nat) : Nat :=
    (b (4 * k)).toNat + 256 * (b (4 * k + 1)).toNat + 65536 * (b (4 * k + 2)).toNat +
      16777216 * (b (4 * k + 3)).toNat
  { w0 := word 0, w1 := word 1, w2 := word 2, w3 := word 3 }

/-! ## Encoding (03 R88) -/

/-- Format R. -/
def encR (op d a b t : Nat) : Nat := op * 2 ^ 23 + d * 2 ^ 16 + a * 2 ^ 9 + b * 2 ^ 2 + t
/-- Format RK. -/
def encRK (op sub k a b t : Nat) : Nat := op * 2 ^ 23 + sub * 2 ^ 19 + k * 2 ^ 16 + a * 2 ^ 9 + b * 2 ^ 2 + t
/-- Format I. -/
def encI (op d imm : Nat) : Nat := op * 2 ^ 23 + d * 2 ^ 16 + imm
/-- Format M. -/
def encM (op d o ba hint sz : Nat) : Nat := op * 2 ^ 23 + d * 2 ^ 16 + o * 2 ^ 9 + ba * 2 ^ 5 + hint * 2 ^ 2 + sz
/-- Formats MO, MA and MV. -/
def encMO (op d o ba sc v : Nat) : Nat := op * 2 ^ 23 + d * 2 ^ 16 + o * 2 ^ 9 + ba * 2 ^ 5 + sc * 2 + v
/-- Format B20. -/
def encB20 (op cond off : Nat) : Nat := op * 2 ^ 23 + cond * 2 ^ 20 + off
/-- Format B16. -/
def encB16 (op cond reg off : Nat) : Nat := op * 2 ^ 23 + cond * 2 ^ 20 + reg * 2 ^ 16 + off
/-- Format E. -/
def encE (op od oa hnd sub f : Nat) : Nat := op * 2 ^ 23 + od * 2 ^ 16 + oa * 2 ^ 9 + hnd * 2 ^ 5 + sub * 2 ^ 2 + f
/-- Format FN. -/
def encFN (kind sc p1 p2 ax ay : Nat) : Nat :=
  0x57 * 2 ^ 23 + kind * 2 ^ 21 + sc * 2 ^ 17 + p1 * 2 ^ 14 + p2 * 2 ^ 11 + ax * 2 ^ 7 + ay * 2 ^ 3

/-- A Bool as a bit. -/
def bit (b : Bool) : Nat := if b then 1 else 0

/-- The CVT code of a format (0 outside 03 R92). -/
def Fmt.cvt0 (f : Fmt) : Nat :=
  match f.cvtCode with
  | some c => c
  | none => 0

/-- The token words of an EXPR packet. -/
def encToks : Nat → List Tok → Nat
  | _, [] => 0
  | k, t :: ts => t.code * 2 ^ (4 * k) + encToks (k + 1) ts

/-- The word of an instruction of one word, C and S clear and every reserved field zero; `none` for EXPR and for the
steps that are no instruction words. -/
def encodeWord : Instr → Option Nat
  | .nop => some 0
  | .iadd ty d a b => some (encR 1 d.val a.code b.code ty.t)
  | .isub ty d a b => some (encR 2 d.val a.code b.code ty.t)
  | .imul hi u d a b => some (encR 3 d.val a.code b.code (2 * bit hi + bit u))
  | .imad u d a b => some (encR 4 d.val a.code b.code (bit u))
  | .idiv u d a b => some (encR 5 d.val a.code b.code (bit u))
  | .irem u d a b => some (encR 5 d.val a.code b.code (2 + bit u))
  | .movi d imm => some (encI 6 d.val imm.toNat)
  | .imin u d a b => some (encR 7 d.val a.code b.code (bit u))
  | .imax u d a b => some (encR 7 d.val a.code b.code (2 + bit u))
  | .iabs d a => some (encR 8 d.val a.code 0 0)
  | .ineg d a => some (encR 8 d.val a.code 0 1)
  | .brev d a => some (encR 8 d.val a.code 0 2)
  | .icmp cc ty k a b => some (encRK 9 cc.code k.val a.code b.code ty.t)
  | .and d a b => some (encR 10 d.val a.code b.code 0)
  | .or d a b => some (encR 10 d.val a.code b.code 1)
  | .xor d a b => some (encR 10 d.val a.code b.code 2)
  | .andn d a b => some (encR 10 d.val a.code b.code 3)
  | .not d a => some (encR 11 d.val a.code 0 0)
  | .popc d a => some (encR 11 d.val a.code 0 1)
  | .clz d a => some (encR 11 d.val a.code 0 2)
  | .ctz d a => some (encR 11 d.val a.code 0 3)
  | .shl d a b => some (encR 12 d.val a.code b.code 0)
  | .shr d a b => some (encR 12 d.val a.code b.code 1)
  | .sar d a b => some (encR 12 d.val a.code b.code 2)
  | .rot d a b => some (encR 12 d.val a.code b.code 3)
  | .bfe sg d a b => some (encR 13 d.val a.code b.code (bit sg))
  | .bfi d a b => some (encR 13 d.val a.code b.code 2)
  | .sel k d a b => some (encR 14 d.val a.code b.code k.val)
  | .mov w d a => some (encR 15 d.val a.code 0 (bit w))
  | .sadd d a b => some (encR 16 (96 + d.val) a.code b.code 0)
  | .ssub d a b => some (encR 16 (96 + d.val) a.code b.code 1)
  | .sand d a b => some (encR 16 (96 + d.val) a.code b.code 2)
  | .sor d a b => some (encR 16 (96 + d.val) a.code b.code 3)
  | .sshl d a b => some (encR 17 (96 + d.val) a.code b.code 0)
  | .sshr d a b => some (encR 17 (96 + d.val) a.code b.code 1)
  | .smul d a b => some (encR 17 (96 + d.val) a.code b.code 2)
  | .scmp cc d a b =>
    some (encR 18 (96 + d.val) a.code b.code
      (match cc with
       | .eq => 0
       | .ne => 1
       | .ltS => 2
       | .ltU => 3))
  | .movs (.toS d a) => some (encR 19 (96 + d.val) a.val 0 0)
  | .movs (.toV d a) => some (encR 19 d.val (96 + a.val) 0 1)
  | .adda d a b => some (encR 20 d.val a.val b.code 0)
  | .lea sh d a b => some (encR 20 (16 * sh.val + d.val) a.val b.code 1)
  | .mova (.a d a b) => some (encR 20 d.val a.val b.code 2)
  | .mova (.lo d a) => some (encR 20 (16 + d.val) a.val 0 2)
  | .mova (.hi d a) => some (encR 20 (32 + d.val) a.val 0 2)
  | .kand d a b => some (encR 21 d.val a.val b.val 0)
  | .kor d a b => some (encR 21 d.val a.val b.val 1)
  | .knot d a => some (encR 21 d.val a.val 0 2)
  | .kpop d a => some (encR 21 (96 + d.val) a.val 0 3)
  | .setx a => some (encR 22 0 a.val 0 0)
  | .getx d => some (encR 22 d.val 0 0 1)
  | .br off => some (encB20 24 0 off.toNat)
  | .brk cc k off =>
    some (encB16 25
      (match cc with
       | .nz => 0
       | .z => 1
       | .any => 2
       | .all => 3) k.val off.toNat)
  | .brs cc a off =>
    some (encB16 26
      (match cc with
       | .z => 0
       | .nz => 1
       | .ltz => 2
       | .gez => 3
       | .gtz => 4
       | .lez => 5) a.val off.toNat)
  | .jmp a => some (encR 27 0 a.val 0 0)
  | .callIndirect d a => some (encR 27 d.val a.val 0 1)
  | .ret a => some (encR 27 0 a.val 0 2)
  | .call off => some (encB20 28 0 off.toNat)
  | .loop a off => some (encB16 29 0 a.val off.toNat)
  | .endl => some (encR 30 0 0 0 0)
  | .join dist => some (30 * 2 ^ 23 + dist.toNat * 4 + 1)
  | .regang => some (encR 30 0 0 0 2)
  | .yield => some (encR 30 0 0 0 3)
  | .exit => some (encR 31 0 0 0 0)
  | .fadd x d a b => some (encR 32 d.val a.code b.code (2 * bit x))
  | .fsub x d a b => some (encR 32 d.val a.code b.code (2 * bit x + 1))
  | .fmul x d a b => some (encR 33 d.val a.code b.code (2 * bit x))
  | .ffma x d a b => some (encR 34 d.val a.code b.code (2 * bit x))
  | .fmin x d a b => some (encR 35 d.val a.code b.code (2 * bit x))
  | .fmax x d a b => some (encR 35 d.val a.code b.code (2 * bit x + 1))
  | .fcmp x cc k a b => some (encRK 36 cc.code k.val a.code b.code (2 * bit x))
  | .fclass x d a => some (encR 37 d.val a.code 0 (2 * bit x))
  | .frnd x d a => some (encR 37 d.val a.code 0 (2 * bit x + 1))
  | .hadd2 x bf d a b => some (encR 38 d.val a.code b.code (2 * bit x + bit bf))
  | .hmul2 x bf d a b => some (encR 39 d.val a.code b.code (2 * bit x + bit bf))
  | .hfma2 x bf d a b => some (encR 40 d.val a.code b.code (2 * bit x + bit bf))
  | .dot4F8 fa fb d a b => some (encR 41 d.val a.code b.code (2 * fa.bit + fb.bit))
  | .dot4I8 ua ub d a b => some (encR 42 d.val a.code b.code (2 * bit ua + bit ub))
  | .cvtFromFloat x dst src d a => some (encR 48 d.val a.code (8 * dst.cvt0 + (src.cvt0 - 8)) (2 * bit x))
  | .cvtFromInt x dst src d a => some (encR 49 d.val a.code (8 * dst.cvt0 + src.cvt0) (2 * bit x))
  | .rcp x d a => some (encR 50 d.val a.code 0 (2 * bit x))
  | .rsq x d a => some (encR 50 d.val a.code 0 (2 * bit x + 1))
  | .sqrt x d a => some (encR 51 d.val a.code 0 (2 * bit x))
  | .log2 x d a => some (encR 51 d.val a.code 0 (2 * bit x + 1))
  | .exp2 x d a => some (encR 52 d.val a.code 0 (2 * bit x))
  | .sin x d a => some (encR 53 d.val a.code 0 (2 * bit x))
  | .cos x d a => some (encR 53 d.val a.code 0 (2 * bit x + 1))
  | .shfl m d a b => some (encR 56 d.val a.val b.code m.t)
  | .bcast d a b => some (encR 57 d.val a.val b.code 0)
  | .perm d a b => some (encR 57 d.val a.val b.code 1)
  | .ballot k a => some (encRK 58 0 k.val a.val 0 0)
  | .vote m k a =>
    some (encRK 59
      (match m with
       | .any => 0
       | .all => 1
       | .eq => 2) k.val a.val 0 0)
  | .scan o ex ty d a => some (encR 60 d.val a.val (64 * bit ex + 8 * ty.code) o.t)
  | .reduce o ty (.v d) a => some (encR 61 d.val a.val (8 * ty.code) o.t)
  | .reduce o ty (.s d) a => some (encR 61 (96 + d.val) a.val (8 * ty.code) o.t)
  | .ld sz h d o ba =>
    match sz with
    | .b32 => some (encM 64 d.val o.code ba.val h.code 0)
    | .b64 => some (encM 64 d.val o.code ba.val h.code 1)
    | .b128 => some (encM 64 d.val o.code ba.val h.code 2)
    | .u8 => some (encM 65 d.val o.code ba.val h.code 0)
    | .s8 => some (encM 65 d.val o.code ba.val h.code 1)
    | .u16 => some (encM 65 d.val o.code ba.val h.code 2)
    | .s16 => some (encM 65 d.val o.code ba.val h.code 3)
  | .st sz h d o ba =>
    match sz with
    | .b32 => some (encM 66 d.code o.code ba.val h.code 0)
    | .b64 => some (encM 66 d.code o.code ba.val h.code 1)
    | .b128 => some (encM 66 d.code o.code ba.val h.code 2)
    | .b8 => some (encM 67 d.code o.code ba.val h.code 0)
    | .b16 => some (encM 67 d.code o.code ba.val h.code 1)
  | .ldg sz h d o ba => some (encM 70 d.val o.code ba.val h.code sz.sz)
  | .stg sz h d o ba => some (encM 71 d.code o.code ba.val h.code sz.sz)
  | .ldAcq w sc d o ba => some (encMO 68 d.val o.code ba.val sc.code (bit w))
  | .stRel w sc d o ba => some (encMO 69 d.code o.code ba.val sc.code (bit w))
  | .atom op sc d o ba => some (encMO (80 + op.code.1) d.val o.code ba.val sc.code op.code.2)
  | .pref h o ba => some (encM 75 0 o.code ba.val h.code 0)
  | .ldv sz d o ba => some (encM 72 d.val o.code ba.val 0 sz.sz)
  | .stv sz d o ba => some (encM 73 d.code o.code ba.val 0 sz.sz)
  | .atomv op d o ba => some (encMO 74 d.val o.code ba.val op.code 0)
  | .fence sc => some (encFN 0 sc.code 0 0 0 0)
  | .fenceX sc p1 p2 => some (encFN 1 sc.code p1.code p2.code 0 0)
  | .afence sc ax ay => some (encFN 2 sc.code 0 0 ax.val ay.val)
  | .nbinit nb c => some (encE 88 0 c.code nb.val 0 0)
  | .nbarr d nb => some (encE 88 (96 + d.val) 0 nb.val 1 0)
  | .nbwait d nb => some (encE 88 (96 + d.val) 0 nb.val 2 0)
  | .tgarr d g => some (encE 89 (96 + d.val) g.code 0 0 0)
  | .tgwait d g => some (encE 89 (96 + d.val) g.code 0 1 0)
  | .tgjoin g => some (encE 89 0 g.code 0 2 0)
  | .tgleave g => some (encE 89 0 g.code 0 3 0)
  | .evsig e => some (encE 90 0 e.code 0 0 0)
  | .evwait d e => some (encE 90 (96 + d.val) e.code 0 1 0)
  | .evtest d e => some (encE 90 (96 + d.val) e.code 0 2 0)
  | .qbind q d => some (encE 91 0 d.code q.val 0 0)
  | .qpush q v => some (encE 91 v.val 0 q.val 1 0)
  | .qpop d q => some (encE 91 d.val 0 q.val 2 0)
  | .qpeek d q => some (encE 91 d.val 0 q.val 3 0)
  | .qdepth d q => some (encE 91 (96 + d.val) 0 q.val 4 0)
  | .shape h sk => some (encE 96 (96 + sk.val) 0 h.val 0 0)
  | .copy f m h r nb => some (encE 97 r.code nb.val h.val 0 (bit f + 2 * bit m))
  | .copyCsr h r nb => some (encE 97 r.code nb.val h.val 1 0)
  | .copyPlane f m h r nb => some (encE 97 r.code nb.val h.val 2 (bit f + 2 * bit m))
  | .cpstat d h => some (encE 97 (96 + d.val) 0 h.val 3 0)
  | .copyQ h r nb => some (encE 97 r.code nb.val h.val 4 0)
  | .mma t ha hb => some (encE 98 0 hb.val ha.val 0 t.val)
  | .mmaI t ha hb => some (encE 98 0 hb.val ha.val 1 t.val)
  | .mmaAd t ha hb sv => some (encE 98 (96 + sv.val) hb.val ha.val 2 t.val)
  | .mmaQ t qa hb dsc => some (encE 98 dsc.code hb.val qa.val 3 t.val)
  | .macq t => some (encE 99 0 0 0 0 t.val)
  | .mrel t => some (encE 99 0 0 0 1 t.val)
  | .mlda d t p => some (encE 99 d.val p.code 0 2 t.val)
  | .msta v t p => some (encE 99 v.val p.code 0 3 t.val)
  | .mclr t => some (encE 99 0 0 0 4 t.val)
  | .adinv i => some (encE 100 0 i.code 0 0 0)
  | .islpush m q v tag => some (encE 104 v.val tag.code q.val 0 (bit m))
  | .islrecv d q c => some (encE 104 (96 + d.val) c.code q.val 1 0)
  | .islstat d i => some (encE 104 (96 + d.val) i.code 0 2 0)
  | .rdsr d n => some (encI 108 (96 + d.val) n.toNat)
  | .wrsr n s => some (encI 109 s.code n.toNat)
  | .trap c => some (encI 110 0 c.toNat)
  | .brkpt c => some (encI 110 1 c.toNat)
  | .dbgmark c => some (encI 110 2 c.toNat)
  | .endGang => some (encR 111 0 0 0 0)
  | .halt => some (encR 111 0 0 0 1)
  | .sleep a => some (encR 111 0 a.code 0 2)
  | .getinfo d a => some (encR 111 (96 + d.val) a.code 0 3)
  | .packetDecode .. | .resultWriteback .. | .variableResultArrival .. | .switchParkEnd .. | .dataFault ..
  | .gangResume .. | .expr .. | .towpathRequestArrival .. | .nbwaitComplete .. | .tgwaitComplete ..
  | .eventOverflowOperation .. | .qpopRecordArrival .. | .copyqRecordDelivery .. | .copyComplete ..
  | .followOnIssue .. | .passStart .. | .passEnd .. | .layerFail .. | .stagingRecordMove ..
  | .adapterFillComplete .. | .matrixComplete .. | .macqComplete .. | .islrecvComplete .. | .sleepExpiry ..
  | .gets .. | .upgo .. | .upgs .. | .upgn .. | .wbmo .. | .wbmx .. | .wbc .. | .wrt .. | .renew .. | .invack ..
  | .invackl .. | .fwdack .. | .fwdackx .. | .rcldata .. | .rclack .. | .requestRetry .. | .noncachingRequest ..
  | .datas .. | .datae .. | .datam .. | .upgack .. | .wback .. | .inv .. | .fwds .. | .fwdx .. | .recall ..
  | .update .. | .renack .. | .rebase .. | .rebaseAnswer .. | .nak .. | .leaseFlushTimer .. | .selfRefreshEntry ..
  | .hostReadShared .. | .hostReadOwn .. | .memrd .. | .memwr .. | .qtail .. | .qprogWrite .. | .qdWrite ..
  | .switchOut .. | .switchIn .. | .cancel .. | .cancelTimeout .. | .rootWrite .. | .tlbInvalidate ..
  | .tlbInvalidateComplete .. | .imgflush .. | .trbaseWrite .. | .cecntClear .. | .registerWrite ..
  | .recordIntake .. | .launchStart .. | .starvationExpiry .. | .bindPost .. | .bindAccept .. | .clusterReserve ..
  | .clusterBackoffExpiry .. | .crewRetire .. | .pageWalk .. | .pageResponse .. | .swapoutTimer .. | .vacate ..
  | .crewSaveComplete .. | .crewRestore .. | .borrowCommand .. | .borrowRestoreComplete .. | .islandRecordEntry ..
  | .islandRecordExit .. | .i1ImageLoad .. | .i1ImageLoadComplete .. | .ingressSignal .. | .hostWriteback ..
  | .hostDropHalf .. | .birsp .. | .hostSnoop .. | .msixVectorUnmask .. | .peerWrite .. | .peerRead ..
  | .getCertificate .. | .challenge .. | .getMeasurements .. | .ingressPerst | .tcreate | .tdestroy | .coremask
  | .rtset | .coresp | .scgran | .tidealloc | .tideisl | .pin | .unpin | .tabload | .rangewr | .wload | .wgrant
  | .pgretire | .measext | .starve | .invalidCommand | .commandEnd | .getVersion | .getCapabilities
  | .negotiateAlgorithms | .getDigests | .reset | .brownOut | .scrub => none

/-- The four slots of a packet that holds one instruction in slot 0 (EXPR: the whole packet). -/
def encode : Instr → Option Packet
  | .expr half d a b c e ts =>
    some { w0 := encR 0x3E d.val a.code b.code (bit half)
           w1 := 0x3E * 2 ^ 23 + c.code * 2 ^ 16 + e.code * 2 ^ 9 + ts.length * 2 ^ 5
           w2 := encToks 0 (ts.take 8)
           w3 := encToks 0 (ts.drop 8) }
  | i =>
    match encodeWord i with
    | some w => some { w0 := w, w1 := 0, w2 := 0, w3 := 0 }
    | none => none

/-- The instruction that the decoder reads in a packet that starts with the word bits `w` (03 R74): slot k is bits
[32k + 31 : 32k] of `w`, and the bits above `nbits` are zero. -/
def decodeTableWord (nbits w : Nat) : Option Instr :=
  let v := w % 2 ^ nbits
  let p : Packet := { w0 := fld v 0 32, w1 := fld v 32 32, w2 := fld v 64 32, w3 := fld v 96 32 }
  match p.words with
  | .ok (x :: _) => some x.i
  | .ok [] => if removedWord p.w0 && p.w0 == 0 then some .nop else none
  | .error _ => none

end Sys2Proof
end

