-- ==== Sys2Proof/Machine/State.lean ====
section
/-! DEFINITION. The state of the device as plain data (INVENTORY.md, "State"), the reasons a step can stop, and the state
right after reset.  A gang is keyed by crew × 16 + GANGID, a crew by LENT × 2^32 + CREW, a core by tower × 48 + core. -/

namespace Sys2Proof.Machine

open Sys2Proof

/-- Why a step stops with a fault. -/
inductive Fault where
  /-- Raised by the meaning of an instruction word in a state in which no gang issues a word (`State.cur` is none).
  The step never runs a word in such a state. Safe: the device has no such event. -/
  | noIssue
  deriving DecidableEq, Repr

/-- Why an instruction has no meaning. -/
inductive Refusal where
  /-- Raised by the dispatch for an instruction whose meaning is not written yet. Safe: nothing is claimed of it. -/
  | notModelled (mnemonic : String)
  deriving DecidableEq, Repr

/-! ## Gangs (01) -/

/-- A loop frame of a slice (04 R126). -/
structure Frame where
  start : PAddr
  endl : PAddr
  count : Word
  deriving DecidableEq, Repr

/-- A slice (01 R36; 04 R126, R130). -/
structure Slice where
  live : Bool := false
  /-- waits at REGANG -/
  wait : Bool := false
  pc : PAddr := 0
  mask : BitVec 4 := 0
  stack : List (PAddr × BitVec 4) := []
  frames : List Frame := []
  /-- the earliest cycle at which its next packet issues (04 R118) -/
  ready : Nat := 0
  deriving DecidableEq, Repr

/-- A register that a result or a pending mark names (01 R41). -/
inductive PReg where
  | v (r : Nat)
  | s (r : Nat)
  | a (r : Nat)
  | k (r : Nat)
  | h (r : Nat)
  | t (r : Nat)
  deriving DecidableEq, Repr

/-- Who makes accesses and synchronising acts (09 R255). -/
inductive Party where
  /-- slices of a gang -/
  | gang (g : Nat)
  /-- a copy, a matrix instruction or an ISLRECV transfer of a crew -/
  | op (crew : Nat)
  /-- I0 and I1 of a core, or W0 to W3 (4 to 7) of a core's tower -/
  | island (isel : Nat)
  | peer
  | host
  | mgmt
  deriving DecidableEq, Repr

/-- An issuer where it stood when it acted (09 R257): the party, the slices of a gang that acted, its crew, core and quarter, and the
cluster of its crew. -/
structure Issuer where
  who : Party
  slices : List Nat := []
  crew : Nat := 0
  core : Nat := 0
  quarter : Nat := 0
  cluster : Option (Nat × Nat) := none
  deriving DecidableEq, Repr

/-- A release as an acquire observes it: issuer, scope, program timestamp (10 R295) and the issuer's clocks. -/
structure Rel where
  who : Issuer
  scope : Scope
  pts : Nat
  vc : Sparse Nat
  deriving DecidableEq, Repr

/-- What an issuer knows of others: a program timestamp (10 R291) and the clocks of the race detector (09 R270). -/
structure Know where
  pts : Nat := 0
  vc : Sparse Nat := []
  deriving DecidableEq, Repr

/-- A shape register (07 R201): four words, or Invalid. -/
structure Shape where
  valid : Bool := false
  w0 : DWord := 0
  w1 : DWord := 0
  w2 : DWord := 0
  w3 : DWord := 0
  deriving DecidableEq, Repr

/-- One write of a result. -/
inductive Write where
  /-- V register `r`, lane and value -/
  | v (r : Nat) (vals : List (Nat × Word))
  | s (r : Nat) (x : DWord)
  | a (r : Nat) (x : Addr)
  | k (r : Nat) (x : DWord)
  /-- EXEC: the new lane masks of the slices named (01 R36) -/
  | exec (masks : List (Nat × BitVec 4))
  | mode (x : Word)
  /-- FLAGS as WRSR writes it (01 R24) -/
  | flags (x : Word)
  /-- bits ORed into K7 after the other writes of the cycle (05 R152) -/
  | k7 (m : DWord)
  /-- bytes of a crew's vault window, with the releases that they carry (09 R258) -/
  | vault (crew : Nat) (bytes : List (Nat × Byte)) (rels : List Rel)
  /-- an H register of a crew -/
  | h (crew r : Nat) (x : Shape)
  deriving DecidableEq, Repr

/-- A fixed-latency result in flight (01 R39, R40). -/
structure Wb where
  due : Nat
  seq : Nat
  writes : List Write
  /-- FLAGS bits that it sets when it becomes visible (01 R25) -/
  flags : BitVec 7 := 0
  deriving DecidableEq, Repr

/-- A pending mark (01 R41): a register, its lanes (all of them for a whole register) and the operation that owes it. -/
structure Pend where
  reg : PReg
  lanes : DWord
  tag : Nat
  deriving DecidableEq, Repr

/-- Where one lane of a memory operation stands. -/
inductive LaneSt where
  /-- wants its translation -/
  | xlat
  /-- waits for a walk or a page request -/
  | walking
  /-- translated; waits for its order and its time -/
  | ready
  /-- waits in an L1 line or at a home -/
  | sent
  /-- performed -/
  | done
  /-- held by a data fault (01 R46) -/
  | held
  deriving DecidableEq, Repr

/-- One lane of a memory operation: its address (a vault offset for a vault word), the physical address once translated, its
data and, for a CAS, the new value; the old or loaded value once performed. -/
structure LaneAcc where
  lane : Nat
  addr : Nat
  pa : Nat := 0
  data : Nat := 0
  data2 : Nat := 0
  res : Nat := 0
  st : LaneSt := .xlat
  deriving DecidableEq, Repr

/-- An operation of a gang that is not finished: a memory word, a towpath vault word, a fence, a wait word or an engine word
with a result (01 R45; 06 R164, R176; 07 R200), with its recorded operands. -/
structure Op where
  tag : Nat
  pc : PAddr
  slot : Nat
  i : Instr
  /-- active lanes at issue -/
  lanes : DWord
  /-- recorded scalar operand -/
  x : DWord := 0
  /-- recorded vault base register or second operand -/
  y : DWord := 0
  acc : List LaneAcc := []
  /-- takes an operand-log entry until it can no longer fault (01 R45) -/
  logged : Bool := false
  /-- the data fault that holds it, and its lanes (01 R46) -/
  fault : Option FaultKind := none
  held : DWord := 0
  /-- its page request was refused (16 R396) -/
  refused : Bool := false
  /-- the earliest cycle of its next act -/
  due : Nat := 0
  /-- 1 once the act of a synchronising word has been performed: an arrival or signal has counted (06 R164), the condition of an EVWAIT has been
  met (R190); 2 for an EVTEST that a data fault before it holds; 3 once an EVWAIT has been answered; the records that an ISLRECV or an MMA.Q has
  taken -/
  acks : Nat := 0
  /-- the number of the last WRT of its core whose WBACK it waits for, once the bytes that it sends home are sent (10 R294) -/
  fence : Option Nat := none
  /-- releases that an EVWAIT acquires whose condition has been met (09 R258) -/
  rels : List Rel := []
  /-- issue order at the crew's core: cycle × 4 + quarter (01 R19) -/
  born : Nat := 0
  /-- issued while its gang held a data fault (01 R46) -/
  late : Bool := false
  /-- its gang's clock at issue (09 R270), and what the gang knew before acquires that follow the operation in gang order -/
  clk : Nat := 0
  vc : Option (Sparse Nat) := none
  /-- other data faults of its lanes (09 R271) -/
  also : List (FaultKind × DWord) := []
  deriving DecidableEq, Repr

/-- Why a gang is stopped (01 R13, R48; 16 R401, R407). -/
inductive Stop where
  /-- waits for system software after a trap or a service stop -/
  | software
  /-- waits at its stop point for a page response (16 R396) -/
  | fault
  deriving DecidableEq, Repr

/-- A queue binding (06 R192). -/
structure QBind where
  kind : Nat := 0
  isel : Nat := 0
  stream : Nat := 0
  deriving DecidableEq, Repr

/-- A queue record (06 R194) with its tag and arrival marker (07 R227) and the cycle at which it reaches the island. -/
structure QRec where
  bits : BitVec 512
  tag : Word := 0
  mark : Bool := false
  due : Nat := 0
  /-- open FENCE.X with P2 = ISL of the pushing gang: gang and operation (06 R177, 12 R340) -/
  after : List (Nat × Nat) := []
  deriving DecidableEq, Repr

/-- A QPOP or QPEEK slice that waits for its record (06 R195), or an ISLRECV or MMA.Q that takes records (`n` left). -/
structure QWait where
  tag : Nat
  slice : Nat
  lanes : BitVec 4
  peek : Bool
  /-- a QPEEK's slices see successive records: the place of this one among them (06 R195) -/
  nth : Nat := 0
  deriving DecidableEq, Repr

/-- The records and the waiting takers of a bound Q register. -/
structure QState where
  b : QBind := {}
  recs : List QRec := []
  waits : List QWait := []
  /-- set aside by a borrow (18 R436) -/
  aside : Bool := false
  deriving DecidableEq, Repr

/-! ## The issue cursor -/

/-- What a control word does to each slice of its subgang after the packet's last chain group (04 R118, R119), with the K, S and A
operands that it has read at issue. -/
inductive Ctl where
  /-- no control word: every slice goes to the next packet -/
  | pass
  /-- BR, JMP, CALL, RET (04 R121, R124, R125) -/
  | goto (pc : PAddr)
  /-- BRS (04 R123): the decision -/
  | brs (taken : Bool) (pc : PAddr)
  /-- BRK (04 R122): the test and the K register's value -/
  | brk (cc : BrkTest) (k : DWord) (pc : PAddr)
  /-- LOOP (04 R127): the ENDL packet and the count -/
  | loop (endl : PAddr) (count : Word)
  /-- ENDL (04 R128) -/
  | endl
  /-- JOIN (04 R129) -/
  | join (dist : Nat)
  /-- REGANG (04 R130) -/
  | regang
  /-- YIELD (04 R132) -/
  | yield
  /-- EXIT (04 R131) -/
  | exit
  deriving DecidableEq, Repr

/-- One word that a gang issues now (01 R31). -/
structure Cursor where
  gang : Nat
  pc : PAddr
  /-- slices of the issuing subgang -/
  slices : List Nat
  /-- the word's slot, the literal word as stored, and as substituted for PLIT (03 R85) -/
  slot : Nat
  raw : Word
  lit : Word
  /-- first sequence number of the chain group, and the first operation tag (01 R44) -/
  seq0 : Nat
  tag0 : Nat
  /-- the words of this group, those left of it, and the groups left -/
  group : List PWord
  words : List PWord
  groups : List (List PWord)
  /-- the packet's words that are attached as follow-ons, and the slot of the control word that counts -/
  ctl : Option Nat
  /-- copy parts of this packet that wait for their follow-on: copy and part number (07 R213) -/
  parts : List (Nat × Nat)
  /-- what the control word does after the packet (04 R118), and the issue cycle of the control or END word -/
  act : Ctl := .pass
  actAt : Nat := 0
  switch : Bool
  /-- END has issued: every slice ends after the packet (07 R234) -/
  fin : Bool := false
  deriving DecidableEq, Repr

/-- A gang (01 R16, R36 to R48). -/
structure Gang where
  /-- resident on its quarter -/
  here : Bool := false
  width : Nat := 16
  nv : Nat := 16
  tenant : Nat := 0
  crew : Nat := 0
  gid : Nat := 0
  core : Nat := 0
  quarter : Nat := 0
  gslot : Nat := 0
  rbase : Nat := 0
  /-- V registers, key r × 64 + lane -/
  v : Sparse Word := []
  s : Sparse DWord := []
  a : Sparse Addr := []
  k : Sparse DWord := []
  q : Sparse QState := []
  mode : Word := 0
  flags : Word := 0
  mstat : DWord := 0
  tstat : DWord := 0
  tpc : Addr := 0
  tmask : DWord := 0
  slices : List Slice := []
  wb : List Wb := []
  pend : List Pend := []
  ops : List Op := []
  /-- results that have been formed and the cycle at which they arrive (01 R41) -/
  arr : List (Nat × Nat × List Write) := []
  nextTag : Nat := 1
  nextSeq : Nat := 1
  /-- after a switch packet (01 R43) -/
  parked : Bool := false
  /-- a data fault is held; the stop point is the packet after the next switch packet (01 R46) -/
  faulted : Bool := false
  /-- the stop point has been reached by a switch packet -/
  stopNext : Bool := false
  stop : Option Stop := none
  /-- stopped by a borrow or a save at a packet boundary (16 R401, R407) -/
  aside : Bool := false
  /-- TRAP or a vault error stops the gang at its next packet: TSTAT and TMASK to write (07 R232, 08 R474) -/
  trapNext : Option (DWord × DWord) := none
  /-- the packet at which a BRKPT word that has stopped the gang acts as NOP once (07 R232), and the packet at which a hardware
  breakpoint has stopped it (07 R233) -/
  skipBrk : Option PAddr := none
  skipHw : Option PAddr := none
  /-- the rest of a packet between two of its chain groups (01 R13, R31, R48) -/
  resume : Option Cursor := none
  /-- matrix stepping has paused an instruction of this gang (07 R233) -/
  mstep : Bool := false
  /-- not ready before this cycle: SLEEP, YIELD (07 R234, 04 R132) -/
  notBefore : Nat := 0
  lastIssue : Nat := 0
  lastSlice : Nat := 63
  /-- program timestamp (10 R291) -/
  pts : Nat := 0
  /-- its number as an issuer for the race detector, its own clock, which each release that it issues advances, and the clocks that it
  knows (09 R270); those that its later copies know: what its LSU and VLT
  accesses knew, and what its FENCE.Xs towards CPY give (06 R177, 09 R261) -/
  iss : Nat := 0
  clk : Nat := 1
  vc : Sparse Nat := []
  vcCpy : Sparse Nat := []
  /-- what its FENCE.Xs towards LSU and towards VLT give the accesses of that path alone; and what such accesses have known, which its releases
  pass on (09 R259, R261) -/
  vcLsu : Sparse Nat := []
  vcVlt : Sparse Nat := []
  vcRel : Sparse Nat := []
  /-- completed copies whose completion it has observed through CPSTAT (06 R177, 07 R215) -/
  seenCp : Know := {}
  /-- releases of its fences, which its later stores carry (09 R258) -/
  fenceRel : List Rel := []
  /-- releases that its loads and ATOMs have read, which a later FENCE acquires (09 R258) -/
  seenRel : List Rel := []
  /-- pairs of virtual pages joined by its AFENCEs, with its clock at each (06 R178) -/
  aliases : List (Nat × Nat × Nat) := []
  /-- matrix instructions in flight whose MSTAT it will receive (01 R27), and the number of the one that MSTAT describes -/
  mtx : Nat := 0
  mid : Nat := 0
  /-- a fetch waits for this page (16 R395) -/
  fetchWait : Bool := false
  /-- the address of the packet whose fetch has been refused while its crew was out (16 R399) -/
  fetchRefused : Option Nat := none
  /-- a cancel has reached it; the cycle of the cancel (15 R386) -/
  cancelAt : Option Nat := none
  /-- its V registers lie in the spill area of its core (16 R401) -/
  spilled : Bool := false
  /-- lanes of V registers that hold an uncorrectable error (20 R464, R466) -/
  badV : List (Nat × Nat) := []
  deriving DecidableEq, Repr

/-! ## Crews -/

/-- A named barrier register (06 R181) with the releases of the current generation and of the completed ones. -/
structure NB where
  member : BitVec 8 := 0
  arrived : BitVec 8 := 0
  gen : BitVec 16 := 0
  rels : List Rel := []
  old : List (Nat × List Rel) := []
  deriving DecidableEq, Repr

/-- The kinds of copy (07 R206). -/
inductive CopyKind where
  | dense | csr | plane | stream
  deriving DecidableEq, Repr

/-- An MMA-family word attached to a copy part (07 R213): the word, its scalar operand, and the records that it named at issue. -/
structure Follow where
  i : Instr
  x : DWord
  a : Shape
  b : Shape
  deriving DecidableEq, Repr

/-- A part of a copy (07 R206, R208). -/
structure Part where
  gang : Nat
  first : Nat
  count : Nat
  disp : Int
  rm : Nat
  ftz : Bool
  /-- the operations of the part's gang that precede it (07 R211) -/
  after : List Nat
  /-- its gang's own-vault writes before this sequence number precede it -/
  seq : Nat := 0
  flags : BitVec 7 := 0
  /-- it carries a follow-on; the attached MMA-family word with its scalar operand (07 R213) -/
  wants : Bool := false
  ord : Bool := false
  follow : Option Follow := none
  deriving DecidableEq, Repr

/-- A copy (07 R206 to R214). -/
structure Copy where
  id : Nat
  crew : Nat
  kind : CopyKind
  h : Nat
  sh : Shape
  nb : Nat
  tomem : Bool
  parts : List Part := []
  started : Bool := false
  /-- next vector, and the element index z of COPY.CSR (07 R210) -/
  next : Nat := 0
  z : Nat := 0
  err : Bool := false
  /-- it has written into another crew's window (07 R211) -/
  wrote : Bool := false
  /-- records of the current vector that wait for queue room (07 R214) -/
  recs : List (BitVec 512) := []
  /-- its number as an issuer, and the clocks of its parts (09 R259) -/
  iss : Nat := 0
  vc : Sparse Nat := []
  /-- the number of the last WRT of its core whose WBACK it waits for (07 R211, 10 R294) -/
  fence : Option Nat := none
  /-- waits for a page request (07 R212); pages refused (16 R397) -/
  waits : Bool := false
  refused : List Nat := []
  /-- completed; its follow-on is not yet accepted (07 R213) -/
  moved : Bool := false
  /-- the bytes of its next vector have been asked for (08 R252) -/
  asked : Bool := false
  deriving DecidableEq, Repr

/-- States of an accumulator token (01 R20). -/
inductive TokSt where
  | engine
  | transfer (gang tag : Nat)
  | held (gang : Nat)
  deriving DecidableEq, Repr

/-- A matrix instruction accepted by an engine (11 R314). -/
structure MInst where
  id : Nat
  i : Instr
  tok : Nat
  /-- gangs that receive MSTAT (01 R26) -/
  gangs : List Nat
  crew : Nat
  a : Shape := {}
  b : Shape := {}
  q : Nat := 0
  m : Nat := 0
  fmt : Nat := 0
  mant : Nat := 0
  /-- MMA.AD (07 R220): its operand, ADTAB and ADCFG as accepted, and the ADIDs once they have been read -/
  sv : DWord := 0
  adtab : DWord := 0
  adcfg : DWord := 0
  adids : List Nat := []
  /-- rows that go on without their term after a failed fill (11 R325) -/
  plain : List Nat := []
  rm : Nat := 0
  ord : Bool := false
  next : Nat := 0
  /-- deferred rows with their next block, and the rows deferred at least once (11 R323) -/
  defer : List (Nat × Nat) := []
  everDef : List Nat := []
  swept : Bool := false
  passes : Nat := 0
  depth : Nat := 0
  layers : Nat := 7
  active1 : Option Nat := none
  mixed : Bool := false
  ordok : Bool := true
  aflags : BitVec 4 := 0
  err : Bool := false
  intr : Bool := false
  paused : Bool := false
  /-- the gang that issued it and the fences that its operand reads wait for (06 R177) -/
  gang : Nat := 0
  after : List Nat := []
  /-- the copy whose follow-on it is (07 R213), as number × 2^40 + crew -/
  cp : Nat := 0
  /-- cycle at which it completes once its last pass has ended (11 R307) -/
  ends : Option Nat := none
  /-- an MMA.Q has lost its binding: missing records read as zero (07 R221); records taken (11 R313) -/
  cut : Bool := false
  staged : List (BitVec 512) := []
  deriving DecidableEq, Repr

/-- A crew (15 R378, R380). -/
structure Crew where
  /-- resident on its core -/
  here : Bool := false
  tenant : Nat := 0
  lent : Nat := 0
  idx : Nat := 0
  core : Nat := 0
  cslot : Nat := 0
  pos : Nat := 0
  cgrp : Nat := 0
  tok : Bool := false
  rt : Bool := false
  qmask : Nat := 0
  vbase : Nat := 0
  wsize : Nat := 0
  rbase : Nat := 0
  sbase : Nat := 0
  ngangs : Nat := 0
  width : Nat := 16
  nv : Nat := 16
  patch : List Word := []
  /-- valid granules of the window (08 R238) -/
  gran : Sparse Bool := []
  nb : Sparse NB := []
  h : Sparse Shape := []
  adtab : DWord := 0
  adcfg : DWord := 0
  copies : List Copy := []
  nextCopy : Nat := 1
  /-- H registers whose last completed copies had an error record (07 R215) -/
  cperr : List Nat := []
  /-- the releases of completed copies by H register (06 R177), and of all of them (09 R273) -/
  cpDone : Sparse Know := []
  opsDone : Know := {}
  /-- swap-out timer: the cycle at which it started (16 R399) -/
  timer : Option Nat := none
  /-- the KIND of a save that is under way or done (16 R407); saved in the context area (16 R410) -/
  saving : Nat := 0
  saved : Bool := false
  /-- removals of adapter entries that wait for instructions of a saved crew (07 R225, R226) -/
  imgAdinv : List (Nat × Nat) := []
  /-- matrix instructions of a saved crew (11 R314); where its image lies in the context area, and its length -/
  mins : List MInst := []
  ctxAt : Nat := 0
  ctxLen : Nat := 0
  /-- set aside by a borrow (16 R401) -/
  aside : Bool := false
  /-- answered page request, or the vacate is over (16 R408) -/
  dispatchable : Bool := false
  cancelled : Bool := false
  /-- its first packet waits for the I1 image that its kernel names (12 R344) -/
  imgWait : Bool := false
  deriving DecidableEq, Repr

/-! ## Cores -/

/-- A translation held by a TLB (16 R392). -/
structure TlbE where
  tenant : Nat
  vpage : Nat
  ppage : Nat
  size : Nat
  r : Bool
  w : Bool
  x : Bool
  deriving DecidableEq, Repr

/-- An access that waits in a line, or is sent to a home, for one word of one gang. -/
structure Wait where
  gang : Nat
  tag : Nat
  store : Bool
  atomic : Bool
  deriving DecidableEq, Repr

/-- A line of an L1 data cache, or of its eviction buffer (10 R275, R286, R291, R296). -/
structure L1Line where
  st : Nat := 0
  table : Nat := 0
  data : List Byte := []
  /-- bytes written since the fill -/
  dirty : BitVec 128 := 0
  wts : Nat := 0
  rts : Nat := 0
  epoch : Nat := 0
  grant : Nat := 0
  /-- cycle of the first dirty byte, and the storing gangs with the bytes that each has dirtied (10 R294) -/
  since : Nat := 0
  storers : List (Nat × BitVec 128) := []
  waits : List Wait := []
  /-- overlay bytes of UPD stores not yet answered (10 R300): mask and data of each WRT in flight -/
  overlay : List (BitVec 128 × List Byte) := []
  /-- releases that its bytes carry, by offset (09 R258) -/
  rels : Sparse (List Rel) := []
  /-- first choice for eviction (06 R167) -/
  last : Bool := false
  /-- last use, for the replacement choice -/
  used : Nat := 0
  /-- bytes sent home while the line waits for its grant, whose data do not replace them (10 R294, R296) -/
  kept : BitVec 128 := 0
  /-- a REBASE that it leaves unconsumed while it waits for its grant (10 R296, R298) -/
  rebase : Bool := false
  /-- it holds an uncorrectable error (08 R246) -/
  bad : Bool := false
  /-- its 64-byte halves whose bytes came with an uncorrectable error (20 R466) -/
  poison : BitVec 2 := 0
  /-- a fill with `.strm`, which leaves the L1 once no access waits in it (06 R167) -/
  bypass : Bool := false
  deriving DecidableEq, Repr

/-- States of a matrix layer (11 R308). -/
inductive Layer where
  | active | skip (since : Nat) | failed
  deriving DecidableEq, Repr

/-- The limits and the hysteresis of a layer (11 R308; 20 R471): °C and mA. -/
structure LayerLimit where
  temp : Nat := 100
  current : Nat := 900
  hystTemp : Nat := 8
  hystCurrent : Nat := 150
  deriving DecidableEq, Repr

/-- An entry of an adapter cache (11 R319): block `kb` of the A factor, or the B entry with its descriptor; an entry whose descriptor is
unusable takes no frame.  Instructions from number `lim` on do not use it (07 R226). -/
structure AdEntry where
  frame : Option Nat
  /-- own-vault offset of its frame -/
  off : Nat := 0
  adid : Nat
  tidx : Nat
  kb : Option Nat
  usable : Bool := true
  rank : Nat := 0
  e5m2 : Bool := false
  ncol : Nat := 0
  akb : Nat := 0
  alpha : Nat := 0
  af : Nat := 0
  asc : Nat := 0
  /-- factor bytes, column by column, and their S20 scales -/
  bytes : List Byte := []
  scales : List Nat := []
  used : Nat := 0
  lim : Option Nat := none
  deriving DecidableEq, Repr

/-- A pass in progress (11 R306), with the adapter entries that it uses. -/
structure Pass where
  inst : Nat
  first : Nat
  n : Nat
  act : List Nat
  rows : List Nat
  replay : Bool
  due : Nat
  ents : List AdEntry := []
  /-- the activation scales of each of its rows and the weight scales, as read at its start (11 R312) -/
  sa : List (Nat × List Nat) := []
  sb : List Nat := []
  deriving DecidableEq, Repr

/-- A fill in progress for instruction `inst` (11 R319, R325). -/
structure AdFill where
  adid : Nat
  tidx : Nat
  kb : Option Nat
  inst : Nat
  crew : Nat
  waits : Bool := false
  refused : List Nat := []
  /-- no frame qualified: it waits for the next pass boundary (11 R319) -/
  room : Bool := false
  /-- its bytes have been asked for, and arrive in this cycle (08 R252) -/
  lands : Option Nat := none
  deriving DecidableEq, Repr

/-- An island image (12 R333, R336, R343). -/
structure Image where
  imgid : Word := 0
  cls : Nat := 0
  lat : Nat := 0
  ii : Nat := 1
  wide : Bool := false
  inmask : Nat := 0
  outmask : Nat := 0
  pair : List Nat := []
  cells : List (BitVec 128) := []
  routes : List Nat := []
  luts : List (Nat × List Word) := []
  deriving DecidableEq, Repr

/-- A record inside an island (12 R338), with its island cycle of entry. -/
structure IslRec where
  stream : Nat
  bits : BitVec 512
  tag : Word
  mark : Bool
  gang : Nat
  core : Nat
  tenant : Nat
  entered : Nat
  /-- open FENCE.X that its accesses wait for (12 R340) -/
  after : List (Nat × Nat) := []
  /-- SEQ cells that have made their accesses: the cell, its output, and the cycle at which it is there; elements of one in progress -/
  vals : List (Nat × BitVec 512 × Nat) := []
  part : Option (Nat × List Nat) := none
  /-- island cycle at which the standard texture filter reads for it (12 R349) -/
  readAt : Nat := 0
  /-- output records still to leave -/
  outs : List (Nat × BitVec 512) := []
  formed : Bool := false
  deriving DecidableEq, Repr

/-- An island (12 R330). -/
structure Island where
  img : Option Image := none
  err : Bool := false
  inside : List IslRec := []
  rr : Nat := 0
  /-- cycles stalled so far and the cycle since which it stalls (12 R338) -/
  stalled : Nat := 0
  stallFrom : Option Nat := none
  nextEntry : Nat := 0
  nextExit : Nat := 0
  /-- an image load in progress: its end and what it loads -/
  loading : Option (Nat × Image) := none
  /-- tide group of which it is a member (12 R342) -/
  group : Option Nat := none
  /-- the largest timestamp of its stores to memory (10 R294, 12 R342) -/
  pts : Nat := 0
  /-- waits for a page request; pages refused (16 R397); tries again from this cycle -/
  waits : Bool := false
  refused : List Nat := []
  retry : Nat := 0
  deriving DecidableEq, Repr

/-- A core (00 R4; 08; 11; 12). -/
structure Core where
  /-- scratchpad bytes and RT class (08 R235) -/
  sp : Nat := 2 ^ 20
  rtOn : Bool := false
  vault : Sparse Byte := []
  l1 : Sparse L1Line := []
  /-- lines in the eviction buffer -/
  buf : Sparse L1Line := []
  /-- instruction lines by physical line (08 R247) -/
  l1i : Sparse (List Byte) := []
  tlb : List TlbE := []
  /-- copies of every home's base and epoch (10 R291) -/
  base : Sparse Nat := []
  epoch : Sparse Nat := []
  layers : List Layer := [.active, .active, .active]
  /-- accumulator sets, key set × 8192 + row × 128 + column -/
  acc : Sparse Word := []
  toks : List TokSt := [.engine, .engine, .engine, .engine]
  /-- the crew that owns the tokens (01 R20) -/
  tokOwner : Option Nat := none
  minsts : List MInst := []
  nextInst : Nat := 1
  pass : Option Pass := none
  adcache : List AdEntry := []
  fills : List AdFill := []
  /-- ADINV, ADTAB and ADCFG effects that wait for earlier instructions: the first instruction after each, and the ADID or all -/
  adinv : List (Nat × Nat) := []
  i0 : Island := {}
  i1 : Island := {}
  /-- a borrow is active (16 R401) -/
  borrow : Bool := false
  /-- every gang has stopped, and the shadow move and spill end at this cycle (16 R401) -/
  spilled : Option Nat := none
  /-- the copy-back of a borrow: its start and its end (16 R405) -/
  restoring : Option (Nat × Nat) := none
  /-- the I1 image that the load of a borrow has replaced (12 R344) -/
  lentImg : Option Image := none
  /-- number of WRTs that its L1 has sent (10 R294) -/
  wseq : Nat := 0
  /-- busy cycles of the pipes V0, V1, X, M, C of each quarter, key quarter × 5 + pipe -/
  pipes : Sparse Nat := []
  lastIssue : Sparse Nat := []
  /-- SRAM words of the vault that hold an uncorrectable error (08 R474) -/
  badVault : List Nat := []
  /-- releases that bytes of the vault carry (09 R258) -/
  vrels : Sparse (List Rel) := []
  /-- per line of a checked range and gang, the bytes read and written since its last acquire (10 R299) -/
  masks : Sparse (List (Nat × BitVec 128 × BitVec 128)) := []
  deriving DecidableEq, Repr

/-! ## Messages and homes (10) -/

/-- Ends of messages: an L1 data cache, the host bridge of a tower, a home, an engine or another non-caching requester. -/
inductive Node where
  | core (c : Nat)
  | bridge (tower : Nat)
  | home (h : Nat)
  | engine (tower : Nat)
  | mgmt
  deriving DecidableEq, Repr

/-- What a write of the management core counts when it is performed: an error record, which raises the service vector of a tenant (20 R468), or
a trace entry of a tenant (19 R444). -/
inductive Counted where
  | nothing
  | record (t : Nat)
  | trace (t : Nat)
  deriving DecidableEq, Repr

/-- A message (10 R280, R285). -/
structure Msg where
  code : Nat
  src : Node
  dst : Node
  line : Nat
  /-- cycle of delivery -/
  due : Nat
  data : List Byte := []
  mask : BitVec 128 := 0
  /-- the requester on whose behalf a forward is sent -/
  onb : Option Node := none
  pts : Nat := 0
  wts : Nat := 0
  rts : Nat := 0
  epoch : Nat := 0
  base : Nat := 0
  /-- gangs whose bytes or access it carries, and the operation -/
  gangs : List Nat := []
  tag : Nat := 0
  /-- an atomic or a checked access at the home: lanes (lane, PA, data, new value) -/
  acc : List LaneAcc := []
  op : Option Instr := none
  /-- a non-caching write, or bytes that a rebase sends home; a non-caching write whose bytes the line has taken, with UPDATEs still on their way; a
  checked access (10 R285, R298 to R300) -/
  write : Bool := false
  put : Bool := false
  chk : Bool := false
  /-- releases that the bytes carry, by offset (09 R258) -/
  rels : Sparse (List Rel) := []
  /-- bytes of a checked line that the gang has read and written since its last acquire (10 R299) -/
  rdMask : BitVec 128 := 0
  wrMask : BitVec 128 := 0
  done : Counted := .nothing
  /-- the halves of its data that came with an uncorrectable error (20 R466) -/
  poison : BitVec 2 := 0
  /-- a WRT of an L1, the WBACK that answers it and the UPDATEs that it causes: the core and the WRT's number (10 R294, R300) -/
  wby : Option (Nat × Nat) := none
  /-- the engine, by its key, that asks for its turn at a line (10 R283), or whose write an UPDATE carries (10 R285, R300) -/
  cause : Option Nat := none
  deriving DecidableEq, Repr

/-- A race detector record of one byte (09 R268 to R270). -/
structure Acc where
  issuer : Nat
  clk : Nat
  write : Bool
  sync : Bool
  /-- the virtual page of an access by virtual address through LSU (09 R262) -/
  page : Option Nat := none
  deriving DecidableEq, Repr

/-- A line at its home (10 R279, R287, R291, R297). -/
structure HLine where
  st : Nat := 8
  table : Nat := 0
  owner : Option Node := none
  sharers : List Node := []
  acks : Nat := 0
  /-- the entry that WAIT defers, and its message -/
  deferred : Option (Nat × Msg) := none
  /-- a forward outstanding: its requester (10 R281) -/
  fwd : Option Node := none
  /-- a recall in progress: answers still owed (10 R301); requests stall until `hold` after it, for who asked for it -/
  rcl : Nat := 0
  hold : Nat := 0
  /-- frozen by FRZ (10 R279, R290) -/
  frozen : Bool := false
  /-- the first cycle in which the home takes another request for it (10 R283) -/
  freeAt : Nat := 0
  /-- the engine, by its key, that it has taken a request of, and the last cycle in which that engine's access of the line counts as that request -/
  turn : Option (Nat × Nat) := none
  wts : Nat := 0
  rts : Nat := 0
  deriving DecidableEq, Repr

/-- A home agent (10 R276, R283, R291, R301). -/
structure HomeSt where
  ranges : Sparse (DWord × DWord) := []
  base : Nat := 0
  epoch : Nat := 0
  rr : Nat := 0
  lines : Sparse HLine := []
  /-- directory entries in order of allocation (10 R301) -/
  dir : List Nat := []
  /-- stalled requests in order of arrival (10 R283) -/
  stalled : List Msg := []
  /-- a rebase in progress: cores that have not answered (10 R298) -/
  rebasing : List Nat := []
  inRebase : Bool := false
  /-- a range register change in progress: register and words (17 R430) -/
  chg : Option (Nat × DWord × DWord) := none
  /-- staging copies of loaded slots: slot, the cycle when the checker ends, and the container (17 R429) -/
  staging : List (Nat × Nat × List Byte) := []
  /-- self-refresh of its memory controller, and the cycle of the last request (20 R471) -/
  asleep : Bool := false
  lastReq : Nat := 0
  deriving DecidableEq, Repr

/-! ## Towers -/

/-- What waits for a translation or for an event. -/
inductive XWho where
  | gang (g tag : Nat)
  | fetch (g : Nat)
  | copy (crew id : Nat)
  | fill (core : Nat)
  | island (core isel : Nat)
  /-- a launch at its gate event (15 R372) -/
  | launch (l : Nat)
  deriving DecidableEq, Repr

/-- A Page Request Message (16 R394; 19 R451): the tenant's PASID, the address of the page, the permissions needed, Last, and the number of its
Page Request Group among the outstanding ones of its tower. -/
structure PageMsg where
  pasid : Nat := 0
  addr : Nat := 0
  r : Bool := false
  w : Bool := false
  x : Bool := false
  last : Bool := true
  group : Nat := 0
  deriving DecidableEq, Repr

/-- A walk, waiting or in progress (16 R392), or a page request with its waiters (16 R394). -/
structure Walk where
  tenant : Nat
  /-- virtual page, VA[79:13] -/
  vpage : Nat
  /-- who waits, with the permissions needed (1 read, 2 write, 4 execute) and the address -/
  who : List (XWho × Nat × Nat)
  /-- cycle at which the walk ends; none while it waits for a walker -/
  due : Option Nat := none
  /-- a TLB invalidation has met the walk in progress, and waits for it (16 R414) -/
  inv : Bool := false
  /-- the message of a page request -/
  msg : PageMsg := {}
  deriving DecidableEq, Repr

/-- States of a slot-table entry (15 R378). -/
inductive SlotSt where
  | free | posted | resident | refused
  deriving DecidableEq, Repr

/-- An entry of a tower's slot table (15 R378). -/
structure SlotE where
  st : SlotSt := .free
  b0 : DWord := 0
  b1 : DWord := 0
  /-- order of posting -/
  seq : Nat := 0
  deriving DecidableEq, Repr

/-- A cluster group that reserves (15 R382). -/
structure CGroup where
  /-- slot entries of the members whose resources are reserved -/
  reserved : List Nat := []
  conflicts : Nat := 0
  /-- not before this cycle -/
  wait : Nat := 0
  precedence : Bool := false
  deriving DecidableEq, Repr

/-- A tower (00 R4; 15 R378; 16 R392). -/
structure Tower where
  l2tlb : List TlbE := []
  /-- page-walk cache: (tenant, level, VA prefix, entry) -/
  pwc : List (Nat × Nat × Nat × DWord) := []
  walks : List Walk := []
  preqs : List Walk := []
  slots : Sparse SlotE := []
  postSeq : Nat := 1
  acceptAt : Nat := 0
  groups : Sparse CGroup := []
  wide : Sparse Island := []
  /-- tenants that may bind W1 to W3 (12 R330) -/
  grants : Sparse Nat := []
  /-- lines in the stacked cache of each tenant, most recently used first, key tenant (08 R249, R250) -/
  stacked : Sparse (List Nat) := []
  /-- operations that wait for the overflow table (15 R388): kind, event, who, threshold, and the releases of a signal -/
  evq : List (Nat × Nat × XWho × Word × List Rel) := []
  /-- the core that placement used last (15 R377) -/
  lastCore : Nat := 47
  snoops : List (Nat × Nat) := []
  deriving DecidableEq, Repr

/-! ## The scheduler (15) -/

/-- A launch in the dependence table (15 R369 to R373). -/
structure Launch where
  used : Bool := false
  tenant : Nat := 0
  queue : Nat := 0
  /-- queue index of its record, and of its graph's first record (15 R385) -/
  n : Nat := 0
  graph : Nat := 0
  words : List DWord := []
  /-- records of the predecessors that have not completed (15 R371) -/
  preds : List Nat := []
  /-- its gate: 0 not asked, 1 waits, 2 open (15 R372); the count that has opened it -/
  gate : Nat := 0
  gateAt : Word := 0
  /-- its image is verified from this cycle on (17 R426) -/
  imgAt : Nat := 0
  started : Bool := false
  /-- tower of the RT core set that an RT launch goes to (16 R400) -/
  tower : Option Nat := none
  /-- cores that have taken a crew of it (15 R380) -/
  cores : List Nat := []
  /-- the I1 image that its kernel names (15 R369) -/
  img : Option Image := none
  patch : List Word := []
  /-- crews dispatched and retired -/
  disp : Nat := 0
  retired : Nat := 0
  /-- crews bound (posted) so far -/
  bound : Nat := 0
  /-- cancelled with this CAUSE (15 R363) -/
  cancel : Nat := 0
  /-- its counter is DONE or CANCELLED -/
  finished : Bool := false
  /-- its next crew has been dispatchable since this cycle, and beyond the starvation bound (15 R368) -/
  since : Nat := 0
  starving : Bool := false
  /-- releases that its crews acquire (15 R372, R376) -/
  rels : List Rel := []
  /-- retirement releases of its crews (15 R384) -/
  out : List Rel := []
  deriving DecidableEq, Repr

/-- An event (06 R189): count, waiters in order (the gang and operation, or a launch), and the releases of its signals. -/
structure Ev where
  count : Word := 0
  waits : List (XWho × Word) := []
  rels : List Rel := []
  deriving DecidableEq, Repr

/-- A member of a tide group (06 R186). -/
inductive Member where
  | crew (uid : Nat)
  | island (core isel : Nat)
  | window (n : Nat)
  deriving DecidableEq, Repr

/-- A tide group (06 R186 to R188). -/
structure Tide where
  tenant : Option Nat := none
  gen : BitVec 16 := 0
  members : List Member := []
  arrived : List Member := []
  joining : List Member := []
  leaving : List Member := []
  waits : List (Nat × Nat) := []
  rels : List Rel := []
  old : List (Nat × List Rel) := []
  deriving DecidableEq, Repr

/-! ## Tenants (15, 16, 19) -/

/-- A graph, phase or job of a queue that has been taken in, in part or whole (15 R362, R363). -/
structure Level where
  /-- 1 graph, 2 phase, 3 job -/
  kind : Nat
  /-- queue index of its first record, and of the first record of the level above -/
  first : Nat
  up : Nat := 0
  /-- its index in the level above -/
  idx : Nat := 0
  /-- records, and members of the level below, taken in; members that are unfinished -/
  recs : Nat := 0
  members : Nat := 0
  unfin : Nat := 0
  closed : Bool := false
  /-- DONE or CANCELLED; the CAUSE of a cancel; the counter from then on -/
  fin : Bool := false
  cause : Nat := 0
  word : DWord := 0
  /-- what the crews that its counter counts as finished have released (15 R364) -/
  know : Know := {}
  /-- the slot of a job -/
  slot : Option Nat := none
  /-- OVERLAP of a graph's first record; the graph before it, if it is not the first of its phase; the phase before it -/
  overlap : Bool := false
  prev : Option Nat := none
  prevPhase : Option Nat := none
  /-- finished nodes of a graph: record, whether cancelled, releases -/
  ends : List (Nat × Bool × List Rel) := []
  deriving DecidableEq, Repr

/-- A queue of a tenant (15 R366, 19 R443, R446). -/
structure Queue where
  qd0 : DWord := 0
  qd1 : DWord := 0
  tail : Word := 0
  prog : Word := 0
  qerr : Bool := false
  /-- SW: 0 in, 1 switching out, 2 out -/
  sw : Nat := 0
  snap : Word := 0
  latched : Option Word := none
  /-- levels taken in and not finished, in order of their first records (15 R362) -/
  levels : List Level := []
  /-- what the host's last tail write releases (19 R445) -/
  tailK : Know := {}
  /-- the last graph and the last phase that began, and the releases of finished graphs: graph, phase, releases (15 R376) -/
  lastGraph : Option Nat := none
  lastPhase : Option Nat := none
  rels : List (Nat × Nat × List Rel) := []
  deriving DecidableEq, Repr

/-- A job slot (15 R363, R365): the three counters of its completion block. -/
structure Job where
  queue : Option Nat := none
  job : DWord := 0
  phase : DWord := 0
  graph : DWord := 0
  /-- values of its counters that are not written yet, in order: the cancelled launches whose crews are still to retire, and what the
  write releases (15 R364, R386) -/
  owed : List (DWord × DWord × DWord × List Nat × Know) := []
  deriving DecidableEq, Repr

/-- A tenant (15 R365, 16 R389, R398, 19 R443, R444). -/
structure Tenant where
  live : Bool := false
  queues : Sparse Queue := []
  jobs : Sparse Job := []
  /-- core masks of towers 0 and 1 (15 R365), RT core sets (16 R400), stacked-cache granules (08 R250) -/
  mask0 : BitVec 48 := 0
  mask1 : BitVec 48 := 0
  rt0 : BitVec 48 := 0
  rt1 : BitVec 48 := 0
  gran0 : Nat := 0
  gran1 : Nat := 0
  /-- pinned ranges: PA and length in 8 KiB units (17 R431) -/
  pins : List (Nat × Nat) := []
  /-- the range that a PIN loads, and the cycle at which its last line is there (17 R431) -/
  pinning : Option (Nat × Nat × Nat) := none
  root : DWord := 0
  pasid : DWord := 0
  fctl0 : DWord := 0
  fctl1 : DWord := 50
  fctl2 : DWord := 0
  fctl3 : DWord := 0
  carea0 : DWord := 0
  carea1 : DWord := 0
  tlbinv0 : DWord := 0
  tlbBusy : Bool := false
  tlbDone : Word := 0
  /-- accesses translated before the invalidation in progress, as gang and operation, and whether LEASE bytes are on their way home -/
  tlbOps : List (Nat × Nat) := []
  tlbFlush : Bool := false
  bpa : Sparse DWord := []
  bpb : Sparse DWord := []
  dbgctl : DWord := 0
  trbase : DWord := 0
  trsize : DWord := 6
  trtail : DWord := 0
  /-- verified image containers, most recently named first: address and image (17 R426) -/
  images : List (Nat × Image) := []
  /-- starvation bound in µs (15 R368) -/
  starve : Nat := 4000
  /-- cancel requests held for records not yet taken in (19 R450) -/
  cancels : List DWord := []
  /-- entries written into the remap ring (16 R409) -/
  remaps : Nat := 0
  /-- TDESTROY waits for its crews -/
  dying : Bool := false
  deriving DecidableEq, Repr

/-! ## The host side (19, 20) -/

/-- The host bridge's half-states of a line (10 R302). -/
inductive Half where
  | i | s | m
  deriving DecidableEq, Repr

/-- A line that the host bridge of the home's tower holds (10 R302 to R304). -/
structure BLine where
  h0 : Half := .i
  h1 : Half := .i
  /-- agent state of MOESI-INV -/
  st : Nat := 0
  /-- a host request that waits: half and whether for ownership -/
  want : Option (Nat × Bool) := none
  /-- a forward, INV or RECALL that waits for BIRsp -/
  snooped : Option Msg := none
  data : List Byte := []
  dirty : BitVec 128 := 0
  /-- host requests of the line that wait, in the order in which they reached the bridge (19 R452); MemWrs whose bytes are on their way home -/
  todo : List Instr := []
  writes : Nat := 0
  deriving DecidableEq, Repr

/-- What the host writes into configuration space and the component registers (19 R440 to R442, R448, R451; log entry 53): command, MSI-X Enable
and Function Mask, the control register of the CXL Device DVSEC, PRI and PASID, and the HDM decoder. -/
structure HostCfg where
  command : Word := 0
  msixOn : Bool := false
  msixMask : Bool := false
  cxl : Word := 2
  priOn : Bool := false
  priAlloc : Word := 0
  pasidOn : Bool := false
  hdmOn : Word := 0
  hdmBase : DWord := 0
  hdmSize : DWord := 0
  hdmCtl : Word := 0
  deriving DecidableEq, Repr

/-- The privileged window and the other host-visible registers (19 R442, R453, R455; 20 R467). -/
structure Priv where
  cmdop : DWord := 0
  busy : Bool := false
  result : BitVec 8 := 0
  done : Word := 0
  args : Sparse DWord := []
  res : Sparse DWord := []
  /-- the arguments with which the command in progress started; its outcome, RESULT and RES0, once it is known -/
  cargs : Sparse DWord := []
  cend : Option (Nat × Nat) := none
  errbase : DWord := 0
  errsz : DWord := 0
  errhead : DWord := 0
  errtail : DWord := 0
  errlost : DWord := 0
  cecnt : Sparse DWord := []
  iw0 : Sparse DWord := []
  iw1 : Sparse DWord := []
  /-- MSI-X table (four 32-bit words a vector; bit 0 of the last masks it), pending bits, messages sent -/
  msix : Sparse Word := []
  msixPend : BitVec 256 := 0
  msixSent : Sparse Nat := []
  /-- vectors that wait for writes of the management core up to a number (19 R448) -/
  irqs : List (Nat × Nat) := []
  cfg : HostCfg := {}
  /-- completions of MemWrs that the host has been sent (19 R452) -/
  memwrs : Nat := 0
  /-- the last answer to a host or peer read: bytes, and poison or Unsupported Request -/
  answer : List Byte := []
  poison : Bool := false
  deriving DecidableEq, Repr

/-- A peer write that is not performed (19 R456): window, physical address, requester, bytes, and the word IW1 where it covers TRIG. -/
structure PeerW where
  win : Nat
  pa : Nat
  req : Nat
  data : List Byte
  trig : Option DWord
  deriving DecidableEq, Repr

/-- Outside upsets of stored bits (20 R464): an uncorrectable error in a 64-bit word of a vault, in a 64-byte unit of device memory or in a
line of an L1 data cache, or an error of block `k` that is corrected and counted. -/
inductive Upset where
  | vault (core word : Nat)
  | path (gang lane : Nat)
  | memory (unit : Nat)
  | l1 (core line : Nat)
  | corrected (k : Nat)
  /-- a lane of a V register; a line of an instruction cache; a line of the stacked cache of a tower; an entry of a protocol table's slot; a word of the
  management core's SRAM -/
  | regs (gang r lane : Nat)
  | icache (core line : Nat)
  | stacked (tower line : Nat)
  | table (slot : Nat)
  | sram (word : Nat)
  /-- a parity error on the path of the next access of an engine, of the host or of a peer -/
  | engine (w : XWho)
  | host
  | peer
  /-- a flit of the host link or the ingress link, or a transfer of a memory device, that is replayed -/
  | link
  deriving DecidableEq, Repr

/-- The management core as a processor (00 R5): the registers of an RV64GC core with the privileged architecture (PRESUMED, log entry 21), and its
2 MiB SRAM.  What its firmware does is modelled by the acts of the management core, since the spec gives no instruction of the firmware; the acts
neither read nor write these fields, but for the boot, which starts the core afresh. -/
structure RvCore where
  pc : DWord := 0
  /-- 0 user, 1 supervisor, 3 machine -/
  priv : Nat := 3
  x : Sparse DWord := []
  f : Sparse DWord := []
  csr : Sparse DWord := []
  sram : Sparse Byte := []
  deriving DecidableEq, Repr

/-- A copy of a retirement list in flash (20 R470): its sequence number, the list, and the cycle at which its write ends; a copy that a reset has
torn is not whole. -/
structure FlashCopy where
  seq : Nat := 0
  list : List Nat := []
  ends : Nat := 0
  whole : Bool := true
  deriving DecidableEq, Repr

/-- What outlives or measures a boot (20). -/
structure Life where
  /-- 0 to 3 of 20 R459; `booted` once stage 3 is reached; `recovery` (20 R460) -/
  stage : Nat := 0
  booted : Bool := false
  recovery : Bool := false
  brown : Bool := false
  /-- stage at which the next boot fails, an outside happening (20 R459) -/
  bootFail : Option Nat := none
  /-- the firmware container in the platform's flash, an outside happening; none is one that passes the boot ROM's checks (20 R459) -/
  firmware : Option (List Byte) := none
  /-- layers (core × 4 + layer) whose self-test fails at the next reset, an outside happening (11 R310) -/
  selfFail : List Nat := []
  /-- upsets of stored bits with their cycles, an outside happening (20 R464) -/
  upsets : List (Nat × Upset) := []
  /-- containers of a platform update for the next boot, an outside happening; the images that the last boot has loaded into I0 and W0 in place
  of the standard ones (12 R344) -/
  nextImgs : List (List Byte) := []
  imgI0 : Option Image := none
  imgW0 : Option Image := none
  meas : List (BitVec 384) := [0, 0, 0, 0, 0, 0, 0, 0]
  eccOff : Bool := false
  /-- retirement lists of the flash (20 R470): pages, layers (core × 4 + layer) -/
  pages : List Nat := []
  layers : List Nat := []
  flashSeq : Nat := 0
  /-- the two copies of each list in flash (20 R470) -/
  flashPages : List FlashCopy := [{}, {}]
  flashLayers : List FlashCopy := [{}, {}]
  /-- 64-byte units of device memory that hold an uncorrectable error (20 R466) -/
  badMem : List Nat := []
  /-- such units of GDDR7 under lines that are pinned in the stacked cache, which serves them, until the lines are written back (08 R251) -/
  under : List Nat := []
  /-- accesses that a parity error will fail: the next one of a gang's lane (20 R466) -/
  parity : List (Nat × Nat) := []
  /-- the same of engines, by their keys, of the host (2) and of a peer (1) -/
  paths : List Nat := []
  /-- the key that the boot ROM has derived (20 R459) -/
  identity : BitVec 384 := 0
  /-- what each layer, core × 4 + layer, decides by (11 R308; 20 R471) -/
  limits : List LayerLimit := []
  /-- the last SPDM response, and what the requester has negotiated (20 R463) -/
  spdm : List Byte := []
  spdmState : Nat := 0
  /-- peer writes that are not performed, in order of arrival -/
  peerQ : List PeerW := []
  /-- signals that wait: window, requester, and the window's word IW1 -/
  signals : List (Nat × Nat × DWord) := []
  deriving DecidableEq, Repr

/-! ## The device -/

/-- The state of the device. -/
structure State where
  /-- core cycles since reset (01 R18) -/
  now : Nat := 0
  /-- outside happenings and choices of order with their cycles: the model's own (log entry 35) -/
  tape : List (Nat × Instr) := []
  /-- extra cycles of variable-latency acts, taken one by one: the model's own (log entry 35) -/
  lag : List Nat := []
  /-- acts that are due at a cycle: the model's own (log entry 33) -/
  agenda : List (Nat × Instr) := []
  /-- counter of free values: the model's own (log entry 34) -/
  fresh : Nat := 0
  cur : Option Cursor := none
  /-- whose turn it is within the cycle: 0 what does not touch a vault, 1 to 4 the quarters in ascending number, 5 copies and the
  matrix engine, 6 the towpath (01 R19, 06 R175) -/
  phase : Nat := 0
  mem : List Host.Cell := []
  gangs : Sparse Gang := []
  crews : Sparse Crew := []
  cores : Sparse Core := []
  towers : Sparse Tower := []
  homes : Sparse HomeSt := []
  net : List Msg := []
  tables : Sparse (Sparse Nat) := []
  tmulti : Sparse Bool := []
  /-- releases attached to the written bytes of memory, and the race detector's records, by PA (09) -/
  rels : Sparse (List Rel) := []
  det : Sparse (List Acc) := []
  /-- the next number of an issuer for the race detector: 2 n for a gang, 2 n + 1 for a copy -/
  nextIss : Nat := 1
  /-- where each issuer of a number stood when it began (06 R177: scopes) -/
  places : Sparse Issuer := []
  /-- what the host knows (09 R274), and the timestamps of the ING writes of each requester (19 R457) -/
  hostK : Know := {}
  peerTs : Sparse Nat := []
  /-- synchronising acts performed on lines without leases, by line, and FENCEs: who, at which scope, with which timestamp (09 R260) -/
  acts : Sparse (List Rel) := []
  fences : List Rel := []
  bridge : Sparse BLine := []
  lents : Sparse Launch := []
  events : Sparse Ev := []
  /-- resident events, most recently used first: tenant × 65536 + name (15 R387) -/
  evRes : List Nat := []
  tides : Sparse Tide := []
  tenants : Sparse Tenant := []
  /-- the queue of each PRIO that was served last: tenant × 16 + queue (15 R368) -/
  rrQueue : Sparse Nat := []
  /-- the cycles that the accesses of an engine's step take beyond a hit in the stacked cache of its tower (08 R252) -/
  extra : Nat := 0
  priv : Priv := {}
  life : Life := {}
  rv : RvCore := {}
  deriving DecidableEq, Repr

/-- The values of unlisted keys. -/
def Gang.empty : Gang := {}
def Crew.empty : Crew := {}
def Core.empty : Core := {}
def Tower.empty : Tower := {}
def HomeSt.empty : HomeSt := {}
def Tenant.empty : Tenant := {}
def Launch.empty : Launch := {}
def Ev.empty : Ev := {}
def Tide.empty : Tide := {}

/-- The device right after reset (20 R459, R461, R462): stage 0, nothing resident, measurements zero.  The first step runs the
boot (row RESET), which the agenda holds. -/
def State.reset : State := { agenda := [(0, .reset)] }

end Sys2Proof.Machine
end

