-- ==== Sys2Proof/Machine/Ops.lean ====
section
/-! DEFINITION. Named operations over the state: lookups and updates, time, lanes, memory bytes, interrupts,
writebacks, pending marks, and taking and leaving a trap. -/

namespace Sys2Proof.Machine

open Sys2Proof

/-! ## Lookups and updates -/

def State.gang (s : State) (g : Nat) : Gang := Sparse.get Gang.empty s.gangs g
def State.setGang (s : State) (g : Nat) (x : Gang) : State := { s with gangs := Sparse.set Gang.empty s.gangs g x }
def State.modGang (s : State) (g : Nat) (f : Gang → Gang) : State := s.setGang g (f (s.gang g))
def State.crew (s : State) (u : Nat) : Crew := Sparse.get Crew.empty s.crews u
def State.setCrew (s : State) (u : Nat) (x : Crew) : State := { s with crews := Sparse.set Crew.empty s.crews u x }
def State.modCrew (s : State) (u : Nat) (f : Crew → Crew) : State := s.setCrew u (f (s.crew u))
def State.core (s : State) (c : Nat) : Core := Sparse.get Core.empty s.cores c
def State.setCore (s : State) (c : Nat) (x : Core) : State := { s with cores := Sparse.set Core.empty s.cores c x }
def State.modCore (s : State) (c : Nat) (f : Core → Core) : State := s.setCore c (f (s.core c))
def State.tower (s : State) (t : Nat) : Tower := Sparse.get Tower.empty s.towers t
def State.setTower (s : State) (t : Nat) (x : Tower) : State := { s with towers := Sparse.set Tower.empty s.towers t x }
def State.modTower (s : State) (t : Nat) (f : Tower → Tower) : State := s.setTower t (f (s.tower t))
def State.home (s : State) (h : Nat) : HomeSt := Sparse.get HomeSt.empty s.homes h
def State.setHome (s : State) (h : Nat) (x : HomeSt) : State := { s with homes := Sparse.set HomeSt.empty s.homes h x }
def State.modHome (s : State) (h : Nat) (f : HomeSt → HomeSt) : State := s.setHome h (f (s.home h))
def State.ten (s : State) (t : Nat) : Tenant := Sparse.get Tenant.empty s.tenants t
def State.setTen (s : State) (t : Nat) (x : Tenant) : State := { s with tenants := Sparse.set Tenant.empty s.tenants t x }
def State.modTen (s : State) (t : Nat) (f : Tenant → Tenant) : State := s.setTen t (f (s.ten t))
def State.launch (s : State) (l : Nat) : Launch := Sparse.get Launch.empty s.lents l
def State.setLaunch (s : State) (l : Nat) (x : Launch) : State := { s with lents := Sparse.set Launch.empty s.lents l x }
def State.modLaunch (s : State) (l : Nat) (f : Launch → Launch) : State := s.setLaunch l (f (s.launch l))

def Gang.vreg (g : Gang) (r lane : Nat) : Word := Sparse.get 0 g.v (r * 64 + lane)
def Gang.setV (g : Gang) (r lane : Nat) (x : Word) : Gang := { g with v := Sparse.set 0 g.v (r * 64 + lane) x }
def Gang.sreg (g : Gang) (r : Nat) : DWord := Sparse.get 0 g.s r
def Gang.areg (g : Gang) (r : Nat) : Addr := Sparse.get 0 g.a r
def Gang.kreg (g : Gang) (r : Nat) : DWord := Sparse.get 0 g.k r

/-! ## Time, order and free values -/

/-- An act due at a cycle. -/
def State.at (s : State) (due : Nat) (i : Instr) : State := { s with agenda := s.agenda ++ [(due, i)] }
/-- An act due after `n` cycles and the next entry of `lag`, which it takes (01 R477). -/
def State.later (s : State) (n : Nat) (i : Instr) : State :=
  match s.lag with
  | [] => s.at (s.now + n) i
  | x :: r => State.at { s with lag := r } (s.now + n + x) i
/-- The next entry of `lag`. -/
def State.popLag (s : State) : Nat × State :=
  match s.lag with
  | [] => (0, s)
  | x :: r => (x, { s with lag := r })
/-- The next free value (log entry 34). -/
def State.free (s : State) : Word × State := (Config.freeWord s.fresh, { s with fresh := s.fresh + 1 })

/-! ## Lanes (01 R36, R37) -/

/-- The lanes of a slice mask. -/
def maskLanes (slice : Nat) (m : BitVec 4) : List Nat :=
  ((List.range 4).filter fun j => m.getLsbD j).map fun j => 4 * slice + j

/-- A slice of a gang. -/
def sliceAt (ss : List Slice) (k : Nat) : Slice := (ss[k]?).getD {}

/-- The lanes of `active(gang)` for the subgang of these slices, ascending. -/
def activeLanes (ss : List Slice) (sub : List Nat) : List Nat :=
  sub.flatMap fun k => maskLanes k (sliceAt ss k).mask

/-- `a` in an ordered list, before what is not below it. -/
def insertBy {α : Type} (le : α → α → Bool) (a : α) : List α → List α
  | [] => [a]
  | b :: r => if le a b then a :: b :: r else b :: insertBy le a r
/-- A list in order; equals keep their order. -/
def orderBy {α : Type} (le : α → α → Bool) (l : List α) : List α := l.foldr (insertBy le) []

/-- Lanes as a 64-bit mask. -/
def laneBits (ls : List Nat) : DWord := ls.foldl (fun m l => m ||| (1#64 <<< l)) 0

/-- The lanes of a 64-bit mask, ascending. -/
def bitLanes (m : DWord) : List Nat := (List.range 64).filter fun l => m.getLsbD l

/-- EXEC (01 R36): the lane masks of the live slices. -/
def execMask (ss : List Slice) : DWord :=
  laneBits ((List.range ss.length).flatMap fun k =>
    if (sliceAt ss k).live then maskLanes k (sliceAt ss k).mask else [])

/-- Bits below the gang width. -/
def widthMask (w : Nat) : DWord := BitVec.ofNat 64 (2 ^ min w 64 - 1)

/-- Active lanes of the word that issues. -/
def State.lanes (s : State) (c : Cursor) : List Nat := activeLanes (s.gang c.gang).slices c.slices

/-- The slices of a gang that form one subgang with slice `k` (01 R37). -/
def subgangOf (ss : List Slice) (k : Nat) : List Nat :=
  (List.range ss.length).filter fun j =>
    (sliceAt ss j).live && !(sliceAt ss j).wait && (sliceAt ss j).pc == (sliceAt ss k).pc

/-- Packet addresses (03 R75). -/
def pcPlus (p : PAddr) (n : Int) : PAddr := p + BitVec.ofInt 76 n
/-- The byte address of a packet. -/
def pcAddr (p : PAddr) : Addr := p.setWidth 80 <<< 4
/-- The packet at an A register's address: bits [79:4] (03 R75). -/
def addrPc (a : Addr) : PAddr := (a >>> 4).setWidth 76

/-! ## Memory bytes -/

/-- What a byte of physical memory that nothing has written reads as: the boot clears device memory (20 R459); for host
memory it is the model's choice (DESIGN CHOICE, log entry 1). -/
def memDefault : Byte := 0
/-- The byte at a physical address. -/
def State.byte (s : State) (pa : Nat) : Byte := Sparse.get memDefault s.mem pa
/-- Writes one byte, keeping the canonical form. -/
def State.setByte (s : State) (pa : Nat) (b : Byte) : State := { s with mem := Sparse.set memDefault s.mem pa b }
/-- Bytes from an address upwards (00 R8). -/
def State.bytes (s : State) (pa n : Nat) : List Byte := (List.range n).map fun k => s.byte (pa + k)
/-- Writes bytes from an address upwards. -/
def State.setBytes (s : State) (pa : Nat) : List Byte → State
  | [] => s
  | b :: r => (s.setByte pa b).setBytes (pa + 1) r
/-- Little-endian value of bytes (00 R8). -/
def leNat : List Byte → Nat
  | [] => 0
  | b :: r => b.toNat + 256 * leNat r
/-- The `n` little-endian bytes of a value. -/
def leBytes : Nat → Nat → List Byte
  | 0, _ => []
  | n + 1, x => BitVec.ofNat 8 x :: leBytes n (x / 256)
/-- A 64-bit word of memory. -/
def State.mem64 (s : State) (pa : Nat) : DWord := BitVec.ofNat 64 (leNat (s.bytes pa 8))
/-- The canonical form of the memory: keys rise and no byte equals the default. -/
def State.memWf (s : State) : Bool := Sparse.wf memDefault s.mem

/-! ## Bits -/

/-- Bits `[lo + n - 1 : lo]` of a 64-bit word. -/
def bits (w : DWord) (lo n : Nat) : Nat := w.toNat / 2 ^ lo % 2 ^ n
/-- A word built of fields `(low bit, value)`. -/
def pack (fs : List (Nat × Nat)) : DWord := fs.foldl (fun w f => w ||| (BitVec.ofNat 64 f.2 <<< f.1)) 0

/-! ## Interrupts (19 R448, R449) -/

/-- Is a vector masked: by its own bit, by the Function Mask, or because MSI-X is not enabled? -/
def State.masked (s : State) (v : Nat) : Bool :=
  (Sparse.get 1 s.priv.msix (4 * v + 3)).getLsbD 0 || s.priv.cfg.msixMask || !s.priv.cfg.msixOn

/-- A vector is raised: sent, or pending while masked. -/
def State.raiseVector (s : State) (v : Nat) : State :=
  if s.masked v then { s with priv := { s.priv with msixPend := s.priv.msixPend ||| (1#256 <<< v) } }
  else { s with priv := { s.priv with msixSent := Sparse.set 0 s.priv.msixSent v (Sparse.get 0 s.priv.msixSent v + 1) } }

/-- A pending vector that is no longer masked sends its message. -/
def State.sendVector (s : State) (v : Nat) : State :=
  if s.priv.msixPend.getLsbD v && !s.masked v then
    ({ s with priv := { s.priv with msixPend := s.priv.msixPend &&& ~~~(1#256 <<< v) } } : State).raiseVector v
  else s

/-- Every pending vector that is no longer masked sends its message. -/
def State.sendPending (s : State) : State := (List.range 256).foldl State.sendVector s

/-- The service vector of a tenant (19 R448: vector 31). -/
def State.service (s : State) (t : Nat) : State := s.raiseVector (32 * t + 31)

/-! ## Results (01 R39 to R42) -/

/-- A fixed-latency result of gang `g`, visible `lat` cycles from now (01 R39). -/
def State.emit (s : State) (g lat : Nat) (ws : List Write) (fl : BitVec 7 := 0) : State :=
  s.modGang g fun x =>
    { x with wb := x.wb ++ [{ due := s.now + lat, seq := x.nextSeq, writes := ws, flags := fl }], nextSeq := x.nextSeq + 1 }

/-- A pending mark and a new operation tag (01 R41). -/
def Gang.mark (x : Gang) (tag : Nat) (regs : List PReg) (lanes : DWord) : Gang :=
  { x with pend := x.pend ++ regs.map fun r => { reg := r, lanes := lanes, tag := tag } }

/-- The marks of operation `tag` in these lanes go away. -/
def Gang.unmark (x : Gang) (tag : Nat) (lanes : DWord) : Gang :=
  let cut := x.pend.map fun p => if p.tag = tag then { p with lanes := p.lanes &&& ~~~lanes } else p
  { x with pend := cut.filter fun p => p.tag != tag || p.lanes != 0 }

/-- Every mark of operation `tag` goes away. -/
def Gang.unmarkAll (x : Gang) (tag : Nat) : Gang := { x with pend := x.pend.filter fun p => p.tag != tag }

/-- One write of a result to the registers of a gang; vault bytes and H registers are written by `State.applyWrite`.  DEDUCED (log entry 28): the
masks of a SETX in a packet's last chain group become visible one cycle after it issues (01 R39), so after what the packet's control word, be it
of a lower slot, has done to the masks at the packet's end (04 R118); lanes that a stack holds by then stay off (01 R36). -/
def Gang.write (x : Gang) : Write → Gang
  | .v r vals => vals.foldl (fun y p => y.setV r p.1 p.2) x
  | .s r w => { x with s := Sparse.set 0 x.s r w }
  | .a r w => { x with a := Sparse.set 0 x.a r w }
  | .k r w => { x with k := Sparse.set 0 x.k r (w &&& widthMask x.width) }
  | .exec ms =>
    { x with slices := (x.slices.zipIdx).map fun p =>
        match ms.lookup p.2 with
        | some m =>
          if p.1.live then { p.1 with mask := m &&& ~~~(p.1.stack.foldl (fun h e => h ||| e.2) 0) } else p.1
        | none => p.1 }
  | .mode w => { x with mode := if 5 ≤ w.toNat % 8 then (w &&& ~~~7) ||| (x.mode &&& 7) else w }
  | .flags w => { x with flags := w }
  | .k7 m => { x with k := Sparse.set 0 x.k 7 (x.kreg 7 ||| (m &&& widthMask x.width)) }
  | .vault _ _ _ => x
  | .h _ _ _ => x

/-- The older write `w` loses what the younger write `y` has written (01 R40). -/
def Write.minus (w y : Write) : Option Write :=
  match w, y with
  | .v r vals, .v r' vals' =>
    if r = r' then
      match vals.filter fun p => !(vals'.any fun q => q.1 == p.1) with
      | [] => none
      | l => some (.v r l)
    else some w
  | .s r _, .s r' _ => if r = r' then none else some w
  | .a r _, .a r' _ => if r = r' then none else some w
  | .k r _, .k r' _ => if r = r' then none else some w
  | .exec ms, .exec ms' =>
    match ms.filter fun p => !(ms'.any fun q => q.1 == p.1) with
    | [] => none
    | l => some (.exec l)
  | .mode _, .mode _ => none
  | .flags _, .flags _ => none
  | w, _ => some w

/-- A granule of a window becomes valid, its other bytes zero (08 R238); `base` is the vault byte of the window. -/
def Core.openGranule (c : Core) (base k : Nat) : Core :=
  { c with vault := c.vault.filter fun p => !(base + 512 * k ≤ p.1 && p.1 < base + 512 * k + 512) }

/-- Writes one byte of a crew's window through any path (08 R238). -/
def State.vaultWrite (s : State) (u off : Nat) (b : Byte) : State :=
  let cr := s.crew u
  let base := 16384 * cr.vbase
  let c := s.core cr.core
  let k := off / 512
  let s := if Sparse.get false cr.gran k then s
    else (s.setCore cr.core (c.openGranule base k)).setCrew u { cr with gran := Sparse.set false cr.gran k true }
  s.modCore cr.core fun c => { c with vault := Sparse.set 0 c.vault (base + off) b }

/-- Reads one byte of a crew's window; a granule never written reads as zero (08 R238). -/
def State.vaultRead (s : State) (u off : Nat) : Byte :=
  let cr := s.crew u
  if Sparse.get false cr.gran (off / 512) then Sparse.get 0 (s.core cr.core).vault (16384 * cr.vbase + off) else 0

/-- `n` bytes of a window. -/
def State.vaultBytes (s : State) (u off n : Nat) : List Byte := (List.range n).map fun k => s.vaultRead u (off + k)
/-- Writes bytes of a window from an offset upwards. -/
def State.vaultWrites (s : State) (u : Nat) : List (Nat × Byte) → State
  | [] => s
  | p :: r => (s.vaultWrite u p.1 p.2).vaultWrites u r

/-- A write of a whole SRAM word of 8 bytes makes a word with an uncorrectable error good again (08 R474). -/
def State.heal (s : State) (u : Nat) (bs : List (Nat × Byte)) : State :=
  let cr := s.crew u
  if (s.core cr.core).badVault.isEmpty then s
  else s.modCore cr.core fun k => { k with badVault := k.badVault.filter fun w =>
    !((List.range 8).all fun j => bs.any fun p => 16384 * cr.vbase + p.1 == 8 * w + j) }

/-- The releases that bytes of a window carry from now on (09 R258). -/
def State.vaultCarry (s : State) (u : Nat) (bs : List (Nat × Byte)) (rs : List Rel) : State :=
  let cr := s.crew u
  if rs.isEmpty && (s.core cr.core).vrels.isEmpty then s
  else s.modCore cr.core fun k => { k with vrels := bs.foldl (fun m p => Sparse.set [] m (16384 * cr.vbase + p.1) rs) k.vrels }

/-- A write of bytes of a window by one access, which heals the words that it writes whole. -/
def State.vaultStore (s : State) (u : Nat) (bs : List (Nat × Byte)) (rs : List Rel := []) : State :=
  ((s.vaultWrites u bs).heal u bs).vaultCarry u bs rs

/-- Where a V register of a gang lies in the spill area of its core, as it lies in its quarter's register file (01 R28; 16 R400, R401). -/
def Gang.spillAt (x : Gang) (r lane : Nat) : Nat := 3670016 + 131072 * x.quarter + x.rbase + 4 * (r * x.width + lane)

/-- Values of a V register of a gang whose registers lie in the spill area (16 R402). -/
def State.spillWrite (s : State) (g r : Nat) (vals : List (Nat × Word)) : State :=
  let x := s.gang g
  s.modCore x.core fun c => { c with vault := vals.foldl (fun m p =>
    ((leBytes 4 p.2.toNat).zipIdx.foldl (fun m b => Sparse.set 0 m (x.spillAt r p.1 + b.2) b.1) m)) c.vault }

/-- One write of a result takes effect. -/
def State.applyWrite (s : State) (g : Nat) (w : Write) : State :=
  match w with
  | .vault u bs rs => s.vaultStore u bs rs
  | .h u r x => s.modCrew u fun cr => { cr with h := Sparse.set {} cr.h r x }
  | .v r vals =>
    let s := if (s.gang g).badV.isEmpty then s
      else s.modGang g fun x => { x with badV := x.badV.filter fun b => !(b.1 == r && vals.any fun p => p.1 == b.2) }
    if (s.gang g).spilled then s.spillWrite g r vals else s.modGang g fun x => x.write (.v r vals)
  | w => s.modGang g fun x => x.write w

/-- Older results in flight lose what these writes have written (01 R40). -/
def Gang.supersede (x : Gang) (seq : Nat) (ws : List Write) : Gang :=
  { x with wb := x.wb.map fun e =>
      if e.seq < seq then { e with writes := ws.foldl (fun l y => l.filterMap fun w => w.minus y) e.writes } else e }

/-- A result becomes visible: its writes and flags take effect, and older results lose those lanes (01 R25, R40). -/
def State.land (s : State) (g : Nat) (e : Wb) : State :=
  let s := e.writes.foldl (fun s w => s.applyWrite g w) s
  s.modGang g fun x => { x.supersede e.seq e.writes with flags := x.flags ||| e.flags.setWidth 32 }

/-- A variable-latency result arrives: it is the youngest write of its lanes. -/
def State.deliver (s : State) (g tag : Nat) (lanes : DWord) (ws : List Write) : State :=
  let s := ws.foldl (fun s w => s.applyWrite g w) s
  s.modGang g fun x => (x.supersede x.nextSeq ws).unmark tag lanes

/-- Does a word wait for every earlier LSU and VLT access of its gang (06 R169, R171, R176, R179)? -/
def isRelease : Instr → Bool
  | .stRel .. | .atom .. | .fence _ | .fenceX .. | .afence .. | .nbarr .. | .tgarr .. | .evsig _ | .dbgmark _ => true
  | _ => false

/-- The next operation of a gang: `f` of its tag, with its place in the order of issue, its clock, which a release advances, and whether a data
fault was held then (01 R19, R46; 09 R270); its destinations are pending. -/
def Gang.newOp (x : Gang) (now : Nat) (f : Nat → Op) (regs : List PReg) (lanes : DWord) : Gang :=
  let t := x.nextTag
  { x.mark t regs lanes with
    ops := x.ops ++ [{ f t with born := 4 * now + x.quarter, late := x.faulted, clk := x.clk }]
    clk := if isRelease (f t).i then x.clk + 1 else x.clk
    nextTag := t + 1 }

/-- The flags of an asynchronous operation that completes are ORed into FLAGS, and into what a WRSR that was issued before will write
(01 R25). -/
def Gang.addFlags (x : Gang) (f : BitVec 7) : Gang :=
  { x with
    flags := x.flags ||| f.setWidth 32
    wb := x.wb.map fun e => { e with writes := e.writes.map fun w => match w with
      | .flags v => .flags (v ||| f.setWidth 32)
      | w => w } }

/-- Adds an operation to a gang (01 R45). -/
def State.addOp (s : State) (g : Nat) (f : Nat → Op) (regs : List PReg) (lanes : DWord) : State :=
  s.modGang g fun x => x.newOp s.now f regs lanes

/-- Changes an operation of a gang. -/
def State.modOp (s : State) (g tag : Nat) (f : Op → Op) : State :=
  s.modGang g fun x => { x with ops := x.ops.map fun o => if o.tag = tag then f o else o }
/-- Removes an operation. -/
def State.dropOp (s : State) (g tag : Nat) : State :=
  s.modGang g fun x => { x with ops := x.ops.filter fun o => o.tag != tag }
/-- An operation by its tag. -/
def State.op? (s : State) (g tag : Nat) : Option Op := (s.gang g).ops.find? fun o => o.tag == tag

/-- Entries of the operand log in use (01 R45). -/
def Gang.logUsed (x : Gang) : Nat := (x.ops.filter fun o => o.logged).length

/-- The result of a variable-latency word that writes whole registers: they are pending, the word takes a log entry, and the result
arrives in cycle `due` (01 R41, R45). -/
def State.oweAt (s : State) (c : Cursor) (i : Instr) (regs : List PReg) (ws : List Write) (due : Nat) (x : DWord := 0) : State :=
  let lanes := BitVec.allOnes 64
  s.modGang c.gang fun y =>
    { y.newOp s.now (fun t => { tag := t, pc := c.pc, slot := c.slot, i := i, lanes := lanes, logged := true, x := x }) regs lanes with
      arr := y.arr ++ [(due, y.nextTag, ws)] }

/-- A variable-latency result of fixed content that arrives in bounded time (01 R477): after one cycle and the next entry of `lag`. -/
def State.owe (s : State) (c : Cursor) (i : Instr) (regs : List PReg) (ws : List Write) (x : DWord := 0) : State :=
  let (d, s) := s.popLag
  s.oweAt c i regs ws (s.now + 1 + d) x

/-! ## Traps (00 R13, 07 R231) -/

/-- A trap: cause, INFO, CODE, slot and lane mask. -/
structure Trap where
  cause : Nat
  info : Nat := 0
  code : Nat := 0
  slot : Nat := 0
  mask : DWord := 0
  deriving DecidableEq, Repr

/-- TSTAT of a trap (07 R231). -/
def Trap.tstat (t : Trap) : DWord := pack [(0, t.cause), (8, t.slot), (16, t.code), (32, t.info)]

/-- A gang stops for system software at packet `pc`: TSTAT, TPC and TMASK are written, and what is left of the packet is kept
(00 R13, 01 R48, 07 R231).  Results in flight land in their cycles. -/
def State.stopGang (s : State) (g : Nat) (tstat mask : DWord) (pc : PAddr) (rest : Option Cursor) : State :=
  let s := s.modGang g fun x =>
    { x with tstat := tstat, tpc := pcAddr pc, tmask := mask, stop := some .software, resume := rest, parked := false
             trapNext := none }
  s.service (s.gang g).tenant

/-- The cause of a data fault (07 R231). -/
def FaultKind.cause : FaultKind → Nat
  | .page => 10
  | .vaultBusy => 5
  | .mmx => 9
  | .uncorrectable => 15

/-- Lanes of an operation are held by a fault.  Its lanes may be held by faults of several kinds: a page fault is met first, the others after it
(09 R271). -/
def Op.hold (o : Op) (k : FaultKind) (lanes : DWord) : Op :=
  let more (k : FaultKind) (m : DWord) : List (FaultKind × DWord) :=
    (o.also.filter fun p => p.1 != k) ++ [(k, m ||| (o.also.lookup k).getD 0)]
  match o.fault with
  | none => { o with fault := some k, held := lanes }
  | some f =>
    if f = k then { o with held := o.held ||| lanes }
    else if k = .page then { o with fault := some k, held := lanes, also := more f o.held }
    else { o with also := more k lanes }

/-- The fault that an operation meets when no lane is held by the present one any more. -/
def Op.nextFault (o : Op) (held : DWord) : Op :=
  if held ≠ 0 then { o with held := held }
  else match o.also with
    | [] => { o with fault := none, held := 0 }
    | p :: r => { o with fault := some p.1, held := p.2, also := r }

/-- THE STOP POINT of a data fault (01 R46): the gang stops with the oldest held operation that faulted in its trap
registers, or waits there while its page request is outstanding (16 R396). -/
def State.stopPoint (s : State) (g : Nat) (pc : PAddr) (rest : Option Cursor) : State :=
  match (s.gang g).ops.find? fun o => o.fault.isSome with
  | none => s.modGang g fun x =>
      { x with faulted := false, stopNext := false, parked := x.stopNext && !x.pend.isEmpty, resume := rest }
  | some o =>
    let k := o.fault.getD .page
    let t : Trap := { cause := FaultKind.cause k, slot := o.slot }
    if k = .page ∧ !o.refused then
      s.modGang g fun x => { x with stop := some .fault, resume := rest, tstat := t.tstat, tpc := pcAddr pc, tmask := o.held }
    else s.stopGang g t.tstat o.held pc rest

/-- A PRECISE TRAP at packet `pc` (00 R13).  A packet that raises one is a stop point of a data fault that is held (01 R46): the gang then
stops for the fault, and meets the trap again when it is resumed. -/
def State.stopPrecise (s : State) (g : Nat) (t : Trap) (pc : PAddr) (rest : Option Cursor) : State :=
  if (s.gang g).faulted then s.stopPoint g pc rest else s.stopGang g t.tstat t.mask pc rest

/-- TAKING A TRAP at the word that issues (00 R13): the groups before this one stand; this group and the later ones are kept
for the resume. -/
def State.takeTrap (s : State) (c : Cursor) (t : Trap) : State :=
  ({ s with cur := none }).stopPrecise c.gang t c.pc (some { c with words := [], groups := c.group :: c.groups })

/-- The subgang at packet `pc` has the next turn (01 R47: a gang goes on at its stop PC). -/
def Gang.backTo (x : Gang) (pc : PAddr) : Gang :=
  match (List.range x.slices.length).find? fun k => (sliceAt x.slices k).live && !(sliceAt x.slices k).wait && (sliceAt x.slices k).pc == pc with
  | some 0 => { x with lastSlice := 63 }
  | some (k + 1) => { x with lastSlice := k }
  | none => x

/-- RETURN FROM A STOP (01 R47, 07 R232): the gang goes on at its stop packet; a gang that was parked after a switch packet parks again
until its re-issued operations return. -/
def State.leaveStop (s : State) (g : Nat) : State :=
  s.modGang g fun y =>
    let x := y.backTo (addrPc y.tpc)
    { x with stop := none, faulted := false, stopNext := false
             parked := !x.pend.isEmpty && x.stopNext
             ops := x.ops.map fun o => { o with fault := none, held := 0, also := [], refused := false
                                                acc := o.acc.map fun l => if l.st = .held then { l with st := .xlat } else l } }

end Sys2Proof.Machine
end

