-- ==== Sys2Proof/Machine/Operands.lean ====
section
/-! DEFINITION. Operand values (01 R18; 03 R79 to R85; 04 R99, R110, R112), and the registers that a word names (01 R42). -/

namespace Sys2Proof.Machine

open Sys2Proof

/-- The linear index and coordinates of a crew in its launch's grid (15 R369). -/
def State.crewXYZ (s : State) (u : Nat) : Nat × Nat × Nat :=
  let cr := s.crew u
  let l6 := ((s.launch cr.lent).words[6]?).getD 0
  let gx := bits l6 16 16
  let gy := bits l6 32 16
  (cr.idx % gx, cr.idx / gx % gy, cr.idx / (gx * gy))

/-- The 64-bit value of a special (01 R18); LANE and SLICEID are those of the lane. -/
def State.special (s : State) (g lane : Nat) (x : Special) : DWord :=
  let u := (s.gang g).crew
  match x with
  | .lane => BitVec.ofNat 64 lane
  | .sliceid => BitVec.ofNat 64 (lane / 4)
  | .gangid => BitVec.ofNat 64 (s.gang g).gid
  | .crewid => BitVec.ofNat 64 (s.crew u).idx
  | .crewx => BitVec.ofNat 64 (s.crewXYZ u).1
  | .crewy => BitVec.ofNat 64 (s.crewXYZ u).2.1
  | .crewz => BitVec.ofNat 64 (s.crewXYZ u).2.2
  | .clock => BitVec.ofNat 64 s.now

/-- Integer inline constants (03 R81). -/
def Inline.int64 : Inline → DWord
  | .zero => 0
  | .one => 1
  | .mone => BitVec.allOnes 64
  | .two => 2
  | .half => 0
  | .mhalf => 0

/-- FP32 inline constants (03 R81). -/
def Inline.f32 : Inline → Word
  | .zero => 0
  | .one => 0x3F800000
  | .mone => 0xBF800000
  | .two => 0x40000000
  | .half => 0x3F000000
  | .mhalf => 0xBF000000

/-- FP16 pair inline constants (03 R81). -/
def Inline.f16 : Inline → Word
  | .zero => 0
  | .one => 0x3C003C00
  | .mone => 0xBC00BC00
  | .two => 0x40004000
  | .half => 0x38003800
  | .mhalf => 0xB800B800

/-- BF16 pair inline constants (03 R81). -/
def Inline.bf16 : Inline → Word
  | .zero => 0
  | .one => 0x3F803F80
  | .mone => 0xBF80BF80
  | .two => 0x40004000
  | .half => 0x3F003F00
  | .mhalf => 0xBF00BF00

/-- E4M3 quads (03 R81). -/
def Inline.e4m3 : Inline → Word
  | .zero => 0
  | .one => 0x38383838
  | .mone => 0xB8B8B8B8
  | .two => 0x40404040
  | .half => 0x30303030
  | .mhalf => 0xB0B0B0B0

/-- E5M2 quads (03 R81). -/
def Inline.e5m2 : Inline → Word
  | .zero => 0
  | .one => 0x3C3C3C3C
  | .mone => 0xBCBCBCBC
  | .two => 0x40404040
  | .half => 0x38383838
  | .mhalf => 0xB8B8B8B8

/-- INT8 quads (03 R81: the INT8 constant in each byte). -/
def Inline.i8 : Inline → Word
  | .zero => 0
  | .one => 0x01010101
  | .mone => 0xFFFFFFFF
  | .two => 0x02020202
  | .half => 0
  | .mhalf => 0

/-- A 32-bit operand of a lane (03 R82); `cst` gives the inline constants their type. -/
def State.readW (s : State) (c : Cursor) (cst : Inline → Word) (x : Src) (lane : Nat) : Word :=
  match x with
  | .v r => (s.gang c.gang).vreg r.val lane
  | .s r => ((s.gang c.gang).sreg r.val).setWidth 32
  | .sp y => (s.special c.gang lane y).setWidth 32
  | .lit => c.raw
  | .plit => c.lit
  | .cst k => cst k

/-- Integer inline constants as 32-bit values. -/
def Inline.int32 (k : Inline) : Word := (Inline.int64 k).setWidth 32

/-- A 32-bit integer operand. -/
def State.readI (s : State) (c : Cursor) (x : Src) (lane : Nat) : Word := s.readW c Inline.int32 x lane

/-- A 64-bit operand of a lane: an even-odd pair, a whole S register, a literal extended by the type's sign, the 32-bit value of a
special zero-extended (01 R18, 03 R82, 04 R99). -/
def State.readD (s : State) (c : Cursor) (sgn : Bool) (x : Src) (lane : Nat) : DWord :=
  let ext (w : Word) : DWord := if sgn then w.signExtend 64 else w.setWidth 64
  match x with
  | .v r => (s.gang c.gang).vreg (r.val + 1) lane ++ (s.gang c.gang).vreg r.val lane
  | .s r => (s.gang c.gang).sreg r.val
  | .sp y => ((s.special c.gang lane y).setWidth 32).setWidth 64
  | .lit => ext c.raw
  | .plit => ext c.lit
  | .cst k => Inline.int64 k

/-- The lane whose LANE and SLICEID a scalar operand reads.  DESIGN CHOICE (log entry 3): 01 R18 and 04 R110 do not say which; the model takes
the lowest lane of the lowest slice of the issuing subgang. -/
def Cursor.lowLane (c : Cursor) : Nat := 4 * (c.slices.headD 0)

/-- A 64-bit scalar operand (04 R110): literals sign-extended. -/
def State.readS (s : State) (c : Cursor) (x : Src) : DWord :=
  match x with
  | .v _ => 0
  | .s r => (s.gang c.gang).sreg r.val
  | .sp y => s.special c.gang c.lowLane y
  | .lit => c.raw.signExtend 64
  | .plit => c.lit.signExtend 64
  | .cst k => Inline.int64 k

/-- An engine operand (07 R198, R206): literals zero-extended. -/
def State.readO (s : State) (c : Cursor) (x : Src) : DWord :=
  match x with
  | .v _ => 0
  | .s r => (s.gang c.gang).sreg r.val
  | .sp y => s.special c.gang c.lowLane y
  | .lit => c.raw.setWidth 64
  | .plit => c.lit.setWidth 64
  | .cst k => Inline.int64 k

/-! ## Registers that a word names (01 R42) -/

/-- `n` V registers from `r`. -/
def vGroup (n r : Nat) : List PReg := (List.range n).map fun k => .v (r + k)

/-- The registers of an operand that reads `n` V registers. -/
def srcRegs (n : Nat) : Src → List PReg
  | .v r => vGroup n r.val
  | .s r => [.s r.val]
  | .sp _ => []
  | .lit => []
  | .plit => []
  | .cst _ => []

/-- V registers of a 64-bit or 32-bit form. -/
def wide (w : Bool) : Nat := if w then 2 else 1

/-- Every register that a word reads or writes. -/
def instrRegs : Instr → List PReg
  | .iadd ty d a b => vGroup (wide ty.wide) d.val ++ srcRegs (wide ty.wide) a ++ srcRegs (wide ty.wide) b
  | .isub ty d a b => vGroup (wide ty.wide) d.val ++ srcRegs (wide ty.wide) a ++ srcRegs (wide ty.wide) b
  | .imul _ _ d a b => .v d.val :: srcRegs 1 a ++ srcRegs 1 b
  | .imad _ d a b => .v d.val :: srcRegs 1 a ++ srcRegs 1 b
  | .idiv _ d a b => .v d.val :: srcRegs 1 a ++ srcRegs 1 b
  | .irem _ d a b => .v d.val :: srcRegs 1 a ++ srcRegs 1 b
  | .movi d _ => [.v d.val]
  | .imin _ d a b => .v d.val :: srcRegs 1 a ++ srcRegs 1 b
  | .imax _ d a b => .v d.val :: srcRegs 1 a ++ srcRegs 1 b
  | .iabs d a => .v d.val :: srcRegs 1 a
  | .ineg d a => .v d.val :: srcRegs 1 a
  | .brev d a => .v d.val :: srcRegs 1 a
  | .icmp _ ty k a b => .k k.val :: srcRegs (wide ty.wide) a ++ srcRegs (wide ty.wide) b
  | .and d a b => .v d.val :: srcRegs 1 a ++ srcRegs 1 b
  | .or d a b => .v d.val :: srcRegs 1 a ++ srcRegs 1 b
  | .xor d a b => .v d.val :: srcRegs 1 a ++ srcRegs 1 b
  | .andn d a b => .v d.val :: srcRegs 1 a ++ srcRegs 1 b
  | .not d a => .v d.val :: srcRegs 1 a
  | .popc d a => .v d.val :: srcRegs 1 a
  | .clz d a => .v d.val :: srcRegs 1 a
  | .ctz d a => .v d.val :: srcRegs 1 a
  | .shl d a b => .v d.val :: srcRegs 1 a ++ srcRegs 1 b
  | .shr d a b => .v d.val :: srcRegs 1 a ++ srcRegs 1 b
  | .sar d a b => .v d.val :: srcRegs 1 a ++ srcRegs 1 b
  | .rot d a b => .v d.val :: srcRegs 1 a ++ srcRegs 1 b
  | .bfe _ d a b => .v d.val :: srcRegs 1 a ++ srcRegs 1 b
  | .bfi d a b => .v d.val :: srcRegs 1 a ++ srcRegs 1 b
  | .sel k d a b => .k k.val :: .v d.val :: srcRegs 1 a ++ srcRegs 1 b
  | .mov w d a => vGroup (wide w) d.val ++ srcRegs (wide w) a
  | .sadd d a b => .s d.val :: srcRegs 1 a ++ srcRegs 1 b
  | .ssub d a b => .s d.val :: srcRegs 1 a ++ srcRegs 1 b
  | .sand d a b => .s d.val :: srcRegs 1 a ++ srcRegs 1 b
  | .sor d a b => .s d.val :: srcRegs 1 a ++ srcRegs 1 b
  | .sshl d a b => .s d.val :: srcRegs 1 a ++ srcRegs 1 b
  | .sshr d a b => .s d.val :: srcRegs 1 a ++ srcRegs 1 b
  | .smul d a b => .s d.val :: srcRegs 1 a ++ srcRegs 1 b
  | .scmp _ d a b => .s d.val :: srcRegs 1 a ++ srcRegs 1 b
  | .movs (.toS d a) => [.s d.val, .v a.val]
  | .movs (.toV d a) => [.v d.val, .s a.val]
  | .adda d a b => .a d.val :: .a a.val :: srcRegs 1 b
  | .lea _ d a b => .a d.val :: .a a.val :: srcRegs 1 b
  | .mova (.a d a b) => .a d.val :: .a a.val :: srcRegs 1 b
  | .mova (.lo d a) => [.s d.val, .a a.val]
  | .mova (.hi d a) => [.s d.val, .a a.val]
  | .kand d a b => [.k d.val, .k a.val, .k b.val]
  | .kor d a b => [.k d.val, .k a.val, .k b.val]
  | .knot d a => [.k d.val, .k a.val]
  | .kpop d a => [.s d.val, .k a.val]
  | .setx a => [.k a.val]
  | .getx d => [.k d.val]
  | .brk _ k _ => [.k k.val]
  | .brs _ a _ => [.s a.val]
  | .jmp a => [.a a.val]
  | .callIndirect d a => [.a d.val, .a a.val]
  | .ret a => [.a a.val]
  | .call _ => [.a 15]
  | .loop a _ => [.s a.val]
  | .fadd _ d a b => .v d.val :: srcRegs 1 a ++ srcRegs 1 b
  | .fsub _ d a b => .v d.val :: srcRegs 1 a ++ srcRegs 1 b
  | .fmul _ d a b => .v d.val :: srcRegs 1 a ++ srcRegs 1 b
  | .ffma _ d a b => .v d.val :: srcRegs 1 a ++ srcRegs 1 b
  | .fmin _ d a b => .v d.val :: srcRegs 1 a ++ srcRegs 1 b
  | .fmax _ d a b => .v d.val :: srcRegs 1 a ++ srcRegs 1 b
  | .fcmp _ _ k a b => .k k.val :: srcRegs 1 a ++ srcRegs 1 b
  | .fclass _ d a => .v d.val :: srcRegs 1 a
  | .frnd _ d a => .v d.val :: srcRegs 1 a
  | .hadd2 _ _ d a b => .v d.val :: srcRegs 1 a ++ srcRegs 1 b
  | .hmul2 _ _ d a b => .v d.val :: srcRegs 1 a ++ srcRegs 1 b
  | .hfma2 _ _ d a b => .v d.val :: srcRegs 1 a ++ srcRegs 1 b
  | .dot4F8 _ _ d a b => .v d.val :: srcRegs 1 a ++ srcRegs 1 b
  | .dot4I8 _ _ d a b => .v d.val :: srcRegs 1 a ++ srcRegs 1 b
  | .cvtFromFloat _ dst _ d a => vGroup (wide dst.is64) d.val ++ srcRegs 1 a
  | .cvtFromInt _ dst src d a => vGroup (wide dst.is64) d.val ++ srcRegs (wide src.is64) a
  | .rcp _ d a => .v d.val :: srcRegs 1 a
  | .rsq _ d a => .v d.val :: srcRegs 1 a
  | .sqrt _ d a => .v d.val :: srcRegs 1 a
  | .log2 _ d a => .v d.val :: srcRegs 1 a
  | .exp2 _ d a => .v d.val :: srcRegs 1 a
  | .sin _ d a => .v d.val :: srcRegs 1 a
  | .cos _ d a => .v d.val :: srcRegs 1 a
  | .expr _ d a b c e _ => .v d.val :: srcRegs 1 a ++ srcRegs 1 b ++ srcRegs 1 c ++ srcRegs 1 e
  | .shfl _ d a b => .v d.val :: .v a.val :: srcRegs 1 b
  | .bcast d a b => .v d.val :: .v a.val :: srcRegs 1 b
  | .perm d a b => .v d.val :: .v a.val :: srcRegs 1 b
  | .ballot k a => [.k k.val, .v a.val]
  | .vote _ k a => [.k k.val, .v a.val]
  | .scan _ _ _ d a => [.v d.val, .v a.val]
  | .reduce _ _ (.v d) a => [.v d.val, .v a.val]
  | .reduce _ _ (.s d) a => [.s d.val, .v a.val]
  | .ld sz _ d o ba => vGroup sz.regs d.val ++ srcRegs 1 o ++ [.a ba.val]
  | .st sz _ d o ba => srcRegs sz.regs d ++ srcRegs 1 o ++ [.a ba.val]
  | .ldg sz _ d o ba => vGroup sz.regs d.val ++ srcRegs 2 o ++ [.a ba.val]
  | .stg sz _ d o ba => srcRegs sz.regs d ++ srcRegs 2 o ++ [.a ba.val]
  | .ldAcq w _ d o ba => vGroup (wide w) d.val ++ srcRegs 1 o ++ [.a ba.val]
  | .stRel w _ d o ba => srcRegs (wide w) d ++ srcRegs 1 o ++ [.a ba.val]
  | .atom op _ d o ba => vGroup op.regs d.val ++ srcRegs 1 o ++ [.a ba.val]
  | .pref _ o ba => srcRegs 1 o ++ [.a ba.val]
  | .ldv sz d o ba => vGroup sz.regs d.val ++ srcRegs 1 o ++ [.s ba.val]
  | .stv sz d o ba => srcRegs sz.regs d ++ srcRegs 1 o ++ [.s ba.val]
  | .atomv op d o ba => vGroup (wide (op == .cas)) d.val ++ srcRegs 1 o ++ [.s ba.val]
  | .afence _ ax ay => [.a ax.val, .a ay.val]
  | .nbinit _ n => srcRegs 1 n
  | .nbarr d _ => [.s d.val]
  | .nbwait d _ => [.s d.val]
  | .tgarr d g => .s d.val :: srcRegs 1 g
  | .tgwait d g => .s d.val :: srcRegs 1 g
  | .tgjoin g => srcRegs 1 g
  | .tgleave g => srcRegs 1 g
  | .evsig e => srcRegs 1 e
  | .evwait d e => .s d.val :: srcRegs 1 e
  | .evtest d e => .s d.val :: srcRegs 1 e
  | .qbind _ x => srcRegs 1 x
  | .qpush _ v => vGroup 4 v.val
  | .qpop d _ => vGroup 4 d.val
  | .qpeek d _ => vGroup 4 d.val
  | .qdepth d _ => [.s d.val]
  | .shape h sk => .h h.val :: (List.range 4).map fun k => .s (sk.val + k)
  | .copy _ _ h r _ => .h h.val :: srcRegs 1 r
  | .copyCsr h r _ => .h h.val :: srcRegs 1 r
  | .copyPlane _ _ h r _ => .h h.val :: srcRegs 1 r
  | .copyQ h r _ => .h h.val :: srcRegs 1 r
  | .cpstat d h => [.s d.val, .h h.val]
  | .mma t ha hb => [.t t.val, .h ha.val, .h hb.val]
  | .mmaI t ha hb => [.t t.val, .h ha.val, .h hb.val]
  | .mmaAd t ha hb sv => [.t t.val, .h ha.val, .h hb.val, .s sv.val]
  | .mmaQ t _ hb x => .t t.val :: .h hb.val :: srcRegs 1 x
  | .macq t => [.t t.val]
  | .mrel t => [.t t.val]
  | .mlda d t p => .t t.val :: vGroup 4 d.val ++ srcRegs 1 p
  | .msta v t p => .t t.val :: vGroup 4 v.val ++ srcRegs 1 p
  | .mclr t => [.t t.val]
  | .adinv x => srcRegs 1 x
  | .islpush _ _ v x => vGroup 4 v.val ++ srcRegs 1 x
  | .islrecv d _ x => .s d.val :: srcRegs 1 x
  | .islstat d x => .s d.val :: srcRegs 1 x
  | .rdsr d _ => [.s d.val]
  | .wrsr _ x => srcRegs 1 x
  | .sleep a => srcRegs 1 a
  | .getinfo d a => .s d.val :: srcRegs 1 a
  | .packetDecode .. | .resultWriteback .. | .variableResultArrival .. | .switchParkEnd .. | .dataFault ..
  | .gangResume .. | .br .. | .join .. | .towpathRequestArrival .. | .fence .. | .fenceX .. | .nbwaitComplete ..
  | .tgwaitComplete .. | .eventOverflowOperation .. | .qpopRecordArrival .. | .copyqRecordDelivery ..
  | .copyComplete .. | .followOnIssue .. | .passStart .. | .passEnd .. | .layerFail .. | .stagingRecordMove ..
  | .adapterFillComplete .. | .matrixComplete .. | .macqComplete .. | .islrecvComplete .. | .trap .. | .brkpt ..
  | .dbgmark .. | .sleepExpiry .. | .gets .. | .upgo .. | .upgs .. | .upgn .. | .wbmo .. | .wbmx .. | .wbc ..
  | .wrt .. | .renew .. | .invack .. | .invackl .. | .fwdack .. | .fwdackx .. | .rcldata .. | .rclack ..
  | .requestRetry .. | .noncachingRequest .. | .datas .. | .datae .. | .datam .. | .upgack .. | .wback .. | .inv ..
  | .fwds .. | .fwdx .. | .recall .. | .update .. | .renack .. | .rebase .. | .rebaseAnswer .. | .nak ..
  | .leaseFlushTimer .. | .selfRefreshEntry .. | .hostReadShared .. | .hostReadOwn .. | .memrd .. | .memwr ..
  | .qtail .. | .qprogWrite .. | .qdWrite .. | .switchOut .. | .switchIn .. | .cancel .. | .cancelTimeout ..
  | .rootWrite .. | .tlbInvalidate .. | .tlbInvalidateComplete .. | .imgflush .. | .trbaseWrite .. | .cecntClear ..
  | .registerWrite .. | .recordIntake .. | .launchStart .. | .starvationExpiry .. | .bindPost .. | .bindAccept ..
  | .clusterReserve .. | .clusterBackoffExpiry .. | .crewRetire .. | .pageWalk .. | .pageResponse ..
  | .swapoutTimer .. | .vacate .. | .crewSaveComplete .. | .crewRestore .. | .borrowCommand ..
  | .borrowRestoreComplete .. | .islandRecordEntry .. | .islandRecordExit .. | .i1ImageLoad ..
  | .i1ImageLoadComplete .. | .ingressSignal .. | .hostWriteback .. | .hostDropHalf .. | .birsp .. | .hostSnoop ..
  | .msixVectorUnmask .. | .peerWrite .. | .peerRead .. | .getCertificate .. | .challenge .. | .getMeasurements ..
  | .nop | .endl | .regang | .yield | .exit | .endGang | .halt | .ingressPerst | .tcreate | .tdestroy | .coremask
  | .rtset | .coresp | .scgran | .tidealloc | .tideisl | .pin | .unpin | .tabload | .rangewr | .wload | .wgrant
  | .pgretire | .measext | .starve | .invalidCommand | .commandEnd | .getVersion | .getCapabilities
  | .negotiateAlgorithms | .getDigests | .reset | .brownOut | .scrub => []

/-- The operand fields of a word that may name LIT or PLIT. -/
def instrSrcs : Instr → List Src
  | .iadd _ _ a b | .isub _ _ a b | .imul _ _ _ a b | .imad _ _ a b | .idiv _ _ a b | .irem _ _ a b => [a, b]
  | .imin _ _ a b | .imax _ _ a b | .icmp _ _ _ a b | .and _ a b | .or _ a b | .xor _ a b | .andn _ a b => [a, b]
  | .iabs _ a | .ineg _ a | .brev _ a | .not _ a | .popc _ a | .clz _ a | .ctz _ a | .mov _ _ a => [a]
  | .shl _ a b | .shr _ a b | .sar _ a b | .rot _ a b | .bfe _ _ a b | .bfi _ a b | .sel _ _ a b => [a, b]
  | .sadd _ a b | .ssub _ a b | .sand _ a b | .sor _ a b | .sshl _ a b | .sshr _ a b | .smul _ a b | .scmp _ _ a b => [a, b]
  | .adda _ _ b | .lea _ _ _ b | .mova (.a _ _ b) => [b]
  | .fadd _ _ a b | .fsub _ _ a b | .fmul _ _ a b | .ffma _ _ a b | .fmin _ _ a b | .fmax _ _ a b => [a, b]
  | .fcmp _ _ _ a b | .hadd2 _ _ _ a b | .hmul2 _ _ _ a b | .hfma2 _ _ _ a b | .dot4F8 _ _ _ a b | .dot4I8 _ _ _ a b => [a, b]
  | .fclass _ _ a | .frnd _ _ a | .cvtFromFloat _ _ _ _ a | .cvtFromInt _ _ _ _ a => [a]
  | .rcp _ _ a | .rsq _ _ a | .sqrt _ _ a | .log2 _ _ a | .exp2 _ _ a | .sin _ _ a | .cos _ _ a => [a]
  | .shfl _ _ _ b | .bcast _ _ b | .perm _ _ b => [b]
  | .ld _ _ _ o _ | .ldg _ _ _ o _ | .ldAcq _ _ _ o _ | .atom _ _ _ o _ | .pref _ o _ | .ldv _ _ o _ | .atomv _ _ o _ => [o]
  | .st _ _ d o _ | .stg _ _ d o _ | .stRel _ _ d o _ | .stv _ d o _ => [d, o]
  | .nbinit _ x | .tgarr _ x | .tgwait _ x | .tgjoin x | .tgleave x | .evsig x | .evwait _ x | .evtest _ x | .qbind _ x => [x]
  | .copy _ _ _ x _ | .copyCsr _ x _ | .copyPlane _ _ _ x _ | .copyQ _ x _ | .mmaQ _ _ _ x | .mlda _ _ x | .msta _ _ x => [x]
  | .adinv x | .islpush _ _ _ x | .islrecv _ _ x | .islstat _ x | .wrsr _ x | .sleep x | .getinfo _ x => [x]
  | _ => []

/-- Words that raise PENDING with no active lane: scalar, address, mask and control words, the words of 0x58 to 0x5A and
the engine words (01 R42). -/
def instrAnyExec : Instr → Bool
  | .sadd .. | .ssub .. | .sand .. | .sor .. | .sshl .. | .sshr .. | .smul .. | .scmp .. => true
  | .adda .. | .lea .. | .mova _ => true
  | .kand .. | .kor .. | .knot .. | .kpop .. | .setx _ | .getx _ => true
  | .br _ | .brk .. | .brs .. | .jmp _ | .callIndirect .. | .ret _ | .call _ | .loop .. | .endl | .join _ | .regang
  | .yield | .exit => true
  | .nbinit .. | .nbarr .. | .nbwait .. | .tgarr .. | .tgwait .. | .tgjoin _ | .tgleave _ | .evsig _ | .evwait ..
  | .evtest .. => true
  | .shape .. | .copy .. | .copyCsr .. | .copyPlane .. | .copyQ .. | .cpstat .. | .mma .. | .mmaI .. | .mmaAd .. | .mmaQ ..
  | .macq _ | .mrel _ | .mlda .. | .msta .. | .mclr _ | .adinv _ | .islpush .. | .islrecv .. | .islstat .. => true
  | _ => false

/-- The lanes of a pending register that a word meets: none means no trap (01 R42).  Marks that the word's own chain group
made do not count: a reader in the producer's own group receives the old value (01 R44).  DESIGN CHOICE (log entry 4): the same holds for a
word that WRITES a register which a lower slot of its group has made pending, of which 01 R42 and R44 say nothing; the variable result
then comes later and is the one that stays. -/
def pendingLanes (x : Gang) (tag0 : Nat) (act : DWord) (r : PReg) : Option DWord :=
  let ps := x.pend.filter fun p => p.reg == r && p.tag < tag0
  match r with
  | .v _ =>
    let m := ps.foldl (fun m p => m ||| p.lanes) 0 &&& act
    if m = 0 then none else some m
  | _ => if ps.isEmpty then none else some act

/-- The source lane of SHFL; none beyond the ends of the gang (05 R153). -/
def shflLane (m : ShflMode) (w n l : Nat) : Option Nat :=
  match m with
  | .idx => some (n % w)
  | .xor => some (Nat.xor l (n % w))
  | .up => if l < n then none else some (l - n)
  | .down => if w ≤ l + n then none else some (l + n)

/-- The source lanes of a cross-lane word's reading lane (05 R152 to R155). -/
def State.sourceLanes (s : State) (c : Cursor) (i : Instr) (l : Nat) : List Nat :=
  let w := (s.gang c.gang).width
  match i with
  | .shfl m _ _ b => (shflLane m w (s.readI c b l).toNat l).toList
  | .bcast _ _ b => [(s.readI c b l).toNat % w]
  | .perm _ _ b =>
    (List.range 4).filterMap fun j =>
      let q := (s.readI c b l).toNat / 256 ^ j % 256
      if q < 128 then some (4 * (l / 4) + q % 16 / 4) else none
  | _ => []

/-- The V register that a cross-lane word reads in other lanes. -/
def crossReg : Instr → Option VReg
  | .shfl _ _ a _ => some a
  | .bcast _ a _ => some a
  | .perm _ a _ => some a
  | _ => none

/-- The reading lanes of a cross-lane word whose source lane is in reach and pending (05 R152). -/
def State.crossPending (s : State) (c : Cursor) (i : Instr) : DWord :=
  match crossReg i with
  | none => 0
  | some a =>
    let ps := (s.gang c.gang).pend.filter fun p => p.reg == .v a.val && p.tag < c.tag0
    let m := ps.foldl (fun m p => m ||| p.lanes) (0 : DWord)
    if m = 0 then 0
    else laneBits ((s.lanes c).filter fun l => (s.sourceLanes c i l).any fun q => c.slices.contains (q / 4) && m.getLsbD q)

/-- PENDING (01 R42): the lanes reported, or none where the word proceeds. -/
def State.pendingTrap (s : State) (c : Cursor) (i : Instr) : Option DWord :=
  let x := s.gang c.gang
  let act := laneBits (s.lanes c)
  let cross := s.crossPending c i
  match (instrRegs i).filterMap (pendingLanes x c.tag0 act) with
  | [] => if cross = 0 then none else some cross
  | ms => if instrAnyExec i || act != 0 then some (ms.foldl (· ||| ·) cross) else none

end Sys2Proof.Machine
end

