-- ==== Sys2Proof/Machine/Slices.lean ====
section
/-! DEFINITION. What a control word does to a slice (04 R118 to R131), and the slices of a gang after a packet. -/

namespace Sys2Proof.Machine

open Sys2Proof

/-- A control word: primaries 0x18 to 0x1F (04 R118). -/
def isControl : Instr → Bool
  | .br _ | .brk .. | .brs .. | .jmp _ | .callIndirect .. | .ret _ | .call _ | .loop .. | .endl | .join _ | .regang
  | .yield | .exit => true
  | _ => false

/-- A slice that takes a transfer: its next packet issues no earlier than 2 cycles after the control word of cycle `t` (01 R49, 04 R118). -/
def Slice.goto (k : Slice) (t : Nat) (pc : PAddr) : Slice := { k with pc := pc, ready := t + 2 }

/-- A slice that falls through. -/
def Slice.fall (k : Slice) : Slice := { k with pc := pcPlus k.pc 1 }

/-- A slice at a BRK whose lanes `t` take the branch (04 R122). -/
def Slice.brk (k : Slice) (now : Nat) (target : PAddr) (t : BitVec 4) : Slice :=
  let m := k.mask &&& t
  if k.mask ≠ 0 ∧ m = k.mask then k.goto now target
  else if m = 0 then k.fall
  else { k.goto now target with mask := m, stack := (pcPlus k.pc 1, k.mask &&& ~~~t) :: k.stack }

/-- LOOP in one slice (04 R127). -/
def Slice.loop (k : Slice) (now : Nat) (e : PAddr) (n : Word) : Slice :=
  let fs := k.frames.dropWhile fun f => f.endl == e
  if n = 0 then { k with frames := fs, pc := pcPlus e 1, ready := now + 2 }
  else { k with frames := { start := pcPlus k.pc 1, endl := e, count := n } :: fs.take 3, pc := pcPlus k.pc 1 }

/-- ENDL in one slice (04 R128). -/
def Slice.endl (k : Slice) (now : Nat) : Slice :=
  match k.frames.dropWhile fun f => f.endl != k.pc with
  | [] => { k.fall with frames := [] }
  | f :: r =>
    if f.count - 1 ≠ 0 then { k.goto now f.start with frames := { f with count := f.count - 1 } :: r }
    else { k.fall with frames := r }

/-- JOIN in one slice (04 R129). -/
def Slice.join (k : Slice) (now : Nat) (dist : Nat) : Slice :=
  match k.stack with
  | [] => k.fall
  | (pc, m) :: r =>
    if pc = k.pc then { k.fall with mask := k.mask ||| m, stack := r }
    else if pc = pcPlus k.pc (-(dist : Int)) then
      { k.goto now pc with mask := m, stack := if k.mask ≠ 0 then (k.pc, k.mask) :: r else r }
    else k.fall

/-- A slice that ends (04 R131). -/
def Slice.ended (k : Slice) : Slice := { k with live := false, wait := false, mask := 0, stack := [], frames := [] }

/-- Slice `n` after a packet whose control word, issued in cycle `t`, does this; `act` are the lanes of the subgang that are active when it
takes effect (04 R118, R119).  DESIGN CHOICE (log entry 5): BRK decides by the lanes that are active when it takes effect, after the last
chain group, and by the K register as it was read at issue. -/
def Ctl.apply (a : Ctl) (t : Nat) (act : DWord) (n : Nat) (k : Slice) : Slice :=
  match a with
  | .pass => k.fall
  | .goto pc => k.goto t pc
  | .brs taken pc => if taken then k.goto t pc else k.fall
  | .brk .nz m pc => k.brk t pc ((m >>> (4 * n)).setWidth 4)
  | .brk .z m pc => k.brk t pc ((~~~m >>> (4 * n)).setWidth 4)
  | .brk .any m pc => if m &&& act != 0 then k.goto t pc else k.fall
  | .brk .all m pc => if act &&& ~~~m == 0 then k.goto t pc else k.fall
  | .loop e n => k.loop t e n
  | .endl => k.endl t
  | .join d => k.join t d
  | .regang => { k with wait := true }
  | .yield => k.fall
  | .exit => k.ended

/-- The slices that wait at the lowest REGANG go on when every live slice waits; `t` is the cycle of the word that lets them go (04 R130). -/
def regangRelease (t : Nat) (ss : List Slice) : List Slice :=
  let live := ss.filter fun k => k.live
  if live.isEmpty || !(live.all fun k => k.wait) then ss
  else
    let lo := (live.map fun k => k.pc.toNat).min?.getD 0
    ss.map fun k => if k.live && k.pc.toNat = lo then { k with wait := false, pc := pcPlus k.pc 1, ready := t + 2 } else k

/-- The slices of a gang after a packet: END ends them all (07 R234); else those of the subgang do what the control word says. -/
def Cursor.slicesAfter (c : Cursor) (ss : List Slice) : List Slice :=
  let act := laneBits (activeLanes ss c.slices)
  regangRelease c.actAt ((ss.zipIdx).map fun p =>
    if c.fin then p.1.ended
    else if c.slices.contains p.2 && p.1.live then c.act.apply c.actAt act p.2 p.1
    else p.1)

end Sys2Proof.Machine
end

