-- ==== Sys2Proof/Machine/Tables.lean ====
section
/-! DEFINITION. Protocol tables (10 R277 to R280): the entry format and the shipped tables of R286 to R300. -/

namespace Sys2Proof.Machine

open Sys2Proof

/-! ## Entries (10 R278) -/

def entErr (e : Nat) : Bool := decide (e / 2 ^ 26 % 2 = 1)
def entNext (e : Nat) : Nat := e / 2 ^ 22 % 16
def entRv (e : Nat) : Bool := decide (e / 2 ^ 21 % 2 = 1)
def entResp (e : Nat) : Nat := e / 2 ^ 16 % 32
def entAct (e k : Nat) : Bool := decide (e / 2 ^ k % 2 = 1)

/-- An entry: actions, the message sent, if any, and the next state. -/
def ent (acts : List Nat) (resp : Option Nat) (next : Nat) : Nat :=
  (acts.map fun k => 2 ^ k).sum + (match resp with
    | some r => 2 ^ 21 + r * 2 ^ 16
    | none => 0) + next * 2 ^ 22

/-- The error entry, which an unlisted pair reads as. -/
def entError : Nat := 2 ^ 26

/-! ## Message codes (10 R280); 20, 22 and 26 stand for UPG, WBM and INVACK before their classification -/

def mLD : Nat := 0
def mST : Nat := 1
def mEVICT : Nat := 2
def mDATAS : Nat := 3
def mDATAE : Nat := 4
def mDATAM : Nat := 5
def mUPGACK : Nat := 6
def mWBACK : Nat := 7
def mINV : Nat := 8
def mFWDS : Nat := 9
def mFWDX : Nat := 10
def mRECALL : Nat := 11
def mUPDATE : Nat := 12
def mRENACK : Nat := 13
def mREBASE : Nat := 14
def mNAK : Nat := 15
def mGETS : Nat := 16
def mGETX : Nat := 17
def mUPGO : Nat := 18
def mUPGS : Nat := 19
def mUPGN : Nat := 20
def mWBMO : Nat := 21
def mWBMX : Nat := 22
def mWBC : Nat := 23
def mWRT : Nat := 24
def mRENEW : Nat := 25
def mINVACK : Nat := 26
def mINVACKL : Nat := 27
def mFWDACK : Nat := 28
def mFWDACKX : Nat := 29
def mRCLDATA : Nat := 30
def mRCLACK : Nat := 31
/-- A non-caching request (10 R285), an answer of a rebase (10 R298), a towpath request (08 R243): outside the tables. -/
def mNC : Nat := 32
def mREBANS : Nat := 33
def mTOW : Nat := 34

/-! ## Rows as (state, message, entry) -/

/-- A table as a map from 32 s + m to an entry. -/
def tableOf (rows : List (Nat × Nat × Nat)) : Sparse Nat :=
  rows.foldl (fun t r => Sparse.set entError t (32 * r.1 + r.2.1) r.2.2) []

/-- MOESI-INV agent rows (10 R286). -/
def moesiAgent : List (Nat × Nat × Nat) :=
  let own (s : Nat) : List (Nat × Nat × Nat) :=
    [(s, mLD, ent [3] none s), (s, mEVICT, ent [4] (some mWBMX) 7), (s, mFWDS, ent [0] (some mFWDACK) 3),
     (s, mFWDX, ent [0, 2, 5] (some mFWDACKX) 0), (s, mRECALL, ent [5] (some mRCLDATA) 0)]
  [(0, mLD, ent [] (some mGETS) 5), (0, mST, ent [] (some mGETX) 6), (0, mINV, ent [] (some mINVACK) 0),
   (0, mRECALL, ent [] (some mRCLACK) 0),
   (1, mLD, ent [3] none 1), (1, mST, ent [] (some mUPGN) 6), (1, mEVICT, ent [5] (some mWBC) 0),
   (1, mINV, ent [5] (some mINVACK) 0), (1, mRECALL, ent [5] (some mRCLACK) 0)] ++
  own 2 ++ [(2, mST, ent [3] none 4)] ++ own 3 ++ [(3, mST, ent [] (some mUPGN) 6)] ++ own 4 ++ [(4, mST, ent [3] none 4)] ++
  [(5, mLD, ent [10] none 5), (5, mST, ent [10] none 5), (5, mEVICT, ent [10] none 5), (5, mDATAS, ent [1] none 1),
   (5, mDATAE, ent [1] none 2), (5, mDATAM, ent [1] none 4), (5, mINV, ent [] (some mINVACK) 5),
   (6, mLD, ent [10] none 6), (6, mST, ent [10] none 6), (6, mEVICT, ent [10] none 6), (6, mDATAE, ent [1, 3] none 4),
   (6, mDATAM, ent [1, 3] none 4), (6, mUPGACK, ent [3] none 4), (6, mINV, ent [5] (some mINVACK) 6),
   (6, mNAK, ent [5, 6] none 0),
   (7, mLD, ent [10] none 7), (7, mST, ent [10] none 7), (7, mWBACK, ent [5] none 0), (7, mFWDS, ent [0] (some mFWDACKX) 7),
   (7, mFWDX, ent [0, 2] (some mFWDACKX) 7), (7, mRECALL, ent [] (some mRCLDATA) 7)]

/-- A row of STALL entries. -/
def stallRow (s : Nat) (ms : List Nat) : List (Nat × Nat × Nat) := ms.map fun m => (s, m, ent [10] none s)

/-- MOESI-INV home rows (10 R287). -/
def moesiHome : List (Nat × Nat × Nat) :=
  [(8, mGETS, ent [0, 4] (some mDATAE) 10), (8, mGETX, ent [0, 4] (some mDATAE) 10), (8, mUPGN, ent [11] none 8),
   (8, mWBMX, ent [] (some mWBACK) 8), (8, mWBC, ent [3] none 8),
   (9, mGETS, ent [0, 2] (some mDATAS) 9), (9, mGETX, ent [6, 8, 0, 4] (some mDATAE) 10),
   (9, mUPGS, ent [6, 8, 3, 4] (some mUPGACK) 10), (9, mUPGN, ent [11] none 9), (9, mWBMX, ent [] (some mWBACK) 9),
   (9, mWBC, ent [3] none 9),
   (10, mGETS, ent [7] (some mFWDS) 13), (10, mGETX, ent [7] (some mFWDX) 14), (10, mUPGO, ent [] (some mUPGACK) 10),
   (10, mUPGN, ent [11] none 10), (10, mWBMO, ent [1, 5] (some mWBACK) 8), (10, mWBMX, ent [] (some mWBACK) 10),
   (10, mWBC, ent [3] none 10), (10, mWRT, ent [1] none 10),
   (11, mGETS, ent [7] (some mFWDS) 13), (11, mGETX, ent [6, 8, 7] (some mFWDX) 14),
   (11, mUPGO, ent [6, 8] (some mUPGACK) 10), (11, mUPGS, ent [11] none 11), (11, mUPGN, ent [11] none 11),
   (11, mWBMO, ent [1, 5] (some mWBACK) 9), (11, mWBMX, ent [] (some mWBACK) 11), (11, mWBC, ent [3] none 11),
   (11, mWRT, ent [1] none 11)] ++
  stallRow 12 [mGETS, mGETX, mUPGO, mUPGS, mUPGN, mWBMO, mWRT] ++
  [(12, mWBMX, ent [] (some mWBACK) 12), (12, mWBC, ent [3] none 12), (12, mINVACK, ent [] none 12),
   (12, mINVACKL, ent [9] none 12)] ++
  stallRow 13 [mGETS, mGETX, mUPGO, mUPGS, mUPGN, mWRT] ++
  [(13, mWBMO, ent [1, 5] (some mWBACK) 13), (13, mWBMX, ent [] (some mWBACK) 13), (13, mWBC, ent [3] none 13),
   (13, mFWDACK, ent [1, 2] none 11), (13, mFWDACKX, ent [1, 2, 5] none 9)] ++
  stallRow 14 [mGETS, mGETX, mUPGO, mUPGS, mUPGN, mWRT] ++
  [(14, mWBMO, ent [1, 5] (some mWBACK) 14), (14, mWBMX, ent [] (some mWBACK) 14), (14, mWBC, ent [3] none 14),
   (14, mFWDACKX, ent [1, 4] none 10)]

/-- MIG: every GETS entry of the home is that of GETX (10 R289). -/
def migHome : List (Nat × Nat × Nat) :=
  moesiHome.map fun r =>
    if r.2.1 = mGETS then (r.1, mGETS, (((moesiHome.find? fun q => q.1 == r.1 && q.2.1 == mGETX).map fun q => q.2.2).getD r.2.2))
    else r

/-- WONCE home rows (10 R290). -/
def wonceHome : List (Nat × Nat × Nat) :=
  (moesiHome.filter fun r => r.1 ≠ 11 && !(r.1 == 10 && r.2.1 == mWBMO) && !(r.1 == 13 && (r.2.1 == mFWDACK || r.2.1 == mFWDACKX))) ++
  [(10, mWBMO, ent [1, 5, 15] (some mWBACK) 11), (13, mFWDACK, ent [1, 5, 15] none 11), (13, mFWDACKX, ent [1, 5, 15] none 11),
   (11, mGETS, ent [0] (some mDATAS) 11), (11, mGETX, ent [] (some mNAK) 11), (11, mUPGO, ent [] (some mNAK) 11),
   (11, mUPGS, ent [] (some mNAK) 11), (11, mUPGN, ent [] (some mNAK) 11), (11, mWBC, ent [] none 11),
   (11, mWBMX, ent [] (some mWBACK) 11), (11, mWRT, ent [] (some mNAK) 11)]

/-- LEASE (10 R296, R297); the REBASE entries of VD and D flush as R298 says. -/
def leaseRows : List (Nat × Nat × Nat) :=
  [(0, mLD, ent [] (some mGETS) 4), (0, mST, ent [3] none 3), (0, mWBACK, ent [12] none 0), (0, mREBASE, ent [] none 0),
   (1, mLD, ent [] (some mRENEW) 4), (1, mST, ent [3] none 2), (1, mEVICT, ent [5] none 0), (1, mWBACK, ent [12] none 1),
   (1, mREBASE, ent [5] none 0),
   (2, mLD, ent [] (some mRENEW) 5), (2, mST, ent [3] none 2), (2, mEVICT, ent [5] (some mWRT) 0), (2, mWBACK, ent [12] none 2),
   (2, mREBASE, ent [5] (some mWRT) 0),
   (3, mLD, ent [] (some mGETS) 5), (3, mST, ent [3] none 3), (3, mEVICT, ent [] (some mWRT) 0), (3, mWBACK, ent [12] none 3),
   (3, mREBASE, ent [] (some mWRT) 0),
   (4, mLD, ent [10] none 4), (4, mST, ent [3] none 5), (4, mEVICT, ent [10] none 4), (4, mDATAS, ent [1, 13] none 1),
   (4, mRENACK, ent [13] none 1), (4, mWBACK, ent [12] none 4), (4, mREBASE, ent [10] none 4),
   (5, mLD, ent [10] none 5), (5, mST, ent [3] none 5), (5, mEVICT, ent [10] none 5), (5, mDATAS, ent [1, 13] none 2),
   (5, mRENACK, ent [13] none 2), (5, mWBACK, ent [12] none 5), (5, mREBASE, ent [10] none 5),
   (8, mGETS, ent [0, 13] (some mDATAS) 8), (8, mRENEW, ent [13] (some mRENACK) 8), (8, mWRT, ent [1, 12] (some mWBACK) 8)] ++
  stallRow 9 [mGETS, mGETX, mUPGO, mUPGS, mUPGN, mWBMO, mWBMX, mWBC, mWRT, mRENEW]

/-- UPD (10 R300). -/
def updRows : List (Nat × Nat × Nat) :=
  [(0, mLD, ent [] (some mGETS) 5), (0, mST, ent [3] (some mWRT) 0), (0, mINV, ent [] (some mINVACK) 0),
   (0, mRECALL, ent [] (some mRCLACK) 0), (0, mUPDATE, ent [] none 0), (0, mWBACK, ent [] none 0),
   (1, mLD, ent [3] none 1), (1, mST, ent [3] (some mWRT) 1), (1, mEVICT, ent [5] (some mWBC) 0),
   (1, mINV, ent [5] (some mINVACK) 0), (1, mRECALL, ent [5] (some mRCLACK) 0), (1, mUPDATE, ent [1] none 1),
   (1, mWBACK, ent [] none 1),
   (5, mLD, ent [10] none 5), (5, mST, ent [10] none 5), (5, mEVICT, ent [10] none 5), (5, mDATAS, ent [1] none 1),
   (5, mINV, ent [] (some mINVACK) 5), (5, mUPDATE, ent [] none 5), (5, mWBACK, ent [] none 5),
   (8, mGETS, ent [0, 2] (some mDATAS) 9), (8, mWRT, ent [1, 14] (some mWBACK) 8), (8, mWBC, ent [3] none 8),
   (9, mGETS, ent [0, 2] (some mDATAS) 9), (9, mWRT, ent [1, 14] (some mWBACK) 9), (9, mWBC, ent [3] none 9)]

/-- The shipped tables (10 R277): slot and table. -/
def shippedTables : List (Nat × Sparse Nat) :=
  [(0, tableOf leaseRows), (1, tableOf (moesiAgent ++ moesiHome)), (2, tableOf updRows), (3, tableOf (moesiAgent ++ migHome)),
   (4, tableOf (moesiAgent ++ wonceHome))]

/-- How agents treat the lines of a table: LEASE, writes sent through (UPD and loaded tables with MULTIW), or owned lines. -/
inductive Kind where
  | lease | through | owned
  deriving DecidableEq, Repr

/-- The kind of a slot's table (17 R427). -/
def State.kind (s : State) (slot : Nat) : Kind :=
  if slot = 0 then .lease else if slot = 2 ∨ Sparse.get false s.tmulti slot then .through else .owned

/-- The entry of a pair. -/
def State.entry (s : State) (slot st m : Nat) : Nat := Sparse.get entError (Sparse.get [] s.tables slot) (32 * st + m)

end Sys2Proof.Machine
end

