-- ==== Sys2Proof/Machine/Records.lean ====
section
/-! DEFINITION. Homes of addresses (08 R248), the sending of messages (10 R281), and the writes of the management core that a register
counts: error records (20 R468) and trace entries (19 R444). -/

namespace Sys2Proof.Machine

open Sys2Proof

/-! ## Addresses -/

/-- Is a physical address device memory (08 R248)? -/
def State.isDevice (s : State) (pa : Nat) : Bool :=
  decide (pa < if s.life.eccOff then Config.memPlain else Config.memEcc)
/-- Is a physical address host memory (19 R441)? -/
def isHost (pa : Nat) : Bool := decide (Config.hostBase ≤ pa) && decide (pa < Config.paEnd)

/-- The home of a physical address (08 R248). -/
def homeOf (pa : Nat) : Nat := Nat.xor (Nat.xor (pa / 2 ^ 9 % 16) (pa / 2 ^ 13 % 16)) (pa / 2 ^ 17 % 16)
/-- The home of a line. -/
def lineHome (ln : Nat) : Nat := homeOf (ln * 128)
/-- The SRC of a home (20 R468). -/
def homeSrc (h : Nat) : Nat := 128 * (h / 8) + 48
/-- The mask of `n` bytes from an offset. -/
def rangeMask (off n : Nat) : BitVec 128 := BitVec.ofNat 128 ((2 ^ n - 1) * 2 ^ off)

/-! ## Messages -/

/-- The tower of an end of a message. -/
def Node.tower : Node → Nat
  | .core c => c / Config.coresPerTower
  | .bridge t => t
  | .home h => h / 8
  | .engine t => t
  | .mgmt => 0

/-- Channels (10 R281): 0 request, 1 forward, 2 response. -/
def channelOf (m : Msg) : Nat :=
  if mGETS ≤ m.code ∧ m.code ≤ mRENEW then 0
  else if m.code = mTOW ∨ m.code = mNC ∨ m.code = mREBANS then 0
  else match m.src with
    | .home _ => 1
    | .core _ | .bridge _ | .engine _ | .mgmt => 2

/-- The halves of a line of device memory that hold an uncorrectable error at the home (20 R466). -/
def State.badHalves (s : State) (ln : Nat) : BitVec 2 :=
  if s.life.badMem.isEmpty then 0
  else BitVec.ofNat 2 ((if s.life.badMem.contains (2 * ln) then 1 else 0) + (if s.life.badMem.contains (2 * ln + 1) then 2 else 0))

/-- Sends a message: it arrives no earlier than `lat` cycles later, and after the earlier messages of its sender, receiver and
channel where the channel has an order (10 R281; 08 R252: the bridge adds 30 to a round trip). -/
def State.send (s : State) (m : Msg) (lat : Nat) : State :=
  let (x, s) := s.popLag
  let far := if Node.tower m.src = Node.tower m.dst then 0 else Config.latBridge / 2
  let due := s.now + lat + far + x
  let prev := (s.net.filter fun q => q.src == m.src && q.dst == m.dst && channelOf q == channelOf m).map (·.due)
  let due := if channelOf m = 2 then due else max due (prev.max?.getD 0)
  -- bytes that a home sends bring its uncorrectable errors with them (20 R466)
  let hurt := match m.src with
    | .home _ => if m.data.isEmpty then 0 else s.badHalves m.line
    | .core _ | .bridge _ | .engine _ | .mgmt => m.poison
  { s with net := s.net ++ [{ m with due := due, poison := hurt }] }

/-- One way between an L1 and a home: a read takes 110 cycles from issue to return with 20 before and 20 after. -/
def latWay : Nat := 35

/-! ## Writes of the management core that wait -/

/-- What the management core releases in a counter or a record that it writes (15 R364). -/
def mgmtRel (sc : Scope) (k : Know) : Rel := { who := { who := .mgmt }, scope := sc, pts := k.pts, vc := k.vc }

/-- The next copy of a list in flash is written over the older one, or over one that a reset has torn (20 R470). -/
def flashPut (cs : List FlashCopy) (x : FlashCopy) : List FlashCopy :=
  match cs with
  | [a, b] => if a.whole && (!b.whole || decide (b.seq < a.seq)) then [a, x] else [x, b]
  | _ => [x, {}]

/-- The list that stands in flash: that of the newest whole copy. -/
def flashList (cs : List FlashCopy) : List Nat :=
  match cs.filter (·.whole) with
  | [a, b] => if a.seq < b.seq then b.list else a.list
  | [a] => a.list
  | _ => []

/-- A write of the list of retired pages, or of layers, begins. -/
def State.putPages (s : State) (l : List Nat) : State :=
  let (d, s) := s.popLag
  let n := s.life.flashSeq + 1
  { s with life := { s.life with pages := l, flashSeq := n, flashPages := flashPut s.life.flashPages { seq := n, list := l, ends := s.now + d } } }
def State.putLayers (s : State) (l : List Nat) : State :=
  let (d, s) := s.popLag
  let n := s.life.flashSeq + 1
  { s with life := { s.life with layers := l, flashSeq := n, flashLayers := flashPut s.life.flashLayers { seq := n, list := l, ends := s.now + d } } }

/-- A layer enters the list of retired layers (11 R310; 20 R470). -/
def State.retireLayer (s : State) (k : Nat) : State :=
  if s.life.layers.contains k then s else s.putLayers (s.life.layers ++ [k])

/-- The writes of the management core that are not performed. -/
def State.mgmtPending (s : State) : List Msg :=
  ((s.homes.flatMap fun h => h.2.stalled) ++ s.net).filter fun m => m.src == .mgmt && m.code == mNC && m.cause.isNone

/-- THE MANAGEMENT CORE SENDS a write of masked bytes of a line to its home, as a non-caching request (10 R285), behind its earlier ones. -/
def State.mgmtSend (s : State) (ln : Nat) (data : List Byte) (mask : BitVec 128) (rels : Sparse (List Rel)) (pts : Nat)
    (done : Counted := .nothing) : State :=
  s.send { code := mNC, src := .mgmt, dst := .home (lineHome ln), line := ln, due := 0, write := true, data := data, mask := mask, rels := rels
           pts := pts, tag := (s.mgmtPending.map (·.tag)).max?.getD 0 + 1, done := done } latWay

/-- A vector is raised once every write of the management core so far has been performed (19 R448). -/
def State.raiseAfter (s : State) (v : Nat) : State :=
  match (s.mgmtPending.map (·.tag)).max? with
  | none => s.raiseVector v
  | some n => { s with priv := { s.priv with irqs := s.priv.irqs ++ [(n, v)] } }

/-- Vectors whose writes have been performed are raised. -/
def State.irqsReady (s : State) : State :=
  if s.priv.irqs.isEmpty then s
  else
    let open_ (n : Nat) : Bool := s.mgmtPending.any fun m => decide (m.tag ≤ n)
    (s.priv.irqs.filter fun p => !open_ p.1).foldl (fun s p => s.raiseVector p.2)
      { s with priv := { s.priv with irqs := s.priv.irqs.filter fun p => open_ p.1 } }

/-- What follows a write when it is performed: the tail of its ring advances, and an error record raises a service vector (20 R468). -/
def State.counted (s : State) (d : Counted) : State :=
  match d with
  | .nothing => s
  | .record t => ({ s with priv := { s.priv with errtail := s.priv.errtail + 1 } } : State).service t
  | .trace t => s.modTen t fun x => { x with trtail := x.trtail + 1 }

/-- Writes an entry of a ring in device memory, 32 aligned bytes, which carry a release at HOST scope; what it counts follows (19 R444, 20
R468).  An entry outside device memory is written nowhere. -/
def State.ringWrite (s : State) (pa : Nat) (d : List Byte) (r : Rel) (done : Counted) : State :=
  if s.isDevice pa then
    s.mgmtSend (pa / 128) (List.replicate (pa % 128) 0 ++ d) (rangeMask (pa % 128) d.length)
      ((List.range d.length).map fun k => (pa % 128 + k, [r])) r.pts done
  else s.counted done

/-- log2 of the entries of a ring, from 6 to 16 (19 R444; 20 R467); a register that holds another number acts as the nearest of these
(DESIGN CHOICE, log entry 43). -/
def ringLog (w : DWord) : Nat := min 16 (max 6 (bits w 0 5))

/-! ## Error records (20 R468) -/

/-- The record that a new error would be: its place in the order of all records. -/
def State.errNext (s : State) : Nat := s.priv.errtail.toNat + (s.mgmtPending.filter fun m => m.done matches .record _).length

/-- The bytes of an error record, number `seq`, of an error that is detected now. -/
def State.errBytes (s : State) (kind src : Nat) (tenant : Option Nat) (addr info seq : Nat) : List Byte :=
  let x0 := pack [(56, kind), (48, src), (45, tenant.getD 0), (44, if tenant.isSome then 1 else 0)]
  leBytes 8 x0.toNat ++ leBytes 8 (addr % 2 ^ 64) ++ leBytes 8 s.now ++ leBytes 4 seq ++ leBytes 4 info

/-- AN ERROR RECORD is sent to the ring, as a release at HOST scope; when it is performed the tail advances and the service vector of its
tenant, or of tenant 0, is raised.  While the ring is full it is lost and counted (20 R468), and raises nothing (DESIGN CHOICE, log entry
43). -/
def State.errorRecord (s : State) (kind src : Nat) (tenant : Option Nat) (addr info : Nat) : State :=
  let n := s.errNext
  if n - s.priv.errhead.toNat ≥ 2 ^ ringLog s.priv.errsz then { s with priv := { s.priv with errlost := s.priv.errlost + 1 } }
  else
    s.ringWrite (s.priv.errbase.toNat + 32 * (n % 2 ^ ringLog s.priv.errsz)) (s.errBytes kind src tenant addr info n) (mgmtRel .host {})
      (.record (tenant.getD 0))

/-- An error record of KIND 2 (20 R466, R468): an uncorrectable error in a line of memory, detected at its home. -/
def State.memError (s : State) (tenant : Option Nat) (ln : Nat) : State :=
  s.errorRecord 2 (homeSrc (lineHome ln)) tenant (128 * ln) (lineHome ln)

/-! ## The stacked cache (08 R249 to R252) -/

/-- Is a line in a pinned range of some tenant (08 R251)? -/
def State.isPinned (s : State) (ln : Nat) : Bool :=
  s.tenants.any fun t => t.2.pins.any fun p => decide (p.1 ≤ ln * 128) && decide (ln * 128 < p.1 + 8192 * p.2)

/-- Lines of a tower that a tenant's partition of the stacked cache holds beside its pinned ranges, of which each 8 KiB unit lies half on either
tower (08 R248, R250, R251). -/
def Tenant.stackedLines (t : Tenant) (tower : Nat) : Nat :=
  (if tower = 0 then t.gran0 else t.gran1) * 4096 - 32 * (t.pins.map (·.2)).sum

/-- AN ACCESS AT A HOME to the stacked cache of its tower (08 R249 to R251): true where the line is there, in whichever partition; a miss of a
tenant takes it into that tenant's partition, and one of no tenant allocates nothing.  It lies behind the home, so its lines hold no bytes that
differ from memory's (DEDUCED, log entry 40). -/
def State.stackedTouch (s : State) (ln : Nat) (tenant : Option Nat) : Bool × State :=
  let tw := lineHome ln / 8
  if s.isPinned ln then (true, s)
  else
    let put (t : Nat) (l : List Nat) : State :=
      s.modTower tw fun x => { x with stacked := Sparse.set [] x.stacked t ((ln :: l.filter fun k => k != ln).take ((s.ten t).stackedLines tw)) }
    match (s.tower tw).stacked.find? fun p => p.2.contains ln, tenant with
    | some (t, l), _ => (true, put t l)
    | none, some t => (false, put t (Sparse.get [] (s.tower tw).stacked t))
    | none, none => (false, s)

/-- The least time of an access from a core to a line beyond its L1: 110 cycles, 310 more from GDDR7, 30 more over the die-to-die bridge (08 R252). -/
def State.lineLat (s : State) (core ln tenant : Nat) : Nat × State :=
  let (hit, s) := s.stackedTouch ln (some tenant)
  (Config.latHome + (if hit then 0 else Config.latDram - Config.latHome) + (if lineHome ln / 8 = core / 48 then 0 else Config.latBridge), s)

/-- Pinned lines of the stacked cache are written back to GDDR7, over what stood there (08 R251). -/
def State.writeBack (s : State) (f : Nat → Bool) : State :=
  { s with life := { s.life with under := s.life.under.filter fun n => !f (n / 2) } }

end Sys2Proof.Machine
end

