-- ==== Sys2Proof/Machine/Flags.lean ====
section
/-! DEFINITION. FLAGS (01 R24), integer results with their overflow (02 R59, R60) and the lane-wise form of vector words. -/

namespace Sys2Proof.Machine

open Sys2Proof

/-- FLAGS bits (01 R24). -/
def flIV : BitVec 7 := 1
def flDZF : BitVec 7 := 2
def flOF : BitVec 7 := 4
def flUF : BitVec 7 := 8
def flIX : BitVec 7 := 16
def flIDZ : BitVec 7 := 32
def flIOV : BitVec 7 := 64

/-- MODE fields (01 R21). -/
def Gang.rm (x : Gang) : Nat := (x.mode.toNat) % 8
def Gang.ftz (x : Gang) : Bool := x.mode.getLsbD 3
def Gang.ord (x : Gang) : Bool := x.mode.getLsbD 4
def Gang.idze (x : Gang) : Bool := x.mode.getLsbD 13
def Gang.iove (x : Gang) : Bool := x.mode.getLsbD 14

/-- A result wrapped to a width, with IOV where a signed exact result lies outside the range (02 R59). -/
def wrapI (w : Nat) (sgn : Bool) (x : Int) : BitVec w × BitVec 7 :=
  (BitVec.ofInt w x, if sgn && (x < -(2 ^ (w - 1) : Int) || x ≥ (2 ^ (w - 1) : Int)) then flIOV else 0)

/-- A bit vector as an integer of its type. -/
def asInt {w : Nat} (sgn : Bool) (x : BitVec w) : Int := if sgn then x.toInt else (x.toNat : Int)

/-- IADD, ISUB of one lane in width `w` (04 R101). -/
def addI {w : Nat} (sgn : Bool) (a b : BitVec w) : BitVec w × BitVec 7 := wrapI w sgn (asInt sgn a + asInt sgn b)
def subI {w : Nat} (sgn : Bool) (a b : BitVec w) : BitVec w × BitVec 7 := wrapI w sgn (asInt sgn a - asInt sgn b)

/-- IMUL of one lane (04 R101). -/
def mulI (hi uns : Bool) (a b : Word) : Word × BitVec 7 :=
  let p := asInt (!uns) a * asInt (!uns) b
  if hi then (BitVec.ofInt 32 (p / 2 ^ 32), 0) else wrapI 32 (!uns) p

/-- IMAD of one lane (04 R101). -/
def madI (uns : Bool) (a b d : Word) : Word × BitVec 7 :=
  wrapI 32 (!uns) (asInt (!uns) a * asInt (!uns) b + asInt (!uns) d)

/-- IDIV of one lane (02 R60). -/
def divI (uns : Bool) (a b : Word) : Word × BitVec 7 :=
  if b = 0 then (BitVec.allOnes 32, flIDZ)
  else if uns then (a / b, 0)
  else if a = 0x80000000 ∧ b = BitVec.allOnes 32 then (0x80000000, flIOV)
  else (BitVec.ofInt 32 (a.toInt.tdiv b.toInt), 0)

/-- IREM of one lane (02 R60). -/
def remI (uns : Bool) (a b : Word) : Word × BitVec 7 :=
  if b = 0 then (a, flIDZ)
  else if uns then (a % b, 0)
  else if a = 0x80000000 ∧ b = BitVec.allOnes 32 then (0, flIOV)
  else (BitVec.ofInt 32 (a.toInt.tmod b.toInt), 0)

/-- Comparison of integers (03 R91, 04 R103). -/
def cmpI (cc : Cond) (a b : Int) : Bool :=
  match cc with
  | .eq => decide (a = b)
  | .ne => decide (a ≠ b)
  | .lt => decide (a < b)
  | .le => decide (a ≤ b)
  | .gt => decide (a > b)
  | .ge => decide (a ≥ b)
  | .ord => true
  | .unord => false

/-- The number of 1 bits. -/
def popCount {w : Nat} (a : BitVec w) : Nat := ((List.range w).filter fun k => a.getLsbD k).length
/-- Zero bits above the highest 1 bit. -/
def leadZeros (a : Word) : Nat := ((List.range 32).takeWhile fun k => !a.getLsbD (31 - k)).length
/-- Zero bits below the lowest 1 bit. -/
def trailZeros (a : Word) : Nat := ((List.range 32).takeWhile fun k => !a.getLsbD k).length

/-- The shifts (04 R106): the count is the whole operand. -/
def shlW (a b : Word) : Word := if b.toNat ≥ 32 then 0 else a <<< b.toNat
def shrW (a b : Word) : Word := if b.toNat ≥ 32 then 0 else a >>> b.toNat
def sarW (a b : Word) : Word := BitVec.sshiftRight a (min b.toNat 31)
def rotW (a b : Word) : Word := a.rotateLeft (b.toNat % 32)

/-- BFE (04 R107). -/
def bfeW (sgn : Bool) (a b : Word) : Word :=
  let pos := b.toNat % 256
  let len := b.toNat / 256 % 256
  if pos ≥ 32 ∨ len = 0 then 0
  else
    let n := min len (32 - pos)
    let f := a.toNat / 2 ^ pos % 2 ^ n
    if sgn ∧ f ≥ 2 ^ (n - 1) then BitVec.ofInt 32 ((f : Int) - 2 ^ n) else BitVec.ofNat 32 f

/-- BFI (04 R107). -/
def bfiW (d a b : Word) : Word :=
  let pos := b.toNat % 256
  let len := b.toNat / 256 % 256
  if pos ≥ 32 ∨ len = 0 then d
  else
    let n := min len (32 - pos)
    let m : Word := BitVec.ofNat 32 ((2 ^ n - 1) * 2 ^ pos)
    (d &&& ~~~m) ||| ((a <<< pos) &&& m)

/-- The halves of a 64-bit value. -/
def lo32 (x : DWord) : Word := x.setWidth 32
def hi32 (x : DWord) : Word := (x >>> 32).setWidth 32

/-! ## Lane-wise words -/

/-- The flags of the active lanes together. -/
def orFlags (fs : List (BitVec 7)) : BitVec 7 := fs.foldl (· ||| ·) 0

/-- A word of pipes V0, V1 or X: latency at widths 16 and 32, one more at width 64 (01 R49). -/
def State.latVX (s : State) (c : Cursor) (lat : Nat) : Nat := if (s.gang c.gang).width = 64 then lat + 1 else lat

/-- The lane-wise form of a vector word with one 32-bit destination: each active lane of `d` receives `f lane` (04 R100). -/
def State.laneWord (s : State) (c : Cursor) (lat : Nat) (d : Nat) (f : Nat → Word × BitVec 7) : State :=
  let rs := (s.lanes c).map fun l => (l, f l)
  s.emit c.gang (s.latVX c lat) [.v d (rs.map fun p => (p.1, p.2.1))] (orFlags (rs.map fun p => p.2.2))

/-- The lane-wise form with a 64-bit destination pair (04 R99). -/
def State.laneDWord (s : State) (c : Cursor) (lat : Nat) (d : Nat) (f : Nat → DWord × BitVec 7) : State :=
  let rs := (s.lanes c).map fun l => (l, f l)
  s.emit c.gang (s.latVX c lat)
    [.v d (rs.map fun p => (p.1, lo32 p.2.1)), .v (d + 1) (rs.map fun p => (p.1, hi32 p.2.1))]
    (orFlags (rs.map fun p => p.2.2))

/-- The mask of active lanes that pass a test (04 R103). -/
def State.laneMask (s : State) (c : Cursor) (f : Nat → Bool) : DWord := laneBits ((s.lanes c).filter f)

/-- The integer word's result in a lane, for the traps OV and DZ (02 R59, R61): its flags, `0` for the other words. -/
def State.intFlags (s : State) (c : Cursor) (i : Instr) (l : Nat) : BitVec 7 :=
  match i with
  | .iadd ty _ a b =>
    if ty.wide then (addI ty.signed (s.readD c ty.signed a l) (s.readD c ty.signed b l)).2
    else (addI ty.signed (s.readI c a l) (s.readI c b l)).2
  | .isub ty _ a b =>
    if ty.wide then (subI ty.signed (s.readD c ty.signed a l) (s.readD c ty.signed b l)).2
    else (subI ty.signed (s.readI c a l) (s.readI c b l)).2
  | .imul hi u _ a b => (mulI hi u (s.readI c a l) (s.readI c b l)).2
  | .imad u d a b => (madI u (s.readI c a l) (s.readI c b l) (s.readI c (.v d) l)).2
  | .idiv u _ a b => (divI u (s.readI c a l) (s.readI c b l)).2
  | .irem u _ a b => (remI u (s.readI c a l) (s.readI c b l)).2
  | .iabs _ a => if s.readI c a l = 0x80000000 then flIOV else 0
  | .ineg _ a => if s.readI c a l = 0x80000000 then flIOV else 0
  | _ => 0

/-- OV and DZ (02 R59, R61): the trap of an integer word while its enable is 1, with DZ before OV. -/
def State.intTrap (s : State) (c : Cursor) (i : Instr) : Option Trap :=
  let x := s.gang c.gang
  let dz := laneBits ((s.lanes c).filter fun l => (s.intFlags c i l).getLsbD 5)
  let ov := laneBits ((s.lanes c).filter fun l => (s.intFlags c i l).getLsbD 6)
  if x.idze && dz != 0 then some { cause := 11, slot := c.slot, mask := dz }
  else if x.iove && ov != 0 then some { cause := 12, slot := c.slot, mask := ov }
  else none

end Sys2Proof.Machine
end

