-- ==== Sys2Proof/Machine/Shapes.lean ====
section
/-! DEFINITION. Shape records (07 R201 to R205), vault windows (06 R172), and the vault ranges of copies and matrix operands. -/

namespace Sys2Proof.Machine

open Sys2Proof

/-- Fields of a shape record (07 R201). -/
def Shape.base (r : Shape) : Nat := bits r.w1 0 16 * 2 ^ 64 + r.w0.toNat
def Shape.rowstride (r : Shape) : Nat := bits r.w1 40 24
def Shape.blockMajor (r : Shape) : Bool := r.w1.getLsbD 38
def Shape.sat (r : Shape) : Bool := r.w1.getLsbD 37
def Shape.nparts (r : Shape) : Nat := bits r.w1 33 4 + 1
def Shape.mant (r : Shape) : Nat := bits r.w1 31 2
def Shape.sfmt (r : Shape) : Nat := bits r.w1 29 2
def Shape.vfmt (r : Shape) : Nat := bits r.w1 24 5
def Shape.mfmt (r : Shape) : Nat := bits r.w1 19 5
def Shape.role (r : Shape) : Nat := bits r.w1 16 3
def Shape.vstride (r : Shape) : Nat := bits r.w2 40 24
def Shape.vsel (r : Shape) : Nat := bits r.w2 32 8
def Shape.inner (r : Shape) : Nat := bits r.w2 16 16
def Shape.outer (r : Shape) : Nat := bits r.w2 0 16
def Shape.svbase (r : Shape) : Nat := bits r.w3 32 32
def Shape.vbase (r : Shape) : Nat := bits r.w3 0 32

/-- The record of four words (07 R201), its reserved bit W1[39] zero (00 R10). -/
def Shape.of (valid : Bool) (w0 w1 w2 w3 : DWord) : Shape :=
  { valid := valid, w0 := w0, w1 := w1 &&& ~~~(1#64 <<< 39), w2 := w2, w3 := w3 }

/-- Bits of an element format code (07 R202); 0 for an invalid code. -/
def fmtBits (c : Nat) : Nat :=
  match Fmt.ofShape c with
  | some .s8 | some .u8 | some .e4m3 | some .e5m2 => 8
  | some .s16 | some .u16 | some .f16 | some .bf16 => 16
  | some .s32 | some .u32 | some .f32 => 32
  | some .s64 | some .u64 => 64
  | some .e2m1 | some .i4 => 4
  | some .i2 => 2
  | some .i1 => 1
  | none => 0

/-- Length of a vector in bytes (07 R203). -/
def vecLen (code inner : Nat) : Nat :=
  let b := fmtBits code
  if b ≥ 8 then inner * b / 8 else (inner + 127) / 128 * 16 * b

/-- Float codes 0x08 to 0x0C and integer codes 0x00 to 0x07. -/
def floatCode (c : Nat) : Bool := decide (8 ≤ c) && decide (c ≤ 12)
def intCode (c : Nat) : Bool := decide (c ≤ 7)

/-- MFMT and VFMT of ROLE 0 (07 R203). -/
def Shape.fmtPair (r : Shape) : Bool :=
  r.mfmt == r.vfmt || (floatCode r.mfmt && floatCode r.vfmt) || (intCode r.mfmt && intCode r.vfmt)

/-- Conditions of ROLE 1 and 2 together (07 R203). -/
def Shape.okMatrix (r : Shape) : Bool :=
  let small := fmtBits r.vfmt ≤ 4
  let fp8 := r.vfmt == 11 || r.vfmt == 12
  r.rowstride % 16 == 0 && decide (vecLen r.mfmt r.inner ≤ r.rowstride) &&
  (if small then r.mfmt == r.vfmt else if fp8 then floatCode r.mfmt else r.mfmt == 0) &&
  (r.mant == 0 || fp8) && r.mant != 3 && r.sfmt != 3 &&
  (!(r.vfmt == 0 || decide (14 ≤ r.vfmt)) || r.sfmt == 0) &&
  (r.sfmt != 1 || r.svbase % 4 == 0) && (r.sfmt != 2 || r.svbase % 8 == 0)

/-- A record that SHAPE accepts (07 R203). -/
def Shape.ok (r : Shape) : Bool :=
  decide (r.role ≤ 3) && fmtBits r.mfmt != 0 && fmtBits r.vfmt != 0 && r.outer != 0 && r.inner != 0 &&
  r.base % 16 == 0 && r.vbase % 16 == 0 &&
  (match r.role with
   | 0 => r.fmtPair && r.rowstride % 16 == 0 && r.vstride % 16 == 0 &&
      (r.outer == 1 || decide (vecLen r.mfmt r.inner ≤ r.rowstride)) &&
      (r.vstride == 0 || decide (vecLen r.vfmt r.inner ≤ r.vstride)) && r.mant == 0
   | 1 => decide (r.outer ≤ 64) && decide (r.inner ≤ 4096) && [11, 12, 0, 14, 15, 16].contains r.vfmt && r.okMatrix
   | 2 => decide (r.outer ≤ 128) && decide (r.inner ≤ 4096) && [11, 12, 13, 0, 14, 15, 16].contains r.vfmt && r.okMatrix
   | _ => r.fmtPair && r.svbase % 16 == 0)

/-- K-blocks of a vector (07 R205). -/
def Shape.nkb (r : Shape) : Nat := (r.inner + 127) / 128

/-- Bytes that a ROLE 0 vector's span takes, and the distance of vectors in the vault (07 R201, R208). -/
def Shape.span (r : Shape) : Nat := (vecLen r.vfmt r.inner + 15) / 16 * 16
def Shape.vdist (r : Shape) : Nat := if r.vstride = 0 then r.span else r.vstride

/-- Vault offset of row-block `(v, kb)` (07 R205). -/
def Shape.blockOff (r : Shape) (v kb : Nat) : Nat :=
  r.vbase + (if r.blockMajor then kb * r.outer + v else v * r.nkb + kb) * (16 * fmtBits r.vfmt)

/-- Vault ranges (offset, length) of vectors `first` to `first + n - 1` (07 R205, R208, R211). -/
def Shape.ranges (r : Shape) (first n : Nat) : List (Nat × Nat) :=
  match r.role with
  | 0 => (List.range n).map fun k => (r.vbase + (first + k) * r.vdist, r.span)
  | 3 => [(r.vbase + 4 * first, 4 * (n + 1)), (r.svbase, 4 * r.inner), (r.svbase + 4 * r.inner, (r.inner * fmtBits r.vfmt + 7) / 8)]
  | _ => (List.range n).flatMap fun k => (List.range r.nkb).map fun kb => (r.blockOff (first + k) kb, 16 * fmtBits r.vfmt)

/-- The whole of the data of a ROLE 1 or 2 record, and of its scales (07 R205; 02 R63: three S20 scales in a word). -/
def Shape.operandRanges (r : Shape) : List (Nat × Nat) :=
  let n := if r.role = 1 then r.outer * r.nkb else r.nkb
  (r.vbase, r.outer * r.nkb * 16 * fmtBits r.vfmt) ::
    (match r.sfmt with
     | 1 => [(r.svbase, 4 * n)]
     | 2 => [(r.svbase, 8 * ((n + 2) / 3))]
     | _ => [])

/-! ## Windows (06 R172, R173; 07 R225) -/

/-- The crew whose window a VSEL selects (06 R172). -/
def State.window (s : State) (u vsel : Nat) : Option Nat :=
  let cr := s.crew u
  if vsel = 0 then some u
  else if cr.pos = 0 ∨ vsel ≥ 10 then none
  else if vsel = cr.pos then some u
  else (s.crews.find? fun p => p.2.lent == cr.lent && p.2.cgrp == cr.cgrp && p.2.pos == vsel).map (·.1)

/-- The range of a crew's adapter cache, closed to its other paths (07 R225). -/
def Crew.adRange (cr : Crew) : Nat × Nat := (bits cr.adcfg 0 32, 65536 * bits cr.adcfg 32 5)

/-- Do two ranges share a byte? -/
def overlap (a b : Nat × Nat) : Bool := decide (0 < a.2) && decide (0 < b.2) && decide (a.1 < b.1 + b.2) && decide (b.1 < a.1 + a.2)

/-- The bytes of the adapter entries that the cache of a crew's core holds for it. -/
def State.cachedBytes (s : State) (u : Nat) : List Byte :=
  let c := s.core (s.crew u).core
  if c.tokOwner = some u then c.adcache.flatMap (·.bytes) else []

/-- A byte of a crew's window as another reader than its own gangs finds it: a byte of its adapter cache's range reads as zero or as a
byte of the crew's cached entries, in no stated arrangement (11 R478). -/
def State.farByte (s : State) (u off : Nat) : Byte :=
  if overlap (off, 1) (s.crew u).adRange then
    let l := s.cachedBytes u
    (l[Config.openByte s.fresh off % (l.length + 1)]?).getD 0
  else s.vaultRead u off

/-- A range that fails the bounds check of crew `u` (06 R172, R173; 07 R225). -/
def State.outside (s : State) (u vsel : Nat) (r : Nat × Nat) : Bool :=
  match s.window u vsel with
  | none => true
  | some w => decide ((s.crew w).wsize < r.1 + r.2) || (w == u && overlap r (s.crew u).adRange)

/-- The destination ranges of a copy that count in the window of crew `w` (07 R211): from the first part in the issuing
crew's own window, from the first write in another's. -/
def State.copyRanges (s : State) (w : Nat) (p : Nat × Copy) : List (Nat × Nat) :=
  if p.2.tomem || p.2.moved || p.2.kind == .stream then []
  else if s.window p.1 p.2.sh.vsel = some w ∧ (p.1 = w ∨ p.2.wrote) then p.2.sh.ranges 0 p.2.sh.outer
  else []

/-- VAULT_BUSY of an access to window `w` (06 R173, 07 R211). -/
def State.busy (s : State) (w : Nat) (r : Nat × Nat) : Bool :=
  s.crews.any fun p => p.2.copies.any fun cp => (s.copyRanges w (p.1, cp)).any (overlap r)

end Sys2Proof.Machine
end

