-- ==== Sys2Proof/Machine/Traps.lean ====
section
/-! DEFINITION. The traps that a word takes at issue, in the order of its entry (00 R13; 01 R42; 02 R61; 06 R163; 07 R200), and
the form of a word's meaning: the trap, or the effect. -/

namespace Sys2Proof.Machine

open Sys2Proof

/-! ## Memory words (06 R161 to R163) -/

/-- The bytes that a lane of a memory or vault word accesses; 0 for other words. -/
def accessSize : Instr → Nat
  | .ld sz _ _ _ _ =>
    match sz with
    | .b32 => 4
    | .b64 => 8
    | .b128 => 16
    | .u8 | .s8 => 1
    | .u16 | .s16 => 2
  | .st sz _ _ _ _ =>
    match sz with
    | .b32 => 4
    | .b64 => 8
    | .b128 => 16
    | .b8 => 1
    | .b16 => 2
  | .ldg sz _ _ _ _ => 4 * sz.regs
  | .stg sz _ _ _ _ => 4 * sz.regs
  | .ldAcq w _ _ _ _ => 4 * wide w
  | .stRel w _ _ _ _ => 4 * wide w
  | .atom .cas64 _ _ _ _ => 8
  | .atom _ _ _ _ _ => 4
  | .pref _ _ _ => 1
  | .ldv sz _ _ _ => 4 * sz.regs
  | .stv sz _ _ _ => 4 * sz.regs
  | .atomv _ _ _ _ => 4
  | _ => 0

/-- Base register and offset of a memory word: A register, offset, and whether the offset has 64 bits. -/
def memAddr : Instr → Option (AReg × Src × Bool)
  | .ld _ _ _ o ba => some (ba, o, false)
  | .st _ _ _ o ba => some (ba, o, false)
  | .ldg _ _ _ o ba => some (ba, o, true)
  | .stg _ _ _ o ba => some (ba, o, true)
  | .ldAcq _ _ _ o ba => some (ba, o, false)
  | .stRel _ _ _ o ba => some (ba, o, false)
  | .atom _ _ _ o ba => some (ba, o, false)
  | .pref _ o ba => some (ba, o, false)
  | _ => none

/-- Base register and offset of a vault word. -/
def vaultAddr : Instr → Option (SReg × Src)
  | .ldv _ _ o ba => some (ba, o)
  | .stv _ _ o ba => some (ba, o)
  | .atomv _ _ o ba => some (ba, o)
  | _ => none

/-- The address of a memory word in a lane (06 R161). -/
def State.lanePa (s : State) (c : Cursor) (ba : AReg) (o : Src) (wide64 : Bool) (l : Nat) : Nat :=
  let off : Int := if wide64 then (s.readD c true o l).toInt else (s.readI c o l).toInt
  (((s.gang c.gang).areg ba.val) + BitVec.ofInt 80 off).toNat

/-- The vault offset of a vault word in a lane (06 R172). -/
def State.laneOff (s : State) (c : Cursor) (ba : SReg) (o : Src) (l : Nat) : Nat :=
  (((s.gang c.gang).sreg ba.val).setWidth 32 + s.readI c o l).toNat

/-- ALIGN (06 R163). -/
def alignTrap (c : Cursor) (size : Nat) (as : List (Nat × Nat)) : Option Trap :=
  match as.filter fun p => p.2 % size != 0 with
  | [] => none
  | l => some { cause := 8, slot := c.slot, mask := laneBits (l.map (·.1)) }

/-- ALIGN, then VAULT_BOUNDS, then VAULT_BUSY of a vault word (06 R163, R172, R173); a towpath word meets VAULT_BUSY at its
target. -/
def State.vaultTrap (s : State) (c : Cursor) (i : Instr) (ba : SReg) (o : Src) : Option Trap :=
  let as := (s.lanes c).map fun l => (l, s.laneOff c ba o l)
  let u := (s.gang c.gang).crew
  let vsel := bits ((s.gang c.gang).sreg ba.val) 32 8
  let size := accessSize i
  match alignTrap c size as with
  | some t => some t
  | none =>
    match as.filter fun p => s.outside u vsel (p.2, size) with
    | [] =>
      if s.window u vsel = some u then
        match as.filter fun p => s.busy u (p.2, size) with
        | [] => none
        | l => some { cause := 5, slot := c.slot, mask := laneBits (l.map (·.1)) }
      else none
    | l => some { cause := 4, slot := c.slot, mask := laneBits (l.map (·.1)) }

/-! ## Engine words (07 R199, R200) -/

/-- Does the crew own the tokens of its core (01 R20)? -/
def State.ownsTok (s : State) (u : Nat) : Bool := (s.core (s.crew u).core).tokOwner == some u

/-- The state of a token. -/
def Core.tok (c : Core) (t : Nat) : TokSt := (c.toks[t]?).getD .engine

/-- TOKEN (07 R200, R222): the crew does not own the tokens, or the state fails `ok`. -/
def State.tokenTrap (s : State) (c : Cursor) (t : TReg) (ok : TokSt → Bool) : Option Trap :=
  let u := (s.gang c.gang).crew
  if s.ownsTok u && ok ((s.core (s.crew u).core).tok t.val) then none
  else some { cause := 3, info := t.val, slot := c.slot }

/-- Is a token with the matrix engine? -/
def TokSt.isEngine : TokSt → Bool
  | .engine => true
  | .transfer _ _ => false
  | .held _ => false

/-- Is a token held by this gang? -/
def TokSt.isHeld (g : Nat) : TokSt → Bool
  | .engine => false
  | .transfer _ _ => false
  | .held h => h == g

/-- An H register of a crew. -/
def Crew.shape (cr : Crew) (h : Nat) : Shape := Sparse.get {} cr.h h

/-- A SHAPE trap; it gives no lane mask (00 R13). -/
def shapeTrap (c : Cursor) (info : Nat) : Trap := { cause := 6, info := info, slot := c.slot }

/-- VAULT_BOUNDS of the ranges that an engine word names (07 R200). -/
def State.rangeTrap (s : State) (c : Cursor) (vsel : Nat) (rs : List (Nat × Nat)) : Option Trap :=
  if rs.any (s.outside (s.gang c.gang).crew vsel) then
    some { cause := 4, slot := c.slot, mask := laneBits (s.lanes c) }
  else none

/-- The first trap of a list. -/
def firstTrap (l : List (Option Trap)) : Option Trap := (l.filterMap id).head?

/-- The copy of `h` that is gathering parts (07 R207). -/
def Crew.gathering (cr : Crew) (h : Nat) : Option Copy := cr.copies.find? fun cp => cp.h == h && !cp.started

/-- SHAPE, COPYISSUE and VAULT_BOUNDS of a copy word (07 R200, R206, R208, R214).  With no active lane the displacement, which is part of an
address, is not checked, and the count and the range are (DESIGN CHOICE, log entry 50: 07 R199 leaves out the checks of addresses). -/
def State.copyTrap (s : State) (c : Cursor) (kind : CopyKind) (h : HReg) (rng : Src) : Option Trap :=
  let cr := s.crew (s.gang c.gang).crew
  let act := !(s.lanes c).isEmpty
  let g := s.readO c rng
  let first := bits g 0 16
  let count := bits g 16 16
  let go (r : Shape) : Option Trap :=
    let roleOk := match kind with
      | .dense => r.role == 0
      | .csr => r.role == 3
      | .plane => r.role == 1 || r.role == 2
      | .stream => r.role == 0 && decide (r.vsel ≤ 7)
    if !roleOk then some (shapeTrap c 3)
    else if count = 0 ∨ first + count > r.outer ∨ (act ∧ bits g 32 4 ≠ 0) then
      some { cause := 7, info := (s.gang c.gang).gid, slot := c.slot }
    else if !act || kind == .stream then none
    else s.rangeTrap c r.vsel (r.ranges first count)
  match cr.gathering h.val with
  | some cp => go cp.sh
  | none => if (cr.shape h.val).valid then go (cr.shape h.val) else some (shapeTrap c 2)

/-- Integer matrix formats (07 R216). -/
def intMatrix (f : Nat) : Bool := f == 0 || f == 14 || f == 15 || f == 16
/-- FP8 formats. -/
def fp8Code (f : Nat) : Bool := f == 11 || f == 12

/-- SHAPE of a matrix word on two records (07 R216). -/
def State.mmaTrap (s : State) (c : Cursor) (int : Bool) (ha hb : HReg) : Option Trap :=
  let cr := s.crew (s.gang c.gang).crew
  let a := cr.shape ha.val
  let b := cr.shape hb.val
  if !a.valid || !b.valid then some (shapeTrap c 2)
  else if a.role == 1 && b.role == 2 && b.inner == a.inner &&
      (if int then intMatrix a.vfmt && intMatrix b.vfmt else fp8Code a.vfmt && (fp8Code b.vfmt || b.vfmt == 13)) then none
  else some (shapeTrap c 3)

/-- VAULT_BOUNDS of a matrix word's operands (07 R216). -/
def State.operandTrap (s : State) (c : Cursor) (h : HReg) : Option Trap :=
  if (s.lanes c).isEmpty then none
  else
    let r := (s.crew (s.gang c.gang).crew).shape h.val
    s.rangeTrap c r.vsel r.operandRanges

/-- The trap that an instruction word takes at issue besides PENDING, in the order of its entry; none where it has its
effect. -/
def State.entryTrap (s : State) (c : Cursor) (i : Instr) : Option Trap :=
  match i with
  | .iadd .. | .isub .. | .imul .. | .imad .. | .idiv .. | .irem .. | .iabs .. | .ineg .. => s.intTrap c i
  | .ld _ _ _ o ba => alignTrap c (accessSize i) ((s.lanes c).map fun l => (l, s.lanePa c ba o false l))
  | .st _ _ _ o ba => alignTrap c (accessSize i) ((s.lanes c).map fun l => (l, s.lanePa c ba o false l))
  | .ldAcq _ _ _ o ba => alignTrap c (accessSize i) ((s.lanes c).map fun l => (l, s.lanePa c ba o false l))
  | .stRel _ _ _ o ba => alignTrap c (accessSize i) ((s.lanes c).map fun l => (l, s.lanePa c ba o false l))
  | .atom _ _ _ o ba => alignTrap c (accessSize i) ((s.lanes c).map fun l => (l, s.lanePa c ba o false l))
  | .ldg _ _ _ o ba => alignTrap c (accessSize i) ((s.lanes c).map fun l => (l, s.lanePa c ba o true l))
  | .stg _ _ _ o ba => alignTrap c (accessSize i) ((s.lanes c).map fun l => (l, s.lanePa c ba o true l))
  | .ldv _ _ o ba => s.vaultTrap c i ba o
  | .stv _ _ o ba => s.vaultTrap c i ba o
  | .atomv _ _ o ba => s.vaultTrap c i ba o
  | .shape _ sk =>
    let x := s.gang c.gang
    let r : Shape := { valid := true, w0 := x.sreg sk.val, w1 := x.sreg (sk.val + 1), w2 := x.sreg (sk.val + 2)
                       w3 := x.sreg (sk.val + 3) }
    if r.ok then none else some (shapeTrap c 1)
  | .copy _ _ h r _ => s.copyTrap c .dense h r
  | .copyCsr h r _ => s.copyTrap c .csr h r
  | .copyPlane _ _ h r _ => s.copyTrap c .plane h r
  | .copyQ h r _ => s.copyTrap c .stream h r
  | .mma t ha hb =>
    firstTrap [s.tokenTrap c t TokSt.isEngine, s.mmaTrap c false ha hb, s.operandTrap c ha, s.operandTrap c hb]
  | .mmaI t ha hb =>
    firstTrap [s.tokenTrap c t TokSt.isEngine, s.mmaTrap c true ha hb, s.operandTrap c ha, s.operandTrap c hb]
  | .mmaAd t ha hb sv =>
    let cr := s.crew (s.gang c.gang).crew
    let w := (s.gang c.gang).sreg sv.val
    let ad := if (s.lanes c).isEmpty then none
      else if decide (cr.wsize < cr.adRange.1 + cr.adRange.2) && decide (0 < cr.adRange.2) then
        some { cause := 4, slot := c.slot, mask := laneBits (s.lanes c) : Trap }
      else s.rangeTrap c (bits w 32 8) [(bits w 0 32, 128)]
    firstTrap [s.tokenTrap c t TokSt.isEngine, s.mmaTrap c false ha hb, s.operandTrap c ha, s.operandTrap c hb, ad]
  | .mmaQ t _ hb dsc =>
    let b := (s.crew (s.gang c.gang).crew).shape hb.val
    let d := s.readO c dsc
    let bad := if !b.valid then some (shapeTrap c 2)
      else if b.role == 2 && (fp8Code b.vfmt || b.vfmt == 13) && bits d 0 7 != 0 && decide (bits d 0 7 ≤ 64) &&
        bits d 8 2 != 3 then none
      else some (shapeTrap c 3)
    firstTrap [s.tokenTrap c t TokSt.isEngine, bad, s.operandTrap c hb]
  | .macq t => s.tokenTrap c t TokSt.isEngine
  | .mrel t => s.tokenTrap c t (TokSt.isHeld c.gang)
  | .mlda _ t _ => s.tokenTrap c t (TokSt.isHeld c.gang)
  | .msta _ t _ => s.tokenTrap c t (TokSt.isHeld c.gang)
  | .mclr t => s.tokenTrap c t fun k => k.isEngine || k.isHeld c.gang
  | .islrecv d _ cnt =>
    let w := (s.gang c.gang).sreg d.val
    let n := bits (s.readO c cnt) 0 9
    if (s.lanes c).isEmpty || n == 0 then none else s.rangeTrap c (bits w 32 8) [(bits w 0 32, 64 * n)]
  | _ => none

/-- The V registers that a word reads in its own lanes. -/
def instrReads : Instr → List PReg
  | .iadd ty _ a b | .isub ty _ a b => srcRegs (wide ty.wide) a ++ srcRegs (wide ty.wide) b
  | .icmp _ ty _ a b => srcRegs (wide ty.wide) a ++ srcRegs (wide ty.wide) b
  | .mov w _ a => srcRegs (wide w) a
  | .cvtFromInt _ _ src _ a => srcRegs (wide src.is64) a
  | .movs (.toS _ a) => [.v a.val]
  | .ballot _ a | .vote _ _ a => [.v a.val]
  | .scan _ _ _ _ a => [.v a.val]
  | .reduce _ _ _ a => [.v a.val]
  | .st sz _ d o _ => srcRegs sz.regs d ++ srcRegs 1 o
  | .ldg _ _ _ o _ => srcRegs 2 o
  | .stg sz _ d o _ => srcRegs sz.regs d ++ srcRegs 2 o
  | .stRel w _ d o _ => srcRegs (wide w) d ++ srcRegs 1 o
  | .stv sz d o _ => srcRegs sz.regs d ++ srcRegs 1 o
  | .qpush _ v => vGroup 4 v.val
  | .islpush _ _ v x => vGroup 4 v.val ++ srcRegs 1 x
  | .msta v _ p => vGroup 4 v.val ++ srcRegs 1 p
  | .atom op _ d o _ => vGroup op.regs d.val ++ srcRegs 1 o
  | .atomv op d o _ => vGroup (wide (op == .cas)) d.val ++ srcRegs 1 o
  | .imad _ d a b | .bfi d a b => .v d.val :: srcRegs 1 a ++ srcRegs 1 b
  | .ffma _ d a b | .hfma2 _ _ d a b => .v d.val :: srcRegs 1 a ++ srcRegs 1 b
  | .dot4F8 _ _ d a b | .dot4I8 _ _ d a b => .v d.val :: srcRegs 1 a ++ srcRegs 1 b
  | .expr _ _ a b c e _ => srcRegs 1 a ++ srcRegs 1 b ++ srcRegs 1 c ++ srcRegs 1 e
  | i => (instrSrcs i).flatMap (srcRegs 1)

/-- The lanes of a word that read a lane of a V register with an uncorrectable error (20 R464, R466). -/
def State.badLanesOf (s : State) (c : Cursor) (i : Instr) : List Nat :=
  let bad := (s.gang c.gang).badV
  if bad.isEmpty then []
  else (s.lanes c).filter fun l =>
    (instrReads i).any (fun r => bad.any fun b => r == .v b.1 && b.2 == l) ||
      (crossReg i).any fun a => (s.sourceLanes c i l).any fun q => bad.contains (a.val, q)

/-- A word that reads a V register lane with an uncorrectable error: its gang stops with CAUSE 15 and those lanes (20 R466; DEDUCED, log entry 54: before
any lane is performed, as a precise trap). -/
def State.regTrap (s : State) (c : Cursor) (i : Instr) : Option Trap :=
  match s.badLanesOf c i with
  | [] => none
  | ls => some { cause := 15, slot := c.slot, mask := laneBits ls }

/-- The trap that a word takes at issue (00 R13): PENDING first, then an uncorrectable error of a register that it reads, then those of its entry. -/
def State.wordTrap (s : State) (c : Cursor) (i : Instr) : Option Trap :=
  match s.pendingTrap c i with
  | some m => some { cause := 2, slot := c.slot, mask := m }
  | none => s.regTrap c i <|> s.entryTrap c i

/-- THE FORM OF AN INSTRUCTION WORD'S MEANING: it takes its trap, or has its effect. -/
def State.runWord (s : State) (i : Instr) (eff : Cursor → State) : Host.Outcome State Fault Refusal :=
  match s.cur with
  | none => .fault .noIssue
  | some c =>
    match s.wordTrap c i with
    | some t => .next (s.takeTrap c t)
    | none => .next (eff c)

end Sys2Proof.Machine
end

