-- ==== Sys2Proof/Machine/Translate.lean ====
section
/-! DEFINITION. Translation of virtual addresses (16 R389 to R394): page-table walks, TLBs, the page-walk cache, and the walks and
page requests of a tower. -/

namespace Sys2Proof.Machine

open Sys2Proof

/-- Permission bits needed: 1 read, 2 write, 4 execute (16 R391). -/
def needR : Nat := 1
def needW : Nat := 2
def needX : Nat := 4

/-- What a walk ends with. -/
inductive WalkRes where
  | ok (e : TlbE)
  | fail
  /-- an entry's 64-byte unit is uncorrectable (16 R475) -/
  | bad (pa : Nat)
  deriving DecidableEq, Repr

/-- Bits of the VA that index a level, as low bit and count (16 R389). -/
def levelBits : Nat → Nat × Nat
  | 6 => (73, 7)
  | l => (13 + 10 * l, 10)

/-- An entry of a tenant's tables: from the page-walk cache of a tower, which holds entries of levels 1 to 6, else from memory (16 R392).
-/
def State.pte (s : State) (tower tenant va t l : Nat) : DWord :=
  let a := t + 8 * (va / 2 ^ (levelBits l).1 % 2 ^ (levelBits l).2)
  match (s.tower tower).pwc.find? fun e => e.1 == tenant && e.2.1 == l && e.2.2.1 == va / 2 ^ (levelBits l).1 && l != 0 with
  | some e => e.2.2.2
  | none => s.mem64 a

/-- Is an entry read from memory, and its 64-byte unit uncorrectable (16 R475)? -/
def State.pteBad (s : State) (tower tenant va a l : Nat) : Bool :=
  s.life.badMem.contains (a / 64) &&
    !((s.tower tower).pwc.any fun e => e.1 == tenant && e.2.1 == l && e.2.2.1 == va / 2 ^ (levelBits l).1 && l != 0)

/-- The physical address of an entry. -/
def pteAddr (va t l : Nat) : Nat := t + 8 * (va / 2 ^ (levelBits l).1 % 2 ^ (levelBits l).2)

/-- A leaf entry that maps `n` pages of 8 KiB (16 R389, R390). -/
def leafOf (tenant va n : Nat) (e : DWord) : TlbE :=
  { tenant := tenant, vpage := va / 8192 / n * n, ppage := bits e 13 39 / n * n, size := n
    r := e.getLsbD 2, w := e.getLsbD 3, x := e.getLsbD 4 }

/-- The walk from a level downwards (16 R389 to R391, R475): its end, and the entries read as level, address and value. -/
def State.walkFrom (s : State) (tower tenant va : Nat) : Nat → Nat → WalkRes × List (Nat × Nat × DWord)
  | t, 0 =>
    let a := pteAddr va t 0
    let e := s.pte tower tenant va t 0
    if !s.isDevice a then (.fail, [])
    else if s.pteBad tower tenant va a 0 then (.bad a, [(0, a, e)])
    else if !e.getLsbD 0 then (.fail, [(0, a, e)])
    else (.ok (leafOf tenant va 1 e), [(0, a, e)])
  | t, l + 1 =>
    let a := pteAddr va t (l + 1)
    let e := s.pte tower tenant va t (l + 1)
    if !s.isDevice a then (.fail, [])
    else if s.pteBad tower tenant va a (l + 1) then (.bad a, [(l + 1, a, e)])
    else if !e.getLsbD 0 then (.fail, [(l + 1, a, e)])
    else if e.getLsbD 1 then
      (if l + 1 > 2 then .fail else .ok (leafOf tenant va (1024 ^ (l + 1)) e), [(l + 1, a, e)])
    else
      let r := s.walkFrom tower tenant va (bits e 13 39 * 8192) l
      (r.1, (l + 1, a, e) :: r.2)

/-- Does a translation give the permissions needed? -/
def TlbE.allows (e : TlbE) (need : Nat) : Bool :=
  (need % 2 == 0 || e.r) && (need / 2 % 2 == 0 || e.w) && (need / 4 % 2 == 0 || e.x)

/-- The physical address under a translation. -/
def TlbE.pa (e : TlbE) (va : Nat) : Nat := e.ppage * 8192 + (va - e.vpage * 8192)

/-- Does a translation cover an address of a tenant? -/
def TlbE.covers (e : TlbE) (tenant va : Nat) : Bool := e.tenant == tenant && va / 8192 / e.size * e.size == e.vpage

/-- The root of a tenant's tree (19 R443: bits [51:10]). -/
def State.rootPa (s : State) (tenant : Nat) : Nat := bits (s.ten tenant).root 10 42 * 1024

/-- Does a translation lead to device or host memory (19 R441)? -/
def State.mapped (s : State) (e : TlbE) (va : Nat) : Bool := s.isDevice (e.pa va) || isHost (e.pa va)

/-- A walk of the whole tree on a tower, with the address map checked (16 R389 to R391, 19 R441), and the entries read. -/
def State.walkTree (s : State) (tower tenant va : Nat) : WalkRes × List (Nat × Nat × DWord) :=
  match s.walkFrom tower tenant va (s.rootPa tenant) 6 with
  | (.ok e, l) => (if s.mapped e va then .ok e else .fail, l)
  | q => q

/-- A walk with its permissions checked (16 R391). -/
def State.walk (s : State) (tower tenant va need : Nat) : WalkRes :=
  match (s.walkTree tower tenant va).1 with
  | .ok e => if e.allows need then .ok e else .fail
  | .fail => .fail
  | .bad a => .bad a

/-- The set of the L2 TLB that holds a translation: the low bits of the number of its page (DESIGN CHOICE, log entry 42: 16 R392 gives 8 ways,
and no index). -/
def TlbE.set (e : TlbE) : Nat := e.vpage / e.size % Config.l2Sets

/-- The L2 TLB with one more translation: the oldest of a full set is dropped (16 R392). -/
def l2Put (l : List TlbE) (e : TlbE) : List TlbE :=
  let r := l.filter fun f => f != e
  let keep := (r.filter fun f => f.set == e.set).take (Config.l2Ways - 1)
  e :: r.filter fun f => f.set != e.set || keep.contains f

/-- A translation through the L1 TLB of a core and the L2 TLB of its tower (16 R392); an L2 hit enters the L1 TLB. Which entry
a full TLB drops is DESIGN CHOICE (log entry 42). -/
def State.xlate (s : State) (core tenant va need : Nat) : Option Nat × State :=
  let ok (e : TlbE) : Bool := e.covers tenant va && e.allows need && (s.isDevice (e.pa va) || isHost (e.pa va))
  match (s.core core).tlb.find? ok with
  | some e => (some (e.pa va), s)
  | none =>
    match (s.tower (core / 48)).l2tlb.find? ok with
    | some e => (some (e.pa va), s.modCore core fun c => { c with tlb := (e :: c.tlb).take Config.l1Tlb })
    | none => (none, s)

/-- A translation through the L2 TLB alone, for copies, fills and islands (16 R392). -/
def State.xlate2 (s : State) (tower tenant va need : Nat) : Option Nat :=
  let ok (e : TlbE) : Bool := e.covers tenant va && e.allows need && (s.isDevice (e.pa va) || isHost (e.pa va))
  ((s.tower tower).l2tlb.find? ok).map fun e => e.pa va

/-- Walks in progress of a tower. -/
def Tower.walking (t : Tower) : Nat := (t.walks.filter fun w => w.due.isSome).length

/-- Gives walkers to the walks that wait, in order of miss (16 R392). -/
def State.startWalks (s : State) (tower : Nat) : State :=
  let t := s.tower tower
  let go := t.walks.foldl (fun (acc : List Walk × Nat × State) w =>
    if w.due.isNone && decide (acc.2.1 < Config.walkers) then
      let (d, s) := acc.2.2.popLag
      (acc.1 ++ [{ w with due := some (s.now + Config.latHome + d) }], acc.2.1 + 1, s)
    else (acc.1 ++ [w], acc.2.1, acc.2.2)) ([], t.walking, s)
  go.2.2.modTower tower fun t => { t with walks := go.1 }

/-- A miss: it waits on the walk of its page, or starts one (16 R392). -/
def State.miss (s : State) (tower tenant va need : Nat) (who : XWho) : State :=
  let t := s.tower tower
  let vp := va / 8192
  let same (w : Walk) : Bool := w.tenant == tenant && w.vpage == vp
  let add (w : Walk) : Walk := 
    if same w && !(w.who.any fun x => x.1 == who && x.2.1 == need) then { w with who := w.who ++ [(who, need, va)] } else w
  if t.walks.any same then s.setTower tower { t with walks := t.walks.map add }
  else
    (s.setTower tower { t with walks := t.walks ++ [{ tenant := tenant, vpage := vp, who := [(who, need, va)] }] }).startWalks tower

end Sys2Proof.Machine
end

