-- ==== Sys2Proof/Machine/Issue.lean ====
section
/-! DEFINITION. Fetch and decode of a packet in a gang's context (01 R17, R30, R32; 03 R84 to R86, R97; 06 R193; 07 R213), readiness
(01 R33 to R35), and the end of a chain group and of a packet. -/

namespace Sys2Proof.Machine

open Sys2Proof

/-! ## Context checks of decode -/

/-- Does a word carry a control byte (03 R86)? -/
def hasCtl : Instr → Bool
  | .fadd x _ _ _ | .fsub x _ _ _ | .fmul x _ _ _ | .ffma x _ _ _ | .fmin x _ _ _ | .fmax x _ _ _ | .fcmp x _ _ _ _ => x
  | .fclass x _ _ | .frnd x _ _ | .hadd2 x _ _ _ _ | .hmul2 x _ _ _ _ | .hfma2 x _ _ _ _ => x
  | .cvtFromFloat x _ _ _ _ | .cvtFromInt x _ _ _ _ => x
  | .rcp x _ _ | .rsq x _ _ | .sqrt x _ _ | .log2 x _ _ | .exp2 x _ _ | .sin x _ _ | .cos x _ _ => x
  | _ => false

/-- The control byte of slot `k` (03 R86). -/
def ctlByte (lit k : Nat) : Nat := lit / 2 ^ (8 * k) % 256

/-- The highest V register that a word names (01 R17). -/
def instrMaxV (i : Instr) : Option Nat :=
  ((instrRegs i).filterMap fun r => match r with
    | .v n => some n
    | .s _ | .a _ | .k _ | .h _ | .t _ => none).max?

/-- The queue kinds that a word accepts (06 R193; 07 R221, R227, R228). -/
def queueNeed : Instr → Option (Nat × List Nat)
  | .qpush q _ => some (q.val, [2, 3])
  | .qpop _ q => some (q.val, [1, 4])
  | .qpeek _ q => some (q.val, [1, 4])
  | .islpush _ q _ _ => some (q.val, [2])
  | .islrecv _ q _ => some (q.val, [1])
  | .mmaQ _ q _ _ => some (q.val, [1, 3])
  | _ => none

/-- A word of primary 0x62. -/
def isMma : Instr → Bool
  | .mma .. | .mmaI .. | .mmaAd .. | .mmaQ .. => true
  | _ => false

/-- A copy word with F[0] = 1 (07 R213). -/
def isThen : Instr → Bool
  | .copy f _ _ _ _ => f
  | .copyPlane f _ _ _ _ => f
  | _ => false

/-- The pipes (01 R32, R49). -/
inductive Pipe where
  | none | v | v0 | x | m | c
  deriving DecidableEq, Repr

/-- The pipe of a word (01 R32, R49; 04 R109 to R118; 06; 07 R198, R230 to R234). -/
def pipeOf : Instr → Pipe
  | .iadd .. | .isub .. | .imin .. | .imax .. | .iabs .. | .ineg .. | .and .. | .or .. | .xor .. | .andn .. | .not ..
  | .shl .. | .shr .. | .sar .. | .rot .. | .bfe .. | .bfi .. | .sel .. | .popc .. | .clz .. | .ctz .. | .brev .. | .mov ..
  | .movi .. | .icmp .. | .imul .. | .imad .. => .v
  | .fadd .. | .fsub .. | .fmul .. | .ffma .. | .fmin .. | .fmax .. | .fcmp .. | .fclass .. | .frnd ..
  | .hadd2 .. | .hmul2 .. | .hfma2 .. | .dot4F8 .. | .dot4I8 .. => .v
  | .expr .. => .v0
  | .idiv .. | .irem .. | .cvtFromFloat .. | .cvtFromInt .. | .rcp .. | .rsq .. | .sqrt .. | .log2 .. | .exp2 .. | .sin ..
  | .cos .. | .shfl .. | .bcast .. | .perm .. | .ballot .. | .vote .. | .scan .. | .reduce .. => .x
  | .sadd .. | .ssub .. | .sand .. | .sor .. | .sshl .. | .sshr .. | .smul .. | .scmp .. | .movs _ | .adda .. | .lea ..
  | .mova _ | .kand .. | .kor .. | .knot .. | .kpop .. | .setx _ | .getx _ => .c
  | .br _ | .brk .. | .brs .. | .jmp _ | .callIndirect .. | .ret _ | .call _ | .loop .. | .endl | .join _ | .regang
  | .yield | .exit => .c
  | .rdsr .. | .wrsr .. | .trap _ | .brkpt _ | .dbgmark _ | .endGang | .halt | .sleep _ | .getinfo .. => .c
  | .ld .. | .st .. | .ldg .. | .stg .. | .ldAcq .. | .stRel .. | .atom .. | .pref .. | .ldv .. | .stv .. | .atomv ..
  | .fence _ | .fenceX .. | .afence .. => .m
  | .nbinit .. | .nbarr .. | .nbwait .. | .tgarr .. | .tgwait .. | .tgjoin _ | .tgleave _ | .evsig _ | .evwait ..
  | .evtest .. | .qbind .. | .qpush .. | .qpop .. | .qpeek .. | .qdepth .. => .m
  | .shape .. | .copy .. | .copyCsr .. | .copyPlane .. | .copyQ .. | .cpstat .. | .mma .. | .mmaI .. | .mmaAd .. | .mmaQ ..
  | .macq _ | .mrel _ | .mlda .. | .msta .. | .mclr _ | .adinv _ | .islpush .. | .islrecv .. | .islstat .. => .m
  | _ => .none

/-- Pipe-busy cycles at widths 16 and 32 (01 R49). -/
def busyOf : Instr → Nat
  | .idiv .. | .irem .. => 8
  | .rcp .. | .rsq .. | .sqrt .. | .log2 .. | .exp2 .. | .scan .. | .reduce .. => 2
  | .sin .. | .cos .. => 4
  | _ => 1

/-- The first word of a group whose pipe the words before it have used up (01 R32, 03 R97); `n` counts V, X, M, C words. -/
def overPipes : Nat → Nat → Nat → Nat → List PWord → Option Nat
  | _, _, _, _, [] => none
  | v, x, m, c, w :: r =>
    match pipeOf w.i with
    | .none => overPipes v x m c r
    | .v | .v0 => if v ≥ 2 then some w.slot else overPipes (v + 1) x m c r
    | .x => if x ≥ 1 then some w.slot else overPipes v (x + 1) m c r
    | .m => if m ≥ 1 then some w.slot else overPipes v x (m + 1) c r
    | .c => if c ≥ 1 then some w.slot else overPipes v x m (c + 1) r

/-- The lowest of the slots. -/
def minSlot (l : List Nat) : Option Nat := l.min?

/-- The slots in which a packet of decoded words meets an UNDEF case of its context.  DESIGN CHOICE (log entry 6): where one word names LIT
and another PLIT (03 R84), R97 does not say which of them holds the failing field; the model counts the slots of all words that name either.
`mm` are the slots of words of primary 0x62 that are no instruction, which count as the MMA-family word of 07 R213. -/
def State.contextBad (s : State) (g : Nat) (p : Packet) (ws : List PWord) (mm : List Nat := []) : List Nat :=
  let x := s.gang g
  let gs := chainGroups ws
  let lits := (ws.filter fun w => (instrSrcs w.i).contains .lit).map (·.slot)
  let plits := (ws.filter fun w => (instrSrcs w.i).contains .plit).map (·.slot)
  let one (w : PWord) : Bool :=
    (match instrMaxV w.i with
     | some n => decide (x.nv ≤ n)
     | none => false) ||
    (plits.contains w.slot && decide ((s.crew x.crew).patch.length ≤ p.w3 % 256)) ||
    (hasCtl w.i && decide (6 ≤ ctlByte p.w3 w.slot / 32)) ||
    (match queueNeed w.i with
     | some (q, ks) => !ks.contains (Sparse.get {} x.q q).b.kind
     | none => false) ||
    (isThen w.i && !(ws.any fun m => (isMma m.i || mm.contains m.slot) && decide (w.slot < m.slot) &&
      !(gs.any fun gr => gr.contains w && gr.contains m)))
  (ws.filter one).map (·.slot) ++ gs.filterMap (overPipes 0 0 0 0) ++
    (if lits.isEmpty || plits.isEmpty then [] else lits ++ plits)

/-- A packet's control words above the lowest act as NOP (04 R118). -/
def oneControl (ws : List PWord) : List PWord :=
  let k := ((ws.filter fun w => isControl w.i).map (·.slot)).headD 0
  ws.map fun w => if isControl w.i && w.slot != k then { w with i := .nop } else w

/-- Decode of a packet in a gang's context: its words, or the lowest slot that meets an UNDEF case (03 R97).  A word that is no
instruction keeps its place in the chain groups in which the other words are examined (01 R30). -/
def State.decodePacket (s : State) (g : Nat) (p : Packet) : Except Nat (List PWord) :=
  if p.isExpr then
    match p.words with
    | .error k => .error k
    | .ok ws => if (s.contextBad g p ws).isEmpty then .ok ws else .error 0
  else
    let slot (k w : Nat) : List (Bool × PWord) :=
      if removedWord w then []
      else
        let chain := fld w 31 1 == 1 && k < 2
        match decodeWord w with
        | .error _ => [(false, { slot := k, i := .nop, chain := chain })]
        | .ok i => [(true, { slot := k, i := i, chain := chain })]
    let all := slot 0 p.w0 ++ slot 1 p.w1 ++ slot 2 p.w2
    let ws := all.map (·.2)
    let undef := (all.filter fun q => !q.1).map (·.2.slot)
    let mm := undef.filter fun k => fld (if k = 0 then p.w0 else if k = 1 then p.w1 else p.w2) 23 7 == 0x62
    let bad := undef ++ s.contextBad g p ws mm
    match minSlot bad with
    | some k => .error k
    | none => .ok (oneControl ws)

/-! ## Fetch (03 R76; 16 R395) -/

/-- The 16 bytes of a packet from the L1 instruction cache, with the physical address looked up; the line must be present. -/
def State.cachedPacket (s : State) (core pa : Nat) : Option Packet :=
  match (s.core core).l1i.lookup (pa / 128) with
  | none => none
  | some l => some (Packet.ofBytes fun k => (l[pa % 128 + k]?).getD 0)

/-- Fills a line of the L1 instruction cache with the home's data (08 R247); the oldest line makes room. -/
def State.fillCode (s : State) (core pa : Nat) : State :=
  let line := pa / 128
  s.modCore core fun c => { c with l1i := ((line, s.bytes (line * 128) 128) :: c.l1i).take Config.l1iLines }

/-- What a fetch finds. -/
inductive Fetched where
  | packet (p : Packet)
  /-- the translation misses -/
  | miss
  /-- the line is not in the cache -/
  | fill (pa : Nat)
  deriving DecidableEq, Repr

/-- Fetch of the packet at a PC. -/
def State.fetch (s : State) (g : Nat) (pc : PAddr) : Fetched :=
  let x := s.gang g
  match (s.xlate x.core x.tenant (pcAddr pc).toNat needX).1 with
  | none => .miss
  | some pa =>
    match s.cachedPacket x.core pa with
    | none => .fill pa
    | some p => .packet p

/-! ## Readiness (01 R33 to R35) -/

/-- The subgangs of a gang that are ready in this cycle, by their lowest slices (01 R35, R37; 04 R118).  DESIGN CHOICE (log entry 7): a subgang in
which only some slices are under the wait of R118 waits until all its slices are ready; R118 binds the slices that take the transfer, and
R37 makes one subgang of all slices with that PC. -/
def State.readySubs (s : State) (x : Gang) : List (List Nat) :=
  let firsts := (List.range x.slices.length).filter fun k =>
    (sliceAt x.slices k).live && !(sliceAt x.slices k).wait && (subgangOf x.slices k).headD 64 == k
  (firsts.map (subgangOf x.slices)).filter fun sub => sub.all fun k => decide ((sliceAt x.slices k).ready ≤ s.now)

/-- The subgang whose turn it is (01 R35). -/
def turn (last : Nat) (subs : List (List Nat)) : Option (List Nat) :=
  match subs.find? fun sub => decide (last < sub.headD 64) with
  | some sub => some sub
  | none => subs.head?

/-- The key of a copy: its number above its crew. -/
def copyKey (u id : Nat) : Nat := id * 2 ^ 40 + u

/-- The youngest copy in which gang `g` took part and whose follow-on is not yet accepted: it counts as issued by the gang, and as in flight
(01 R26; 07 R213). -/
def State.pendingFollow (s : State) (g : Nat) : Option Nat :=
  let u := (s.gang g).crew
  (((s.crew u).copies.filter fun c => (c.parts.any fun p => p.gang == g) && c.parts.any fun p => p.wants && p.follow.isSome).getLast?).map fun c =>
    copyKey u c.id

/-- Does a word take an operand-log entry (01 R45; 06 R164; 07 R200)? -/
def takesLog (s : State) (g : Nat) : Instr → Bool
  | .ld .. | .st .. | .ldg .. | .stg .. | .ldAcq .. | .stRel .. | .atom .. => true
  | .ldv _ _ _ ba | .stv _ _ _ ba | .atomv _ _ _ ba =>
    let u := (s.gang g).crew
    s.window u (bits ((s.gang g).sreg ba.val) 32 8) != some u
  | .call _ | .callIndirect .. => true
  | .nbarr .. | .nbwait .. | .tgarr .. | .tgwait .. | .evwait .. | .evtest .. | .qpop .. | .qpeek .. | .qdepth .. => true
  | .shape .. | .cpstat .. | .macq _ | .mlda .. | .islrecv .. | .islstat .. | .getinfo .. => true
  | .rdsr _ n => decide (2 ≤ n.toNat) && !(n == 2 && (s.gang g).mtx == 0 && (s.pendingFollow g).isNone)
  | _ => false

/-- An own-vault vault word. -/
def State.ownVault (s : State) (g : Nat) (i : Instr) : Bool :=
  match vaultAddr i with
  | none => false
  | some (ba, _) => s.window (s.gang g).crew (bits ((s.gang g).sreg ba.val) 32 8) == some (s.gang g).crew

/-- An acquire or fence that holds own-vault words at issue (08 R240); a pending NBWAIT, TGWAIT or EVWAIT is an acquire of VLT accesses too when
it completes (06 R179; 09 R259, case 3). -/
def holdsVault : Instr → Bool
  | .ldAcq .. | .atom .. | .fence _ | .afence .. | .nbwait .. | .tgwait .. | .evwait .. => true
  | .fenceX _ _ p2 => p2 == .vlt
  | _ => false

/-- Free room of a queue (06 R194). -/
def QState.room (q : QState) : Nat := 16 - q.recs.length

/-- Is there room for what a word starts: log, queue and engine room (01 R34; 06 R194; 07 R207; 11 R313), and for a push to
I1 of a crew that borrows the core the kernel's image in it (12 R344)? -/
def State.roomFor (s : State) (g : Nat) (sub : List Nat) (i : Instr) : Bool :=
  let x := s.gang g
  let act := !(activeLanes x.slices sub).isEmpty
  let cr := s.crew x.crew
  match i with
  | .qpush q _ | .islpush _ q _ _ =>
    let st : QState := Sparse.get {} x.q q.val
    decide ((sub.filter fun k => (sliceAt x.slices k).mask != 0).length ≤ st.room) &&
      (st.b.kind != 2 || st.b.isel != 1 || !cr.rt || (s.launch cr.lent).img.isNone ||
        ((s.core x.core).i1.img == (s.launch cr.lent).img && (s.core x.core).i1.loading.isNone))
  | .copy _ _ h _ _ | .copyCsr h _ _ | .copyPlane _ _ h _ _ | .copyQ h _ _ =>
    !act || (cr.gathering h.val).isSome || decide ((cr.copies.filter fun p => !p.moved).length < 16)
  | .mma .. | .mmaI .. | .mmaAd .. | .mmaQ .. => !act || decide ((s.core x.core).minsts.length < 8)
  | .mclr t => !((s.core x.core).tok t.val).isEngine || decide ((s.core x.core).minsts.length < 8)
  | _ => true

/-- The pipes of a quarter: busy until these cycles (01 R33). -/
def State.pipeAt (s : State) (core quarter k : Nat) : Nat := Sparse.get 0 (s.core core).pipes (quarter * 5 + k)

/-- Pipe numbers: V0, V1, X, M, C. -/
def Pipe.ix : Pipe → Option Nat
  | .none => Option.none
  | .v => some 0
  | .v0 => some 0
  | .x => some 2
  | .m => some 3
  | .c => some 4

/-- Which pipe each word of a group takes, with V words filling V0 then V1; none where one is still occupied (01 R32, R33). -/
def State.takePipes (s : State) (core quarter : Nat) : List PWord → List Nat → Option (List (Instr × Nat))
  | [], _ => some []
  | w :: r, used =>
    let free (k : Nat) : Bool := !used.contains k && decide (s.pipeAt core quarter k ≤ s.now)
    let pick : Option (Option Nat) := match pipeOf w.i with
      | .none => some none
      | .v => if free 0 then some (some 0) else if free 1 then some (some 1) else none
      | p => match p.ix with
        | some k => if free k then some (some k) else none
        | none => some none
    match pick with
    | none => none
    | some none => s.takePipes core quarter r used
    | some (some k) => (s.takePipes core quarter r (k :: used)).map fun l => (w.i, k) :: l

/-- Does a word that names no lanes do nothing, and so take no log entry, with no active lane (07 R199)? -/
def needsLane : Instr → Bool
  | .mlda .. | .islrecv .. => true
  | _ => false

/-- The log entries that a group needs: a word with no active lane takes none, unless it acts whatever EXEC holds (01 R45; 06 R162; 07 R199). -/
def State.logNeed (s : State) (g : Nat) (sub : List Nat) (gr : List PWord) : Nat :=
  let act := !(activeLanes (s.gang g).slices sub).isEmpty
  (gr.filter fun w => takesLog s g w.i && (act || (instrAnyExec w.i && !needsLane w.i) || w.i matches .qdepth .. || w.i matches .getinfo .. ||
    w.i matches .rdsr ..)).length

/-- May this group issue now: pipes, log room, engine room, and no acquire or fence ahead of an own-vault word?  An attached MMA-family
word does not go to the engine from the gang (07 R213). -/
def State.groupReady (s : State) (g : Nat) (sub : List Nat) (gr : List PWord) (attached : Bool := false) : Bool :=
  let x := s.gang g
  let act := !(activeLanes x.slices sub).isEmpty
  let full := decide (8 < x.logUsed + s.logNeed g sub gr)
  (s.takePipes x.core x.quarter gr []).isSome && (!full || x.faulted) && gr.all (fun w => (attached && isMma w.i) || s.roomFor g sub w.i) &&
    !(gr.any (fun w => s.ownVault g w.i) && act && x.ops.any fun o => holdsVault o.i)

/-- What a gang that is ready will do: issue the next group of a packet in progress, or take the packet of a subgang. -/
inductive Next where
  | group (c : Cursor)
  | packet (sub : List Nat)
  deriving DecidableEq, Repr

/-- The next act of a gang, none where it is not ready (01 R34). -/
def State.nextOf (s : State) (g : Nat) : Option Next :=
  let x := s.gang g
  if !x.here || x.parked || x.stop.isSome || x.aside || x.fetchWait || decide (s.now < x.notBefore) || (s.crew x.crew).imgWait then none
  else
    match x.resume with
    | some c =>
      if (c.slices.all fun k => decide ((sliceAt x.slices k).ready ≤ s.now)) && s.groupReady g c.slices (c.groups.headD []) !c.parts.isEmpty then
        some (.group c) else none
    | none =>
      match turn x.lastSlice (s.readySubs x) with
      | none => none
      | some sub =>
        match s.fetch g (sliceAt x.slices (sub.headD 0)).pc with
        | .packet p =>
          match s.decodePacket g p with
          | .error _ => some (.packet sub)
          | .ok ws =>
            let gr := (chainGroups ws).headD []
            if x.trapNext.isSome || x.mstep || x.stopNext || s.groupReady g sub gr then some (.packet sub) else none
        | .miss => some (.packet sub)
        | .fill _ => some (.packet sub)

/-! ## Chain groups and packets -/

/-- The pipes that a group takes become busy (01 R33). -/
def State.holdPipes (s : State) (x : Gang) (l : List (Instr × Nat)) : State :=
  s.modCore x.core fun c =>
    { c with
      pipes := l.foldl (fun m p =>
        let n := busyOf p.1 * (if x.width = 64 ∧ p.2 ≤ 2 then 2 else 1)
        Sparse.set 0 m (x.quarter * 5 + p.2) (s.now + n)) c.pipes
      lastIssue := Sparse.set 0 c.lastIssue x.quarter (s.now + 1) }

/-- Starts the first of the groups that are left (01 R31). -/
def State.startGroup (s : State) (c : Cursor) : State :=
  let x := s.gang c.gang
  let gr := c.groups.headD []
  let s := s.holdPipes x ((s.takePipes x.core x.quarter gr []).getD [])
  let s := s.modGang c.gang fun x => { x with lastIssue := s.now + 1, resume := none }
  { s with cur := some { c with group := gr, words := gr, groups := c.groups.drop 1, seq0 := x.nextSeq, tag0 := x.nextTag } }

/-- A gang none of whose slices is live leaves its quarter; its operations go on (04 R131). -/
def Gang.retireIfDone (x : Gang) : Gang :=
  if x.slices.any fun k => k.live then x
  else { x with parked := false, stop := none, resume := none, trapNext := none, fetchWait := false }

/-- The gang has retired: no slice is live. -/
def Gang.retired (x : Gang) : Bool := x.here && !(x.slices.any fun k => k.live)

/-- A wait word, whose gang ends at once on a cancel while it is parked (15 R386). -/
def isWait : Instr → Bool
  | .nbwait .. | .tgwait .. | .evwait .. | .macq _ | .qpop .. | .qpeek .. => true
  | _ => false

/-- A gang ends as by END where it stands: pending wait results and held operations are discarded. -/
def State.endGang (s : State) (g : Nat) : State :=
  s.modGang g fun x =>
    let gone := x.ops.filter fun o => isWait o.i || (x.faulted && o.logged)
    let y := gone.foldl (fun y o => y.unmarkAll o.tag) x
    let qs := y.q.map fun p => (p.1, { p.2 with waits := p.2.waits.filter fun w => !(gone.any fun o => o.tag == w.tag) })
    { y with
      ops := y.ops.filter fun o => !gone.contains o
      q := qs.filter fun p => p.2 != {}
      slices := y.slices.map Slice.ended
      parked := false, stop := none, resume := none, trapNext := none, fetchWait := false, faulted := false
      stopNext := false, notBefore := 0 }

/-- Is a gang that a cancel has reached parked on a wait, at which it ends at once (15 R386)? -/
def Gang.cancelledWait (x : Gang) : Bool := x.cancelAt.isSome && x.parked && x.ops.any fun o => isWait o.i

/-- THE END OF A PACKET (01 R35, R43; 04 R118, R132): slices move on, the control word takes effect, a switch packet parks.  A gang that ends
while it holds a data fault has no further packet, and stops here (01 R46; 04 R131). -/
def State.endPacket (s : State) (c : Cursor) : State :=
  let s := s.modGang c.gang fun x =>
    ({ x with
      slices := c.slicesAfter x.slices
      lastSlice := c.slices.headD 0
      skipBrk := if x.skipBrk = some c.pc then none else x.skipBrk
      skipHw := if x.skipHw = some c.pc then none else x.skipHw
      notBefore := if c.act = .yield then max x.notBefore (s.now + 3) else x.notBefore
      parked := c.switch
      stopNext := x.stopNext || (c.switch && x.faulted) } : Gang).retireIfDone
  let x := s.gang c.gang
  if x.cancelledWait then s.endGang c.gang
  else if x.faulted && !(x.slices.any fun k => k.live) then s.stopPoint c.gang c.pc none else s

/-- THE END OF A CHAIN GROUP: the rest of the packet waits for the gang's next issue opportunity, or the packet ends. -/
def State.endGroup (s : State) (c : Cursor) : State :=
  let s := { s with cur := none }
  if c.groups.isEmpty then s.endPacket c else s.modGang c.gang fun x => { x with resume := some { c with words := [] } }

end Sys2Proof.Machine
end

