-- ==== Sys2Proof/Machine/Pipeline.lean ====
section
/-! DEFINITION. The pipeline's steps (01): PACKET_DECODE, RESULT_WRITEBACK, SWITCH_PARK_END, DATA_FAULT, GANG_RESUME, NOP. -/

namespace Sys2Proof.Machine

open Sys2Proof

/-- A hardware breakpoint that matches a packet: register number and lowest matching slot (07 R233).  DESIGN CHOICE (log entry 31): a write of a debug
register acts from the next fetch on; 19 R444 names 2,100 cycles after which it does, and leaves the packets before open. -/
def State.breakpoint (s : State) (tenant : Nat) (pc : PAddr) (expr : Bool) : Option (Nat × Nat) :=
  let t := s.ten tenant
  let hit (k : Nat) : Option (Nat × Nat) :=
    let a := Sparse.get 0 t.bpa k
    let b := Sparse.get 0 t.bpb k
    let m := bits b 0 3
    if b.getLsbD 3 && m != 0 && bits a 4 60 + 2 ^ 60 * bits b 48 16 == pc.toNat then
      some (k, if expr then 0 else if m % 2 = 1 then 0 else if m / 2 % 2 = 1 then 1 else 2)
    else none
  ((List.range 8).filterMap hit).head?

/-- Does a group need log entries that a full log of a faulted gang does not give (01 R46)? -/
def State.logStop (s : State) (g : Nat) (sub : List Nat) (gr : List PWord) : Bool :=
  let x := s.gang g
  x.faulted && decide (8 < x.logUsed + s.logNeed g sub gr)

/-- The words of a packet that are BRKPT: the lowest slot and its code, unless it acts as NOP this once (07 R232). -/
def Gang.brkWord (x : Gang) (pc : PAddr) (ws : List PWord) : Option (Nat × BitVec 16) :=
  if x.skipBrk = some pc then none
  else (ws.filterMap fun w => match w.i with
    | .brkpt code => some (w.slot, code)
    | _ => none).head?

/-- BRKPT (07 R232, R233): a precise trap; when the gang is resumed at this packet, the stop does not repeat. -/
def State.stopBrk (s : State) (g : Nat) (t : Trap) (pc : PAddr) (f : Gang → Gang) : State :=
  if (s.gang g).faulted then s.stopPoint g pc none else (s.modGang g f).stopGang g t.tstat 0 pc none

/-- A packet that has passed decode: BRKPT, the log, or its first group (07 R232, 01 R46). -/
def State.enterPacket (s : State) (g : Nat) (sub : List Nat) (pc : PAddr) (p : Packet) (ws : List PWord) : State :=
  let x := s.gang g
  match x.brkWord pc ws with
  | some (k, code) => s.stopBrk g { cause := 13, slot := k, code := code.toNat } pc fun x => { x with skipBrk := some pc }
  | none =>
    if s.logStop g sub ((chainGroups ws).headD []) then s.stopPoint g pc none
    else
      s.startGroup
        { gang := g, pc := pc, slices := sub, slot := 0, raw := BitVec.ofNat 32 p.w3
          lit := (((s.crew x.crew).patch)[p.w3 % 256]?).getD 0, seq0 := 0, tag0 := 0, group := [], words := []
          groups := chainGroups ws, ctl := ((ws.filter fun w => isControl w.i).map (·.slot)).head?, parts := []
          switch := p.isSwitch }

/-- PACKET_DECODE: a ready gang issues its next chain group, or a packet reaches decode; the whole packet is checked before
any word issues (01 R30, R31; 03 R97). -/
def execPacketDecode (g : Nat) (s : State) : Host.Outcome State Fault Refusal :=
  let x := s.gang g
  match s.nextOf g with
  | none => .next s
  | some (.group c) =>
    if s.logStop g c.slices (c.groups.headD []) then .next (s.stopPoint g c.pc (some c)) else .next (s.startGroup c)
  | some (.packet sub) =>
    let pc := (sliceAt x.slices (sub.headD 0)).pc
    match x.trapNext with
    | some (ts, m) => .next (s.stopGang g ts m pc none)
    | none =>
      if x.mstep then .next (s.stopBrk g { cause := 13, info := 9 } pc fun x => { x with mstep := false })
      else if x.stopNext then .next (s.stopPoint g pc none)
      else
        match s.fetch g pc with
        | .miss =>
          .next ((s.modGang g fun x => { x with fetchWait := true }).miss (x.core / 48) x.tenant (pcAddr pc).toNat needX (.fetch g))
        | .fill pa =>
          let (n, s) := s.lineLat x.core (pa / 128) x.tenant
          .next ((s.fillCode x.core pa).modGang g fun x => { x with notBefore := s.now + n })
        | .packet p =>
          let s := (s.xlate x.core x.tenant (pcAddr pc).toNat needX).2
          match (if x.skipHw = some pc then none else s.breakpoint x.tenant pc p.isExpr) with
          | some (k, slot) =>
            .next (s.stopBrk g { cause := 13, info := k + 1, slot := slot } pc fun x => { x with skipHw := some pc })
          | none =>
            match s.decodePacket g p with
            | .error k => .next (s.stopPrecise g { cause := 1, slot := k } pc none)
            | .ok ws => .next (s.enterPacket g sub pc p ws)

/-- A write that ORs into K7. -/
def Write.isK7 : Write → Bool
  | .k7 _ => true
  | .v _ _ | .s _ _ | .a _ _ | .k _ _ | .exec _ | .mode _ | .flags _ | .vault _ _ _ | .h _ _ _ => false

/-- Is a result an own-vault store, which takes effect in the turn of its quarter (06 R175)? -/
def Wb.toVault (e : Wb) : Bool := e.writes.any fun w => w matches .vault _ _ _

/-- Is a result due in this turn: a register's at the start of its cycle, a vault's in the turn of the quarter? -/
def Wb.dueIn (e : Wb) (now turn : Nat) : Bool := decide (e.due ≤ now) && e.toVault == decide (turn ≠ 0)

/-- The results of a gang that are due, in the order in which they take effect (01 R40); the ORs into K7 come last (05 R152). -/
def Gang.dueWb (x : Gang) (now turn : Nat) : List Wb :=
  let l := x.wb.filter fun e => e.dueIn now turn
  l.map (fun e => { e with writes := e.writes.filter fun w => !w.isK7 }) ++
    l.map fun e => { e with writes := e.writes.filter Write.isK7, flags := 0 }

/-- RESULT_WRITEBACK: fixed-latency results become visible at exactly their latency (01 R39, R40, R25). -/
def execResultWriteback (g : Nat) (s : State) : Host.Outcome State Fault Refusal :=
  let due := (s.gang g).dueWb s.now s.phase
  let s' := due.foldl (fun s e =>
    match (s.gang g).wb.find? fun y => y.seq == e.seq with
    | some y => s.land g { e with writes := y.writes.filter fun w => e.writes.any fun v => v.isK7 == w.isK7 }
    | none => s) s
  .next (s'.modGang g fun x => { x with wb := x.wb.filter fun e => !e.dueIn s.now s.phase })

/-- SWITCH_PARK_END: no lane of any register is pending, and the gang may issue again (01 R43); a gang that a cancel reached
before that packet ends (15 R386). -/
def execSwitchParkEnd (g : Nat) (s : State) : Host.Outcome State Fault Refusal :=
  let x := s.gang g
  if x.parked && (x.pend.isEmpty || x.stopNext) then
    let s' := s.modGang g fun x => { x with parked := false }
    match x.cancelAt with
    | some t => if t < x.lastIssue then .next (s'.endGang g) else .next s'
    | none => .next s'
  else .next s

/-- A data fault of operation `tag` in some lanes (01 R46): those lanes are held, and a gang that is parked after a switch
packet stops at its next packet.  A gang whose slices have all ended has no further packet (07 R131), and stops at once. -/
def State.dataFault (s : State) (g tag : Nat) (k : FaultKind) (lanes : DWord) : State :=
  let s := s.modOp g tag fun o =>
    { o.hold k lanes with acc := o.acc.map fun l => if lanes.getLsbD l.lane then { l with st := .held } else l }
  let s := s.modGang g fun x => { x with faulted := true, stopNext := x.stopNext || x.parked, parked := false }
  let x := s.gang g
  if x.stop.isNone && !(x.slices.any fun k => k.live) then s.stopPoint g ((x.slices.headD {}).pc) none else s

/-- DATA_FAULT: a fault met by an operation of a gang (01 R46; an uncorrectable error writes a record, 20 R466, R468). -/
def execDataFault (g tag : Nat) (k : FaultKind) (lanes : DWord) (s : State) : Host.Outcome State Fault Refusal :=
  match s.op? g tag with
  | none => .next s
  | some o =>
    let m := lanes &&& o.lanes
    if m = 0 || !o.logged then .next s
    -- with ECC off device memory detects nothing (20 R465)
    else if k = .uncorrectable && s.life.eccOff && (vaultAddr o.i).isNone then .next s
    else
      let s := s.dataFault g tag k m
      let x := s.gang g
      if k = .uncorrectable then
        -- the 64-byte units of memory that failed stay uncorrectable (20 R466)
        let ls := o.acc.filter fun a => m.getLsbD a.lane && a.st != .xlat && s.isDevice a.pa && (memAddr o.i).isSome
        let s : State := { s with life := { s.life with badMem := (s.life.badMem ++ ls.map fun (a : LaneAcc) => a.pa / 64).dedup } }
        .next (s.memError (some x.tenant) ((o.acc.headD { lane := 0, addr := 0 }).pa / 128))
      else .next s

/-- GANG_RESUME: system software resumes a stopped gang; held operations re-issue from their recorded operands (01 R47,
07 R232); a matrix instruction that matrix stepping has paused goes on (07 R233).  A gang that a borrow or a save has set aside goes on after it,
with its operations held until then (16 R402). -/
def execGangResume (g : Nat) (s : State) : Host.Outcome State Fault Refusal :=
  if (s.gang g).stop = some .software ∧ ((s.gang g).aside ∨ !(s.gang g).here) then .next (s.at (s.now + 16) (.gangResume g))
  else if (s.gang g).stop = some .software then
    .next ((s.leaveStop g).modCore (s.gang g).core fun c =>
      { c with minsts := c.minsts.map fun m => if m.gang = g then { m with paused := false } else m })
  else .next s

/-- NOP has no effect (03 R78). -/
def execNop (s : State) : Host.Outcome State Fault Refusal := s.runWord .nop fun _ => s

end Sys2Proof.Machine
end

