-- ==== Sys2Proof/Machine/Cancel.lean ====
section
/-! DEFINITION. The cancel of a launch at its gangs (15 R386; 16 R396, R414), and refused page faults. -/

namespace Sys2Proof.Machine

open Sys2Proof

/-- A cancel reaches a gang (15 R386): one that is parked on a wait, stopped or set aside by a borrow ends at once. -/
def State.cancelGang (s : State) (g : Nat) : State :=
  let x := s.gang g
  if x.aside || x.stop.isSome || (x.parked && x.ops.any fun o => isWait o.i) then s.endGang g
  else (s.modGang g fun x => { x with cancelAt := some s.now }).at (s.now + 65536) (.cancelTimeout g)

/-- A cancel of a launch by HALT or by the management core (15 R385): its CAUSE is recorded, and the request goes to the scheduler. -/
def State.askCancel (s : State) (l cause : Nat) : State :=
  let la := s.launch l
  if !la.used || la.finished || la.cancel != 0 then s
  else (s.setLaunch l { la with cancel := cause }).at s.now (.cancel la.tenant (pack [(58, la.queue), (0, la.n)]))

/-- A refused fault of a memory word (16 R396): FHOLD = 0 cancels the launch with CAUSE 3; FHOLD = 1 stops the gang at its stop
point. -/
def State.pageRefused (s : State) (g tag : Nat) : State :=
  let s := s.modOp g tag fun o => { o with refused := true }
  let x := s.gang g
  if (s.ten x.tenant).fctl1.getLsbD 16 then
    if x.stop = some .fault then
      (s.modGang g fun x => { x with stop := none }).stopPoint g (addrPc x.tpc) x.resume
    else s
  else s.askCancel (s.crew x.crew).lent 3

/-- May the park of a gang last: it waits for a matrix instruction, which a cancel stops (15 R386), or for the records of an ISLRECV? -/
def Gang.longPark (x : Gang) : Bool := x.ops.any fun o => (o.i matches .rdsr ..) || (o.i matches .islrecv ..) || isMma o.i

/-- CANCEL_TIMEOUT (15 R386): a gang that has issued no switch packet within 65,536 cycles of the cancel ends at its next packet
boundary; the park of one that has issued one will end, but for one that waits for an engine, which ends here (DESIGN CHOICE, log entry 57). -/
def execCancelTimeout (g : Nat) (s : State) : Host.Outcome State Fault Refusal :=
  let x := s.gang g
  match x.cancelAt with
  | none => .next s
  | some t =>
    if s.now < t + 65536 ∨ !x.here then .next s
    else if x.parked && decide (t < x.lastIssue) && !x.longPark then .next s
    else if x.resume.isSome && x.stop.isNone then .next (s.at (s.now + 1) (.cancelTimeout g))
    else .next (s.endGang g)

/-- HALT (07 R234): every gang of the crew ends, this one after its packet, and the crew's launch is cancelled with CAUSE 2 before the crew
retires. -/
def execHalt (s : State) : Host.Outcome State Fault Refusal :=
  s.runWord .halt fun c =>
    let u := (s.gang c.gang).crew
    let others := (s.gangs.filter fun p => p.2.crew == u && p.1 != c.gang).map (·.1)
    let s := (others.foldl (fun s g => s.endGang g) s).askCancel (s.crew u).lent 2
    { s with cur := some { c with fin := true } }

end Sys2Proof.Machine
end

