-- ==== Sys2Proof/Machine/Fp.lean ====
section
/-! DEFINITION. Floating-point arithmetic (02 R52 to R58; 05 R136 to R148): codes, exact values, rounding, conversions and special
functions.  A code is a natural number below 2 to its format's width. -/

namespace Sys2Proof.Machine

open Sys2Proof

/-- A floating format (02 R52): exponent and fraction widths, bias, the code of its largest finite magnitude, of its infinity, of
its canonical NaN. -/
structure FFmt where
  ew : Nat
  mw : Nat
  bias : Nat
  maxc : Nat
  infc : Option Nat
  nanc : Option Nat
  /-- has signalling NaNs (02 R53) -/
  snan : Bool
  deriving DecidableEq, Repr

def fF32 : FFmt := { ew := 8, mw := 23, bias := 127, maxc := 0x7F7FFFFF, infc := some 0x7F800000, nanc := some 0x7FC00000, snan := true }
def fF16 : FFmt := { ew := 5, mw := 10, bias := 15, maxc := 0x7BFF, infc := some 0x7C00, nanc := some 0x7E00, snan := true }
def fBF16 : FFmt := { ew := 8, mw := 7, bias := 127, maxc := 0x7F7F, infc := some 0x7F80, nanc := some 0x7FC0, snan := true }
def fE4M3 : FFmt := { ew := 4, mw := 3, bias := 7, maxc := 0x7E, infc := none, nanc := some 0x7F, snan := false }
def fE5M2 : FFmt := { ew := 5, mw := 2, bias := 15, maxc := 0x7B, infc := some 0x7C, nanc := some 0x7E, snan := false }
def fE2M1 : FFmt := { ew := 2, mw := 1, bias := 1, maxc := 7, infc := none, nanc := none, snan := false }

/-- The weight of the sign bit of a code. -/
def FFmt.sbit (f : FFmt) : Nat := 2 ^ (f.ew + f.mw)

/-- A value read from a code: NaN (signalling or not), infinity, or `± m × 2 ^ e`. -/
inductive FNum where
  | nan (sig : Bool)
  | inf (neg : Bool)
  | fin (neg : Bool) (m : Nat) (e : Int)
  deriving DecidableEq, Repr

/-- The value of a code (02 R52, R53). -/
def FFmt.read (f : FFmt) (c : Nat) : FNum :=
  let neg := decide (f.sbit ≤ c % (2 * f.sbit))
  let a := c % f.sbit
  let e := a / 2 ^ f.mw
  let m := a % 2 ^ f.mw
  if f.maxc < a then
    if f.infc = some a then .inf neg else .nan (f.snan && decide (m < 2 ^ (f.mw - 1)))
  else if e = 0 then .fin neg m (1 - (f.bias : Int) - f.mw)
  else .fin neg (2 ^ f.mw + m) ((e : Int) - f.bias - f.mw)

/-- A code with a sign. -/
def FFmt.signed (f : FFmt) (neg : Bool) (a : Nat) : Nat := if neg then a + f.sbit else a
/-- The canonical NaN (02 R53). -/
def FFmt.nan (f : FFmt) : Nat := f.nanc.getD 0

/-- IV for a signalling NaN (02 R53). -/
def ivIf (b : Bool) : BitVec 7 := if b then flIV else 0

/-- `m × 2 ^ e`, a little more when `st`, rounded to a multiple of `2 ^ q` (02 R55): the multiple and whether it is inexact. -/
def roundAt (rm : Nat) (neg : Bool) (m : Nat) (e : Int) (st : Bool) (q : Int) : Nat × Bool :=
  if q ≤ e then (m * 2 ^ (e - q).toNat, st)
  else
    let sh := (q - e).toNat
    let n := m / 2 ^ sh
    let r := m % 2 ^ sh
    let half := 2 ^ (sh - 1)
    let inex := decide (r ≠ 0) || st
    let up := match rm with
      | 0 => decide (half < r) || (decide (r = half) && (st || decide (n % 2 = 1)))
      | 1 => false
      | 2 => inex && !neg
      | 3 => inex && neg
      | _ => decide (half ≤ r)
    (if up then n + 1 else n, inex)

/-- The result of an overflow (02 R56): infinity, or the largest finite magnitude. -/
def overflowInf (rm : Nat) (neg : Bool) : Bool :=
  match rm with
  | 1 => false
  | 2 => !neg
  | 3 => neg
  | _ => true

/-- An infinite result of a format (02 R56); with SAT the largest magnitude, setting OF and IX (02 R58). -/
def FFmt.infinite (f : FFmt) (sat : Bool) (neg : Bool) : Nat × BitVec 7 :=
  if sat then (f.signed neg f.maxc, flOF ||| flIX)
  else match f.infc with
    | some a => (f.signed neg a, 0)
    | none => (f.nan, 0)

/-- Rounding of an exact non-zero value to a format (02 R56); a tiny result of a flushing FP32 word is a zero (02 R54).  DESIGN CHOICE (log entry
26): so is a tiny one that the subnormal grid would deliver as ±2^−126, which 02 R54 flushes and the pseudocode of 05 R134 does not. -/
def FFmt.round (f : FFmt) (rm : Nat) (sat ftz : Bool) (neg : Bool) (m : Nat) (e : Int) (st : Bool) : Nat × BitVec 7 :=
  if m = 0 then (f.signed neg 0, if st then flUF ||| flIX else 0)
  else
    let q := (Nat.log2 m : Int) + e - f.mw
    let (n, ix) := roundAt rm neg m e st q
    let top := (Nat.log2 n : Int) + q
    let emin : Int := 1 - f.bias
    if top < emin then
      if ftz then (f.signed neg 0, flUF ||| flIX)
      else
        let (n, ix) := roundAt rm neg m e st (emin - f.mw)
        (f.signed neg n, if ix then flUF ||| flIX else 0)
    else
      let a := (top + f.bias).toNat * 2 ^ f.mw + (n * 2 ^ f.mw / 2 ^ (Nat.log2 n) - 2 ^ f.mw)
      if f.maxc < a then
        if overflowInf rm neg then
          let r := f.infinite sat neg
          (r.1, flOF ||| flIX)
        else (f.signed neg f.maxc, flOF ||| flIX)
      else (f.signed neg a, if ix then flIX else 0)

/-- A sum of finite terms (sign, magnitude, exponent) with its exact value. -/
def sumTerms (ts : List (Bool × Nat × Int)) : Int × Int :=
  let lo := (ts.map fun t => t.2.2).min?.getD 0
  (ts.foldl (fun a t => let v := (t.2.1 * 2 ^ (t.2.2 - lo).toNat : Nat)
    if t.1 then a - (v : Int) else a + (v : Int)) 0, lo)

/-- The sign of an exact zero sum (02 R56): that of the terms where they agree, else − in RDN alone.  DESIGN CHOICE (log entry 27): where all the
products of a DOT4 are −0 their sum is −0, whose sign 05 R142 does not give. -/
def zeroNeg (rm : Nat) (ts : List (Bool × Nat × Int)) : Bool :=
  if ts.any fun t => decide (t.2.1 ≠ 0) then decide (rm = 3)
  else if ts.all fun t => t.1 then true
  else (ts.any fun t => t.1) && decide (rm = 3)

/-- A sum of terms rounded once (02 R56). -/
def FFmt.sum (f : FFmt) (rm : Nat) (sat ftz : Bool) (ts : List (Bool × Nat × Int)) : Nat × BitVec 7 :=
  let (v, e) := sumTerms ts
  if v = 0 then
    (f.signed (zeroNeg rm ts) 0, 0)
  else f.round rm sat ftz (decide (v < 0)) v.natAbs e false

/-- A NaN result: the canonical NaN, with IV where `iv`. -/
def FFmt.nanWith (f : FFmt) (iv : Bool) : Nat × BitVec 7 := (f.nan, ivIf iv)

/-- Is a value a signalling NaN? -/
def FNum.sig : FNum → Bool
  | .nan b => b
  | .inf _ => false
  | .fin _ _ _ => false
/-- Is a value a NaN? -/
def FNum.isNan : FNum → Bool
  | .nan _ => true
  | .inf _ => false
  | .fin _ _ _ => false

/-- The value with the other sign. -/
def FNum.flip : FNum → FNum
  | .nan b => .nan b
  | .inf n => .inf (!n)
  | .fin n m e => .fin (!n) m e

/-- x + y (05 R136; 02 R57). -/
def FFmt.add (f : FFmt) (rm : Nat) (sat ftz : Bool) (x y : FNum) : Nat × BitVec 7 :=
  match x, y with
  | .nan a, b => f.nanWith (a || b.sig)
  | a, .nan b => f.nanWith (a.sig || b)
  | .inf a, .inf b => if a = b then f.infinite sat a else f.nanWith true
  | .inf a, .fin _ _ _ => f.infinite sat a
  | .fin _ _ _, .inf b => f.infinite sat b
  | .fin a m e, .fin b n k => f.sum rm sat ftz [(a, m, e), (b, n, k)]

/-- The exact product, none where it is 0 × ∞. -/
def FNum.mul (x y : FNum) : Option FNum :=
  match x, y with
  | .nan a, b => some (.nan (a || b.sig))
  | a, .nan b => some (.nan (a.sig || b))
  | .inf a, .inf b => some (.inf (a != b))
  | .inf a, .fin b m _ => if m = 0 then none else some (.inf (a != b))
  | .fin a m _, .inf b => if m = 0 then none else some (.inf (a != b))
  | .fin a m e, .fin b n k => some (.fin (a != b) (m * n) (e + k))

/-- x × y (05 R136). -/
def FFmt.mul (f : FFmt) (rm : Nat) (sat ftz : Bool) (x y : FNum) : Nat × BitVec 7 :=
  match x.mul y with
  | none => f.nanWith true
  | some (.nan b) => f.nanWith b
  | some (.inf a) => f.infinite sat a
  | some (.fin a m e) => if m = 0 then (f.signed a 0, 0) else f.round rm sat ftz a m e false

/-- x × y + z with one rounding (05 R136). -/
def FFmt.fma (f : FFmt) (rm : Nat) (sat ftz : Bool) (x y z : FNum) : Nat × BitVec 7 :=
  match x.mul y with
  | none => f.nanWith true
  | some p => f.add rm sat ftz p z

/-- −0 below +0, else by value: is x the smaller (05 R137)? Neither is a NaN. -/
def FNum.lt0 (x y : FNum) : Bool :=
  match x, y with
  | .inf a, .inf b => a && !b
  | .inf a, _ => a
  | _, .inf b => !b
  | .fin a m e, .fin b n k =>
    let d := (sumTerms [(a, m, e), (!b, n, k)]).1
    decide (d < 0) || (decide (d = 0) && a && !b && decide (m = 0))
  | _, _ => false

/-- Comparison by value, −0 = +0. -/
def FNum.ltv (x y : FNum) : Bool :=
  match x, y with
  | .inf a, .inf b => a && !b
  | .inf a, _ => a
  | _, .inf b => !b
  | .fin a m e, .fin b n k => decide ((sumTerms [(a, m, e), (!b, n, k)]).1 < 0)
  | _, _ => false

/-- FMIN (`mx` false) and FMAX of two codes (05 R137). -/
def FFmt.minMax (f : FFmt) (mx sat : Bool) (cx cy : Nat) : Nat × BitVec 7 :=
  let x := f.read cx
  let y := f.read cy
  let out (c : Nat) : Nat × BitVec 7 := match f.read c with
    | .inf n => if sat then f.infinite true n else (c, 0)
    | _ => (c, 0)
  if x.sig || y.sig then f.nanWith true
  else if x.isNan && y.isNan then f.nanWith false
  else if x.isNan then out cy
  else if y.isNan then out cx
  else if mx then (if x.lt0 y then out cy else out cx)
  else (if y.lt0 x then out cy else out cx)

/-- FCMP of two values: the test and its flag (05 R138). -/
def fcmpNum (cc : Cond) (x y : FNum) : Bool × BitVec 7 :=
  let nan := x.isNan || y.isNan
  let sg := ivIf (x.sig || y.sig)
  let lt := x.ltv y
  let gt := y.ltv x
  match cc with
  | .eq => (!nan && !lt && !gt, sg)
  | .ne => (nan || lt || gt, sg)
  | .lt => (!nan && lt, ivIf nan)
  | .le => (!nan && !gt, ivIf nan)
  | .gt => (!nan && gt, ivIf nan)
  | .ge => (!nan && !lt, ivIf nan)
  | .ord => (!nan, sg)
  | .unord => (nan, sg)

/-- The bit of FCLASS of an FP32 code (05 R139). -/
def fclassBit (c : Nat) : Nat :=
  match fF32.read c with
  | .nan true => 0
  | .nan false => 1
  | .inf true => 2
  | .inf false => 9
  | .fin neg m _ =>
    if m = 0 then (if neg then 5 else 6)
    else if c % 2 ^ 31 < 2 ^ 23 then (if neg then 4 else 7)
    else (if neg then 3 else 8)

/-- A subnormal FP32 code read as a zero of its sign while FTZ is 1 (02 R54). -/
def ftzIn (ftz : Bool) (c : Nat) : Nat := if ftz && decide (c % 2 ^ 31 < 2 ^ 23) then c / 2 ^ 31 * 2 ^ 31 else c

/-- FRND (05 R140). -/
def frndCode (rm : Nat) (sat : Bool) (c : Nat) : Nat × BitVec 7 :=
  match fF32.read c with
  | .nan b => fF32.nanWith b
  | .inf n => if sat then fF32.infinite true n else (c, 0)
  | .fin neg m e =>
    if m = 0 ∨ 0 ≤ e then (c, 0)
    else
      let n := (roundAt rm neg m e false 0).1
      ((fF32.round 0 false false neg n 0 false).1, 0)

/-- Source modifiers of a control byte on an element of `w` bits (03 R86): absolute value, then negation. -/
def modCode (w : Nat) (neg abs : Bool) (c : Nat) : Nat :=
  let c := if abs then c % 2 ^ (w - 1) else c
  if neg then (c + 2 ^ (w - 1)) % 2 ^ w else c

/-! ## DOT4 (05 R142) -/

/-- Infinities, NaNs and finite terms of a sum of products. -/
def FFmt.total (f : FFmt) (rm : Nat) (ftz : Bool) (ps : List (Option FNum)) (quiet : Bool) : Nat × BitVec 7 :=
  let infs := ps.filterMap fun p => match p with
    | some (.inf n) => some n
    | _ => none
  let iv := ps.any (fun p => p.isNone) || (ps.any fun p => (p.map FNum.sig).getD false) ||
    (infs.contains true && infs.contains false)
  let nan := iv || quiet || ps.any fun p => (p.map FNum.isNan).getD false
  if nan then f.nanWith iv
  else match infs with
    | n :: _ => f.infinite false n
    | [] => f.sum rm false ftz (ps.filterMap fun p => match p with
        | some (.fin a m e) => some (a, m, e)
        | _ => none)

/-- DOT4.F8 of one lane. -/
def dot4F (fa fb : FFmt) (rm : Nat) (ftz : Bool) (a b d : Nat) : Nat × BitVec 7 :=
  let ps := (List.range 4).map fun k => (fa.read (a / 256 ^ k % 256)).mul (fb.read (b / 256 ^ k % 256))
  fF32.total rm ftz (ps ++ [some (fF32.read (ftzIn ftz d))]) false

/-- DOT4.I8 of one lane (05 R143). -/
def dot4I (ua ub : Bool) (a b d : Word) : Word :=
  let el (u : Bool) (x : Word) (k : Nat) : Int := asInt (!u) ((x >>> (8 * k)).setWidth 8 : BitVec 8)
  d + BitVec.ofInt 32 (((List.range 4).map fun k => el ua a k * el ub b k).foldl (· + ·) 0)

/-! ## Conversions (02 R58; 05 R144 to R146) -/

/-- The floating format of a conversion code. -/
def Fmt.float : Fmt → Option FFmt
  | .f32 => some fF32
  | .f16 => some fF16
  | .bf16 => some fBF16
  | .e4m3 => some fE4M3
  | .e5m2 => some fE5M2
  | .e2m1 => some fE2M1
  | .s8 | .u8 | .s16 | .u16 | .s32 | .u32 | .s64 | .u64 | .i4 | .i2 | .i1 => none

/-- Width and signedness of an integer code. -/
def Fmt.int : Fmt → Nat × Bool
  | .s8 => (8, true)
  | .u8 => (8, false)
  | .s16 => (16, true)
  | .u16 => (16, false)
  | .s32 => (32, true)
  | .u32 => (32, false)
  | .s64 => (64, true)
  | .u64 => (64, false)
  | .i4 => (4, true)
  | .i2 => (2, true)
  | .i1 => (1, true)
  | .f32 => (32, false)
  | .f16 | .bf16 => (16, false)
  | .e4m3 | .e5m2 => (8, false)
  | .e2m1 => (4, false)

/-- The least and greatest value of an integer format. -/
def intRange (w : Nat) (sgn : Bool) : Int × Int :=
  if sgn then (-(2 ^ (w - 1) : Int), 2 ^ (w - 1) - 1) else (0, 2 ^ w - 1)

/-- Float to float (02 R58). -/
def cvtFF (src dst : FFmt) (rm : Nat) (sat ftz : Bool) (c : Nat) : Nat × BitVec 7 :=
  match src.read c with
  | .nan b => dst.nanWith b
  | .inf n =>
    if sat then dst.infinite true n
    else match dst.infc with
      | some _ => dst.infinite false n
      | none => dst.nanWith true
  | .fin neg m e => if m = 0 then (dst.signed neg 0, 0) else dst.round rm sat ftz neg m e false

/-- Float to integer, saturating (02 R58). -/
def cvtFI (src : FFmt) (w : Nat) (sgn : Bool) (rm : Nat) (c : Nat) : Int × BitVec 7 :=
  let (lo, hi) := intRange w sgn
  match src.read c with
  | .nan _ => (0, flIV)
  | .inf n => (if n then lo else hi, flIV)
  | .fin neg m e =>
    let (n, ix) := roundAt rm neg m e false 0
    let v : Int := if neg then -(n : Int) else n
    if v < lo then (lo, flIV) else if hi < v then (hi, flIV) else (v, if ix then flIX else 0)

/-- Integer to float (02 R58). -/
def cvtIF (dst : FFmt) (rm : Nat) (sat : Bool) (x : Int) : Nat × BitVec 7 :=
  if x = 0 then (0, 0) else dst.round rm sat false (decide (x < 0)) x.natAbs 0 false

/-- Integer to integer (02 R58, 05 R146).  R58's row of `.sat` names only a narrower integer, and R146 extends it for CVT; a COPY with SAT
clamps for every destination that does not hold the source's range, as CVT does (DESIGN CHOICE, log entry 49). -/
def cvtII (sw : Nat) (ss : Bool) (dw : Nat) (ds : Bool) (sat : Bool) (x : Int) : Int × BitVec 7 :=
  let (lo, hi) := intRange dw ds
  let (slo, shi) := intRange sw ss
  if sat ∧ (slo < lo ∨ hi < shi) then
    if x < lo then (lo, flIOV) else if hi < x then (hi, flIOV) else (x, 0)
  else (x, 0)

/-- A conversion between two codes (05 R146): the source element's bits, the result's bits and the flags. -/
def cvtCode (src dst : Fmt) (rm : Nat) (sat ftz : Bool) (c : Nat) : Nat × BitVec 7 :=
  let sw := (Fmt.int src).1
  let ss := (Fmt.int src).2
  let dw := (Fmt.int dst).1
  let ds := (Fmt.int dst).2
  let c := c % 2 ^ sw
  let x : Int := if ss ∧ 2 ^ (sw - 1) ≤ c then (c : Int) - 2 ^ sw else c
  let put (r : Int × BitVec 7) : Nat × BitVec 7 := ((r.1 % 2 ^ dw).toNat, r.2)
  match Fmt.float src, Fmt.float dst with
  | some f, some g => cvtFF f g rm sat (ftz && dst == .f32) (if src = .f32 then ftzIn ftz c else c)
  | some f, none => put (cvtFI f dw ds rm (if src = .f32 then ftzIn ftz c else c))
  | none, some g => cvtIF g rm sat x
  | none, none => put (cvtII sw ss dw ds sat x)

/-! ## Special functions (05 R147, R148)

RSQ, LOG2, EXP2, SIN and COS take 512 fractional bits of the exact value and a mark that more follows.  -/

/-- Fractional bits of the fixed-point values. -/
def fxW : Nat := 512

/-- The integer square root, bit by bit from bit `k`. -/
def isqrtGo (n : Nat) : Nat → Nat → Nat
  | 0, r => r
  | k + 1, r => isqrtGo n k (if (r + 2 ^ k) * (r + 2 ^ k) ≤ n then r + 2 ^ k else r)
/-- The integer square root of a number below 4 ^ k. -/
def isqrt (k n : Nat) : Nat := isqrtGo n k 0

/-- `Σ t / (2 j + 1)` with `t` divided by `d` in turn and signs alternating where `alt`: arc tangent and its hyperbolic. -/
def atanGo (d : Nat) (alt : Bool) : Nat → Nat → Nat → Int
  | 0, _, _ => 0
  | fuel + 1, j, t =>
    let r := atanGo d alt fuel (j + 1) (t / d)
    (t / (2 * j + 1) : Nat) + (if alt then -r else r)

/-- π with `fxW` fractional bits, by Machin's formula. -/
def fxPi : Int := 16 * atanGo 25 true 120 0 (2 ^ fxW / 5) - 4 * atanGo 57121 true 40 0 (2 ^ fxW / 239)
/-- ln 2 with `fxW` fractional bits: 2 artanh (1 / 3). -/
def fxLn2 : Int := 2 * atanGo 9 false 170 0 (2 ^ fxW / 3)

/-- `Σ z ^ (2 j + 1) / (2 j + 1)` for fixed-point z. -/
def artanhGo (z2 : Int) : Nat → Nat → Int → Int
  | 0, _, _ => 0
  | fuel + 1, j, t => t / (2 * j + 1) + artanhGo z2 fuel (j + 1) (t * z2 / 2 ^ fxW)

/-- The Taylor sum with terms `t`, then `t × y / ((a + 1)(a + 2)…)` by `step` factors a term. -/
def expGo (y : Int) : Nat → Nat → Int → Int
  | 0, _, _ => 0
  | fuel + 1, n, t => t + expGo y fuel (n + 1) (t * y / 2 ^ fxW / (n + 1))

/-- The series of sine (from n = 1) or cosine (from n = 0) of fixed-point y, `y2` being y². -/
def sinGo (y2 : Int) : Nat → Nat → Int → Int
  | 0, _, _ => 0
  | fuel + 1, n, t => t + sinGo y2 fuel (n + 2) (-(t * y2 / 2 ^ fxW) / ((n + 1) * (n + 2)))

/-- A fixed-point result with more bits to follow, rounded to nearest even (05 R148). -/
def fxRound (ftz : Bool) (v : Int) (e : Int) : Nat × BitVec 7 :=
  let r := fF32.round 0 false ftz (decide (v < 0)) v.natAbs (e - fxW) true
  (r.1, r.2 ||| flIX)

/-- `m × 2 ^ e` as a fixed-point number; `e` is at least −149. -/
def fxOf (m : Nat) (e : Int) : Int := (m * 2 ^ (e + fxW).toNat : Nat)

/-- Is `m × 2 ^ e` a power of two, and which? -/
def pow2? (m : Nat) (e : Int) : Option Int := if m = 2 ^ Nat.log2 m then some ((Nat.log2 m : Int) + e) else none

/-- The special functions. -/
inductive SFn where
  | rcp | rsq | sqrt | log2 | exp2 | sin | cos
  deriving DecidableEq, Repr

/-- Sine or cosine of `m × 2 ^ e` by exact reduction to a quadrant. -/
def trig (cosine ftz neg : Bool) (m : Nat) (e : Int) : Nat × BitVec 7 :=
  let x := fxOf m e
  let h := fxPi / 2
  let q := x / h
  let y := x - q * h
  let y2 := y * y / 2 ^ fxW
  let k := (q + if cosine then 1 else 0) % 4
  let v := if k % 2 = 0 then sinGo y2 60 1 y else sinGo y2 60 0 (2 ^ fxW)
  let v := if k ≥ 2 then -v else v
  fxRound ftz (if neg && !cosine then -v else v) 0

/-- A special function of a finite non-zero value. -/
def sfnFin (fn : SFn) (rm : Nat) (ftz : Bool) (neg : Bool) (m : Nat) (e : Int) : Nat × BitVec 7 :=
  match fn with
  | .rcp =>
    let n := 2 ^ 80 / m
    fF32.round rm false ftz neg n (-80 - e) (decide (2 ^ 80 % m ≠ 0))
  | .sqrt =>
    if neg then fF32.nanWith true
    else
      let odd := e % 2 ≠ 0
      let m2 := (if odd then 2 * m else m) * 2 ^ 64
      let r := isqrt 48 m2
      fF32.round rm false ftz false r (((if odd then e - 1 else e) - 64) / 2) (decide (r * r ≠ m2))
  | .rsq =>
    if neg then fF32.nanWith true
    else match pow2? m e with
      | some k => if k % 2 = 0 then fF32.round 0 false ftz false 1 (-k / 2) false
        else fxRound ftz (isqrt (fxW + 1) (2 ^ (2 * fxW + 1)) : Nat) (-((k + 1) / 2))
      | none =>
        let odd := e % 2 ≠ 0
        let m2 := if odd then 2 * m else m
        fxRound ftz (isqrt (fxW + 1) (2 ^ (2 * fxW) / m2) : Nat) (-((if odd then e - 1 else e) / 2))
  | .log2 =>
    if neg then fF32.nanWith true
    else match pow2? m e with
      | some k => if k = 0 then (0, 0) else fF32.round 0 false ftz (decide (k < 0)) k.natAbs 0 false
      | none =>
        let k := (Nat.log2 m : Int) + e
        let y := fxOf m (-(Nat.log2 m : Int))
        let z := (y - 2 ^ fxW) * 2 ^ fxW / (y + 2 ^ fxW)
        let l := 2 * artanhGo (z * z / 2 ^ fxW) 170 0 z
        fxRound ftz (k * 2 ^ fxW + l * 2 ^ fxW / fxLn2) 0
  | .exp2 =>
    if !neg && decide (2 ^ 7 ≤ fxOf m e / 2 ^ fxW) then ((fF32.infinite false false).1, flOF ||| flIX)
    else if neg && decide (150 * 2 ^ fxW ≤ fxOf m e) then (0, flUF ||| flIX)
    else
      let x := if neg then -(fxOf m e) else fxOf m e
      let k := x / 2 ^ fxW
      let f := x % 2 ^ fxW
      if f = 0 then fF32.round 0 false ftz false 1 k false
      else fxRound ftz (expGo (f * fxLn2 / 2 ^ fxW) 110 0 (2 ^ fxW)) k
  | .sin => trig false ftz neg m e
  | .cos => trig true ftz neg m e

/-- A special function of a value without SAT (05 R147). -/
def sfnNum (fn : SFn) (rm : Nat) (ftz : Bool) (x : FNum) : Nat × BitVec 7 :=
  match x with
  | .nan b => fF32.nanWith b
  | .inf n =>
    match fn with
    | .rcp => (fF32.signed n 0, 0)
    | .rsq => if n then fF32.nanWith true else (0, 0)
    | .sqrt => if n then fF32.nanWith true else fF32.infinite false false
    | .log2 => if n then fF32.nanWith true else fF32.infinite false false
    | .exp2 => if n then (0, 0) else fF32.infinite false false
    | .sin => fF32.nanWith true
    | .cos => fF32.nanWith true
  | .fin n m e =>
    if m = 0 then
      match fn with
      | .rcp => ((fF32.infinite false n).1, flDZF)
      | .rsq => ((fF32.infinite false n).1, flDZF)
      | .sqrt => (fF32.signed n 0, 0)
      | .log2 => ((fF32.infinite false true).1, flDZF)
      | .exp2 => (0x3F800000, 0)
      | .sin => (fF32.signed n 0, 0)
      | .cos => (0x3F800000, 0)
    else sfnFin fn rm ftz n m e

/-- A special function of an FP32 code (05 R147, R148). -/
def sfnCode (fn : SFn) (rm : Nat) (sat ftz : Bool) (c : Nat) : Nat × BitVec 7 :=
  let r := sfnNum fn rm ftz (fF32.read (ftzIn ftz c))
  match sat, fF32.read r.1 with
  | true, .inf n => ((fF32.infinite true n).1, r.2 ||| flOF ||| flIX)
  | _, _ => r

/-- RCP of an FP16 code, for `expr.f16x2` (05 R150). -/
def rcpF16 (rm : Nat) (c : Nat) : Nat × BitVec 7 :=
  match fF16.read c with
  | .nan b => fF16.nanWith b
  | .inf n => (fF16.signed n 0, 0)
  | .fin n m e =>
    if m = 0 then ((fF16.infinite false n).1, flDZF)
    else fF16.round rm false false n (2 ^ 48 / m) (-48 - e) (decide (2 ^ 48 % m ≠ 0))

end Sys2Proof.Machine
end

