-- ==== Sys2Proof/Machine/Memory.lean ====
section
/-! DEFINITION. Lines, homes and ranges (08 R248; 10 R275, R276), messages (10 R281), scopes and releases (09 R257, R258, R295), the race
detector (09 R268 to R270), and the effect of the lanes of a memory word on bytes (06 R165 to R171). -/

namespace Sys2Proof.Machine

open Sys2Proof

/-! ## Homes and ranges -/

/-- A coherence range (10 R276). -/
structure Range where
  slot : Nat
  chk : Bool
  hv : Bool
  lease : Nat
  deriving DecidableEq, Repr

/-- Does a range register cover an address? -/
def rangeCovers (w : DWord × DWord) (pa : Nat) : Bool :=
  w.2.getLsbD 0 && decide (bits w.1 0 31 ≤ pa / 2 ^ 21 % 2 ^ 31) && decide (pa / 2 ^ 21 % 2 ^ 31 ≤ bits w.1 31 31)

/-- The range of a line at its home: its lowest-numbered enabled register, or the default (10 R276); an empty slot is served as
slot 0 (10 R277). -/
def State.range (s : State) (ln : Nat) : Range :=
  match (s.home (lineHome ln)).ranges.find? fun p => rangeCovers p.2 (ln * 128) with
  | none => { slot := 0, chk := false, hv := false, lease := 2 ^ 10 }
  | some (_, w) =>
    let t := bits w.2 1 3
    let slot := if (Sparse.get [] s.tables t).isEmpty then 0 else t
    { slot := slot, chk := w.2.getLsbD 4 && slot == 0, hv := w.2.getLsbD 5, lease := 2 ^ (min (bits w.2 6 4) 11 + 4) }

/-! ## Line data -/

/-- Byte `k` of a line. -/
def byteAt (l : List Byte) (k : Nat) : Byte := (l[k]?).getD 0
/-- The masked bytes of `new` over `old`. -/
def mergeBytes (old new : List Byte) (mask : BitVec 128) : List Byte :=
  (List.range 128).map fun k => if mask.getLsbD k then byteAt new k else byteAt old k
/-- The releases of the masked bytes of `new` over those of `old`. -/
def mergeRels (old new : Sparse (List Rel)) (mask : BitVec 128) : Sparse (List Rel) :=
  (new.filter fun p => mask.getLsbD p.1).foldl (fun m p => Sparse.set [] m p.1 p.2) (old.filter fun p => !mask.getLsbD p.1)
/-- The data of a line at its home. -/
def State.lineData (s : State) (ln : Nat) : List Byte := s.bytes (ln * 128) 128
/-- The releases that the bytes of a line carry at its home. -/
def State.lineRels (s : State) (ln : Nat) : Sparse (List Rel) :=
  (s.rels.filter fun p => p.1 / 128 == ln).map fun p => (p.1 % 128, p.2)
/-- Writes the masked bytes of a line at its home, with their releases. -/
def State.writeLine (s : State) (ln : Nat) (data : List Byte) (mask : BitVec 128) (rels : Sparse (List Rel)) : State :=
  let s := ((List.range 128).filter fun k => mask.getLsbD k).foldl (fun s k => s.setByte (ln * 128 + k) (byteAt data k)) s
  let rs := ((List.range 128).filter fun k => mask.getLsbD k).foldl
    (fun m k => Sparse.set [] m (ln * 128 + k) (Sparse.get [] rels k)) s.rels
  -- a write of all 64 bytes of an ECC unit makes it good again (20 R466)
  let full (h : Nat) : Bool := mask &&& rangeMask (64 * h) 64 == rangeMask (64 * h) 64
  { s with rels := rs
           life := { s.life with badMem := s.life.badMem.filter fun u => !(u / 2 == ln && full (u % 2)) } }

/-! ## Scopes (09 R257) -/

/-- A gang as an issuer, where it stands now. -/
def State.issuer (s : State) (g : Nat) (slices : List Nat := []) : Issuer :=
  let x := s.gang g
  let p := s.crew x.crew
  { who := .gang g, slices := slices, crew := x.crew, core := x.core, quarter := x.quarter
    cluster := if p.pos = 0 then none else some (p.lent, p.cgrp) }

/-- The operations of a crew, its copies among them, as an issuer (09 R255). -/
def State.opIssuer (s : State) (u : Nat) : Issuer :=
  let p := s.crew u
  { who := .op u, crew := u, core := p.core, cluster := if p.pos = 0 then none else some (p.lent, p.cgrp) }

/-- The slices of some lanes. -/
def slicesOf (ls : List LaneAcc) : List Nat := (ls.map fun a => a.lane / 4).dedup

/-- Does a party belong to a crew: a gang or an operation? -/
def Issuer.ofCrew (x : Issuer) : Bool :=
  match x.who with
  | .gang _ | .op _ => true
  | .island _ | .peer | .host | .mgmt => false

/-- Is a party an issuer of a tower: a gang, an operation or an island? -/
def Issuer.ofTower (x : Issuer) : Bool :=
  match x.who with
  | .gang _ | .op _ | .island _ => true
  | .peer | .host | .mgmt => false

/-- The instance of CORE around issuer `x` contains `y`: the crews of the core, and I0 and I1. -/
def coversCore (x y : Issuer) : Bool :=
  y.core == x.core && (match y.who with
    | .gang _ | .op _ => true
    | .island i => decide (i < 2)
    | .peer | .host | .mgmt => false)

/-- The instance of a scope around issuer `x` contains issuer `y`. -/
def covers (sc : Scope) (x y : Issuer) : Bool :=
  match sc with
  | .slice => x.who == y.who && x.slices.any y.slices.contains
  | .gang => x.who == y.who
  | .quarter => (x.who matches .gang _) && (y.who matches .gang _) && x.core == y.core && x.quarter == y.quarter
  | .crew => x.ofCrew && y.ofCrew && x.crew == y.crew
  | .core => coversCore x y
  | .cluster => if x.cluster.isNone then coversCore x y else y.ofCrew && x.cluster == y.cluster
  | .tower => y.ofTower && x.core / Config.coresPerTower == y.core / Config.coresPerTower
  | .device => y.ofTower || y.who == .mgmt
  | .host => y.who != .peer
  | .system => true

/-- A release at CORE or wider flushes LEASE bytes (10 R294). -/
def Scope.wide : Scope → Bool
  | .slice | .gang | .quarter | .crew => false
  | .core | .cluster | .tower | .device | .host | .system => true

/-- Does a scope cover the home of a line for a core: its own tower's homes, or every home (10 R299)? -/
def Scope.coversHome (sc : Scope) (core ln : Nat) : Bool :=
  match sc with
  | .slice | .gang | .quarter | .crew | .core | .cluster => false
  | .tower => lineHome ln / 8 == core / Config.coresPerTower
  | .device | .host | .system => true

/-! ## Releases and acquires (09 R258, R259; 10 R295) -/

/-- The pointwise maximum of clocks. -/
def joinVc (a b : Sparse Nat) : Sparse Nat := b.foldl (fun m p => Sparse.set 0 m p.1 (max (Sparse.get 0 m p.1) p.2)) a

/-- Two states of knowledge joined. -/
def Know.join (a b : Know) : Know := { pts := max a.pts b.pts, vc := joinVc a.vc b.vc }

/-- What an operation of a gang knows: no acquire that follows it in gang order counts (09 R259). -/
def Gang.vcOf (x : Gang) (o : Op) : Sparse Nat := o.vc.getD x.vc

/-- What an LSU access of a gang knows: its FENCE.Xs towards LSU too (09 R259, case 5). -/
def Gang.lsuVc (x : Gang) (o : Op) : Sparse Nat := joinVc (x.vcOf o) x.vcLsu

/-- The release that an operation of gang `g` makes: its gang's clock at its issue orders what precedes it in gang order, and what its accesses
have known through FENCE.X comes before it too. -/
def State.relOf (s : State) (g : Nat) (o : Op) (slices : List Nat) (sc : Scope) : Rel :=
  let x := s.gang g
  { who := s.issuer g slices, scope := sc, pts := x.pts, vc := Sparse.set 0 (joinVc (x.vcOf o) x.vcRel) x.iss o.clk }

/-- Releases of one issuer at one scope joined, so that a list holds one of them. -/
def addRel (l : List Rel) (r : Rel) : List Rel :=
  match l.find? fun q => q.who == r.who && q.scope == r.scope with
  | none => l ++ [r]
  | some q => (l.filter fun p => !(p.who == r.who && p.scope == r.scope)) ++
      [{ r with pts := max q.pts r.pts, vc := joinVc q.vc r.vc }]

/-- Do a release and an act at scope `sc` of issuer `me` lie in each other's instances (09 R258)? -/
def Rel.meets (r : Rel) (sc : Scope) (me : Issuer) : Bool := covers r.scope r.who me && covers sc me r.who

/-- What the releases that meet an act bring. -/
def knowOf (rs : List Rel) (sc : Scope) (me : Issuer) : Know :=
  (rs.filter fun r => r.meets sc me).foldl (fun k r => k.join { pts := r.pts, vc := r.vc }) {}

/-- A gang learns at its operation `tag`: accesses from that operation on come after what it learns, and operations before it keep what
they knew. -/
def Gang.learn (x : Gang) (tag : Nat) (k : Know) : Gang :=
  { x with pts := max x.pts k.pts
           vc := joinVc x.vc k.vc
           ops := x.ops.map fun o => if o.tag < tag then { o with vc := some (x.vcOf o) } else { o with vc := o.vc.map (joinVc · k.vc) } }

/-- The bytes of checked lines that gang `g` has touched are forgotten at an acquire that covers their homes (10 R299). -/
def State.clearMasks (s : State) (g : Nat) (sc : Scope) : State :=
  let c := (s.gang g).core
  if (s.core c).masks.isEmpty then s
  else s.modCore c fun k =>
    { k with masks := k.masks.filterMap fun p =>
        let l := if Scope.coversHome sc c p.1 then p.2.filter fun m => m.1 != g else p.2
        if l.isEmpty then none else some (p.1, l) }

/-- AN ACQUIRE, operation `tag` of gang `g` at scope `sc`, that observes the releases `rs`: it synchronises with those whose scopes contain
each other's issuer (09 R258), and takes their clocks and timestamps (10 R295). -/
def State.acquire (s : State) (g tag : Nat) (slices : List Nat) (sc : Scope) (rs : List Rel) : State :=
  (s.modGang g fun x => x.learn tag (knowOf rs sc (s.issuer g slices))).clearMasks g sc

/-- A gang has made an access of a path, which has known `via` through FENCE.X: its releases pass that on (09 R259). -/
def Gang.used (x : Gang) (via : Sparse Nat) : Gang := if via.isEmpty then x else { x with vcRel := joinVc x.vcRel via }

/-- An LSU or VLT access of a gang has been performed, of VLT where `vlt` says so: its later copies come after it, and so do the copies that wait
for it (07 R211, 09 R261). -/
def State.tellCopies (s : State) (g tag : Nat) (vlt : Bool := false) : State :=
  let x := s.gang g
  match s.op? g tag with
  | none => s
  | some o =>
    let via := if vlt then x.vcVlt else x.vcLsu
    let k := joinVc (x.vcOf o) via
    let waits (cp : Copy) : Bool := cp.parts.any fun p => p.gang == g && p.after.contains tag
    let s := if k.isEmpty then s else s.modGang g fun x => ({ x with vcCpy := joinVc x.vcCpy k } : Gang).used via
    if k.isEmpty || !((s.crew x.crew).copies.any waits) then s
    else s.modCrew x.crew fun cr => { cr with copies := cr.copies.map fun cp => if waits cp then { cp with vc := joinVc cp.vc k } else cp }

/-! ## The order of synchronising acts (09 R260)

On LEASE lines timestamps order them.  On other lines each act takes the timestamps of the acts performed before it whose scopes and its
own contain each other's issuers, and so does each FENCE of the FENCEs before it. -/

/-- A synchronising act on a line without leases. -/
def State.exchange (s : State) (g : Nat) (slices : List Nat) (sc : Option Scope) (ln : Nat) : State :=
  match sc with
  | none => s
  | some sc =>
    let me := s.issuer g slices
    let l := Sparse.get [] s.acts ln
    let t := max (s.gang g).pts (knowOf l sc me).pts
    { s.modGang g fun x => { x with pts := t } with
      acts := Sparse.set [] s.acts ln (addRel l { who := me, scope := sc, pts := t, vc := [] }) }

/-- A FENCE among the FENCEs. -/
def State.fenceExchange (s : State) (g : Nat) (slices : List Nat) (sc : Scope) : State :=
  let me := s.issuer g slices
  let t := max (s.gang g).pts (knowOf s.fences sc me).pts
  { s.modGang g fun x => { x with pts := t } with fences := addRel s.fences { who := me, scope := sc, pts := t, vc := [] } }

/-! ## The race detector (09 R268 to R270) -/

/-- Two accesses of one byte that would race if unordered: of different issuers, one a write, and not both synchronising (09 R263, R269). -/
def Acc.conflicts (a b : Acc) : Bool := a.issuer != b.issuer && (a.write || b.write) && !(a.sync && b.sync)

/-- A DIRECT RACE of access `a` with a recorded access of the byte: the issuer of `a`, whose clocks are `vc`, has acquired no release that the
other made after it (09 R270). -/
def State.races (s : State) (a : Acc) (vc : Sparse Nat) (pa : Nat) : Bool :=
  (Sparse.get [] s.det pa).any fun r => r.conflicts a && decide (Sparse.get 0 vc r.issuer < r.clk)

/-- Have two issuers joined two pages by AFENCE, the one after its access `r`, and before it is known to the clocks `vc` of the other, which has
too (06 R178, 09 R262)?  The AFENCEs of a gang that is gone are not known, and its pages count as joined. -/
def State.joined (s : State) (r a : Acc) (vc : Sparse Nat) : Bool :=
  let gangOf (n : Nat) : Option Gang := (s.gangs.find? fun p => p.2.iss == n).map (·.2)
  let has (x : Gang) (lo hi : Nat) : Bool := x.aliases.any fun p =>
    decide (lo ≤ p.2.2) && decide (p.2.2 ≤ hi) &&
      ((some p.1 == r.page && some p.2.1 == a.page) || (some p.1 == a.page && some p.2.1 == r.page))
  match gangOf r.issuer, gangOf a.issuer with
  | some x, some y => has x r.clk (Sparse.get 0 vc r.issuer) && has y 0 a.clk
  | _, _ => true

/-- A RACE THAT IS NOT DIRECT, through two virtual pages that AFENCE has not joined on both sides (09 R262, R263). -/
def State.aliasRace (s : State) (a : Acc) (vc : Sparse Nat) (pa : Nat) : Bool :=
  a.page.isSome && (Sparse.get [] s.det pa).any fun r =>
    r.conflicts a && r.page.isSome && r.page != a.page && !s.joined r a vc

/-- Is one of some accesses reported?  Every direct race is; whether a race through aliases is, the spec leaves open: a free value says
(09 R270; log entry 16). -/
def State.reported (s : State) (as : List (Nat × Acc)) (vc : Sparse Nat) : Bool × State :=
  if as.any fun p => s.races p.2 vc p.1 then (true, s)
  else if as.any fun p => s.aliasRace p.2 vc p.1 then
    let (w, s) := s.free
    (w.getLsbD 0, s)
  else (false, s)

/-- Records a checked access. -/
def State.note (s : State) (a : Acc) (pa : Nat) : State :=
  let old := (Sparse.get [] s.det pa).filter fun r =>
    !(r.issuer == a.issuer && r.write == a.write && r.sync == a.sync && r.page == a.page)
  { s with det := Sparse.set [] s.det pa (old ++ [a]) }

/-! ## What a memory word does to bytes (06 R165 to R171) -/

/-- Loads, stores, atomics and prefetches. -/
inductive MemKind where
  | load | store | atomic | pref
  deriving DecidableEq, Repr

def memKind : Instr → MemKind
  | .st .. | .stg .. | .stRel .. | .stv .. => .store
  | .atom .. | .atomv .. => .atomic
  | .pref .. => .pref
  | _ => .load

/-- The scope of a release word, of an acquire word. -/
def relScope : Instr → Option Scope
  | .stRel _ sc _ _ _ => some sc
  | .atom _ sc _ _ _ => some sc
  | .fence sc => some sc
  | .fenceX sc _ _ => some sc
  | .afence sc _ _ => some sc
  | _ => none
def acqScope : Instr → Option Scope
  | .ldAcq _ sc _ _ _ => some sc
  | .atom _ sc _ _ _ => some sc
  | _ => none

/-- The scope of a synchronising access: LD.ACQ, ST.REL or ATOM (09 R260, R263). -/
def syncScope : Instr → Option Scope
  | .ldAcq _ sc _ _ _ => some sc
  | .stRel _ sc _ _ _ => some sc
  | .atom _ sc _ _ _ => some sc
  | _ => none

/-- Two's complement of a 32-bit value. -/
def sgn32 (x : Nat) : Int := (BitVec.ofNat 32 x).toInt

/-- The new value of a memory atomic (06 R170, R171); the float forms round in RNE and honour subnormals. -/
def atomNew (op : AtomOp) (old d d2 : Nat) : Nat :=
  match op with
  | .addU32 => (old + d) % 2 ^ 32
  | .faddF32 => (fF32.add 0 false false (fF32.read old) (fF32.read d)).1
  | .minS32 => if sgn32 d < sgn32 old then d else old
  | .maxS32 => if sgn32 old < sgn32 d then d else old
  | .minU32 => min old d
  | .maxU32 => max old d
  | .and32 => Nat.land old d
  | .or32 => Nat.lor old d
  | .xor32 => Nat.xor old d
  | .xchg32 => d
  | .cas32 => if old = d then d2 else old
  | .cas64 => if old = d then d2 else old
  | .fminF32 => (fF32.minMax false false old d).1
  | .fmaxF32 => (fF32.minMax true false old d).1

/-- The memory atomic that a vault atomic is (06 R174). -/
def AtomvOp.mem : AtomvOp → AtomOp
  | .add => .addU32
  | .minS => .minS32
  | .maxS => .maxS32
  | .minU => .minU32
  | .maxU => .maxU32
  | .and => .and32
  | .or => .or32
  | .xor => .xor32
  | .xchg => .xchg32
  | .cas => .cas32
  | .fadd => .faddF32
  | .fmin => .fminF32
  | .fmax => .fmaxF32

/-- The atomic operation of a word. -/
def atomOf : Instr → AtomOp
  | .atom op _ _ _ _ => op
  | .atomv op _ _ _ => AtomvOp.mem op
  | _ => .xchg32

/-- One lane of a word on bytes (06 R165, R170): what it reads, and what it writes, if anything. -/
def laneAct (i : Instr) (old : Nat) (a : LaneAcc) : Nat × Option Nat :=
  match memKind i with
  | .load => (old, none)
  | .pref => (0, none)
  | .store => (0, some a.data)
  | .atomic => (old, some (atomNew (atomOf i) old a.data a.data2))

/-- The lanes of a word on a line, one after another in ascending order, so that the highest lane of a store supplies a byte
(06 R166, R171): the line's bytes, the lanes with their results, and the bytes written. -/
def performIn (i : Instr) : List Byte → List LaneAcc → List Byte × List LaneAcc × BitVec 128
  | data, [] => (data, [], 0)
  | data, a :: r =>
    let n := accessSize i
    let off := a.pa % 128
    let old := leNat ((List.range n).map fun k => byteAt data (off + k))
    let (res, new) := laneAct i old a
    let (data, mask) := match new with
      | some v => ((List.range 128).map fun k =>
          if off ≤ k ∧ k < off + n then BitVec.ofNat 8 (v / 256 ^ (k - off)) else byteAt data k, rangeMask off n)
      | none => (data, 0)
    let q := performIn i data r
    (q.1, { a with res := res, st := .done } :: q.2.1, mask ||| q.2.2)

/-- Destination V registers of a load or atomic. -/
def memDest : Instr → Option (VReg × Nat)
  | .ld sz _ d _ _ => some (d, sz.regs)
  | .ldg sz _ d _ _ => some (d, sz.regs)
  | .ldAcq w _ d _ _ => some (d, wide w)
  | .atom op _ d _ _ => some (d, if op = .cas64 then 2 else 1)
  | .ldv sz d _ _ => some (d, sz.regs)
  | .atomv _ d _ _ => some (d, 1)
  | _ => none

/-- Extension of a loaded value to 32 bits (06 R165). -/
def loadExt (i : Instr) (v : Nat) : Nat :=
  match i with
  | .ld .s8 _ _ _ _ => ((BitVec.ofNat 8 v).signExtend 32).toNat
  | .ld .s16 _ _ _ _ => ((BitVec.ofNat 16 v).signExtend 32).toNat
  | _ => v

/-- The register writes of performed lanes. -/
def memWrites (i : Instr) (ls : List LaneAcc) : List Write :=
  match memDest i with
  | none => []
  | some (d, n) => (List.range n).map fun k =>
      .v (d.val + k) (ls.map fun a => (a.lane, BitVec.ofNat 32 (loadExt i a.res / 2 ^ (32 * k))))

end Sys2Proof.Machine
end

