-- ==== Sys2Proof/Machine/Agent.lean ====
section
/-! DEFINITION. The L1 data cache of a core as a coherence agent (08 R245, R246; 10 R278 to R300): lines, evictions, the performance of
waiting lanes, lease checks and flushes, and the agent rows of the tables. -/

namespace Sys2Proof.Machine

open Sys2Proof

/-! ## Lines -/

/-- A line at its home. -/
def State.hline (s : State) (ln : Nat) : HLine := Sparse.get {} (s.home (lineHome ln)).lines ln
def State.setHline (s : State) (ln : Nat) (x : HLine) : State :=
  s.modHome (lineHome ln) fun h => { h with lines := Sparse.set {} h.lines ln x }

/-- Does an L1, or the host bridge, leave a request of its own for a line until later: while the home recalls the line, or has a forward or
invalidations on their way for a line that the agent owns?  DEDUCED (log entry 17): so no forward or recall meets it in BR or BW, whose entries
are blank (10 R286), as 10 R282 has it of the shipped tables. -/
def State.mustHold (s : State) (n : Node) (ln : Nat) : Bool :=
  let l := s.hline ln
  l.rcl != 0 || (l.owner == some n && decide (12 ≤ l.st) && decide (l.st ≤ 14))

/-- A line of an L1, or of its eviction buffer. -/
def State.l1 (s : State) (c ln : Nat) : L1Line :=
  let k := s.core c
  let l := Sparse.get {} k.l1 ln
  if l = {} then Sparse.get {} k.buf ln else l

/-- Writes a line back where it stands: in the eviction buffer if it is there. -/
def State.setL1 (s : State) (c ln : Nat) (x : L1Line) : State :=
  s.modCore c fun k =>
    if Sparse.get ({} : L1Line) k.buf ln = {} then { k with l1 := Sparse.set {} k.l1 ln x } else { k with buf := Sparse.set {} k.buf ln x }

/-- Discards a line. -/
def State.dropL1 (s : State) (c ln : Nat) : State := s.setL1 c ln {}

/-- Moves a line to the eviction buffer (action BUF). -/
def State.bufL1 (s : State) (c ln : Nat) : State :=
  s.modCore c fun k => { k with buf := Sparse.set {} k.buf ln (Sparse.get {} k.l1 ln), l1 := Sparse.set {} k.l1 ln {} }

/-- The line's bytes with the overlay of a write-through table (10 R300). -/
def L1Line.view (l : L1Line) : List Byte := l.overlay.foldl (fun d o => mergeBytes d o.2 o.1) l.data

/-- The core's copy of a home's base and epoch (10 R291). -/
def State.baseAt (s : State) (c h : Nat) : Nat := Sparse.get 0 (s.core c).base h
def State.epochAt (s : State) (c h : Nat) : Nat := Sparse.get 0 (s.core c).epoch h

/-- The gangs whose bytes a line holds dirty. -/
def L1Line.gangs (l : L1Line) : List Nat := l.storers.map (·.1)

/-- The largest timestamp of some gangs (10 R294). -/
def State.maxPts (s : State) (gs : List Nat) : Nat := (gs.map fun g => (s.gang g).pts).max?.getD 0

/-- The number of an L1's next WRT. -/
def State.nextWrt (s : State) (c : Nat) : State := s.modCore c fun k => { k with wseq := k.wseq + 1 }

/-- A line's dirty bytes go home as WRT (10 R294), or at a rebase (10 R298). -/
def State.sendWrt (s : State) (c ln : Nat) (l : L1Line) (reb : Bool := false) : State :=
  let s := s.nextWrt c
  s.send
    { code := mWRT, src := .core c, dst := .home (lineHome ln), line := ln, due := 0, data := l.view, mask := l.dirty, rels := l.rels
      gangs := l.gangs, wts := l.wts, pts := s.maxPts l.gangs, wby := some (c, (s.core c).wseq), write := reb } latWay

/-! ## Lanes that are performed -/

/-- The releases that the bytes of some lanes carry. -/
def obsOf (rels : Sparse (List Rel)) (size : Nat) (ls : List LaneAcc) : List Rel :=
  (ls.flatMap fun a => (List.range size).flatMap fun k => Sparse.get [] rels (a.pa % 128 + k)).foldl addRel []

/-- The releases that the bytes written by some lanes of a word will carry (09 R258): those of the gang's fences, and its own; an atomic
passes on what it has read. -/
def State.writeRels (s : State) (g : Nat) (o : Op) (ls : List LaneAcc) (obs : List Rel) : List Rel :=
  let x := s.gang g
  match relScope o.i with
  | none => x.fenceRel
  | some sc => addRel ((if memKind o.i = .atomic then obs else []).foldl addRel x.fenceRel) (s.relOf g o (slicesOf ls) sc)

/-- What lanes of a word have read: an acquire takes the releases; a load or an atomic keeps them for a later FENCE (09 R258). -/
def State.observe (s : State) (g : Nat) (o : Op) (ls : List LaneAcc) (obs : List Rel) : State :=
  let s := match acqScope o.i with
    | some sc => s.acquire g o.tag (slicesOf ls) sc obs
    | none => s
  if obs.isEmpty then s else s.modGang g fun x => { x with seenRel := obs.foldl addRel x.seenRel }

/-- Some lanes of an operation have been performed: their results return in 20 cycles. -/
def State.finishLanes (s : State) (g : Nat) (o : Op) (ls : List LaneAcc) : State :=
  let s := s.modOp g o.tag fun o => { o with acc := o.acc.map fun a => (ls.find? fun b => b.lane == a.lane).getD a }
  match memWrites o.i ls with
  | [] => s
  | ws => s.modGang g fun x => { x with arr := x.arr ++ [(s.now + 20, o.tag, ws)] }

/-- Lanes whose bytes hold an uncorrectable error (20 R466). -/
def State.badLanes (s : State) (i : Instr) (ls : List LaneAcc) : List LaneAcc :=
  if memKind i = .store then [] else ls.filter fun a => s.life.badMem.contains (a.pa / 64)

/-- Lanes that read a half of an L1 line whose bytes came with an uncorrectable error (20 R466). -/
def L1Line.badLanes (l : L1Line) (i : Instr) (ls : List LaneAcc) : List LaneAcc :=
  if memKind i = .store then [] else ls.filter fun a => l.poison.getLsbD (a.pa / 64 % 2)

/-- The halves of a line that stay bad once the bytes of a mask have been written: a half whose every byte the L1 has written is good (20 R466). -/
def L1Line.stillBad (l : L1Line) (mask : BitVec 128) : BitVec 2 :=
  let full (h : Nat) : Bool := (l.dirty ||| mask) &&& rangeMask (64 * h) 64 == rangeMask (64 * h) 64
  l.poison &&& BitVec.ofNat 2 ((if full 0 then 0 else 1) + (if full 1 then 0 else 2))

/-- An uncorrectable error met by lanes of a word: a data fault, which holds them in the log again, and an error record. -/
def State.badFault (s : State) (g : Nat) (o : Op) (ls : List LaneAcc) : State :=
  if ls.isEmpty then s
  else
    let s := (s.modOp g o.tag fun o => { o with logged := true }).dataFault g o.tag .uncorrectable (laneBits (ls.map (·.lane)))
    let x := s.gang g
    s.memError (some x.tenant) ((ls.headD { lane := 0, addr := 0 }).pa / 128)

/-- Corrected errors of a block are counted (20 R469). -/
def State.countError (s : State) (k : Nat) : State :=
  { s with priv := { s.priv with cecnt := Sparse.set 0 s.priv.cecnt k (Sparse.get 0 s.priv.cecnt k + 1) } }

/-- An error in an L1 line (08 R246): in a line without written bytes it is corrected by refetch and counted; in a written line it is
uncorrectable, which is the answer. -/
def State.l1Error (s : State) (c ln : Nat) : Bool × State :=
  let l := s.l1 c ln
  if !l.bad then (false, s)
  else if l.dirty = 0 then (false, (s.setL1 c ln { l with bad := false }).countError c)
  else (true, s)

/-- Lanes that read a written L1 line with an error take a data fault; one record of KIND 1 is written (08 R246; 20 R466, R468). -/
def State.l1Fault (s : State) (c g : Nat) (o : Op) (ln : Nat) (ls : List LaneAcc) : State :=
  if ls.isEmpty then s
  else
    let s := (s.modOp g o.tag fun o => { o with logged := true }).dataFault g o.tag .uncorrectable (laneBits (ls.map (·.lane)))
    s.errorRecord 1 (128 * (c / 48) + c % 48) (some (s.gang g).tenant) (ln * 128) 0

/-- Lanes whose access carries a parity error (20 R464, R466): it fails, with a data fault and one record of KIND 3, and the upset is over. -/
def State.pathFault (s : State) (g : Nat) (o : Op) (addr : Nat) (ls : List LaneAcc) : State :=
  if ls.isEmpty then s
  else
    let s := (s.modOp g o.tag fun o => { o with logged := true }).dataFault g o.tag .uncorrectable (laneBits (ls.map (·.lane)))
    let s : State := { s with life := { s.life with parity := s.life.parity.filter fun p => !(p.1 == g && ls.any fun a => a.lane == p.2) } }
    let c := (s.gang g).core
    s.errorRecord 3 (128 * (c / 48) + c % 48) (some (s.gang g).tenant) addr 0

/-- Lanes of a gang whose access a parity error fails. -/
def State.parityLanes (s : State) (g : Nat) (ls : List LaneAcc) : List LaneAcc := ls.filter fun a => s.life.parity.contains (g, a.lane)

/-- Performs lanes of an operation in a line of the L1 (action PERF, 10 R279; 10 R294, R300 for what a store leaves). -/
def State.performL1 (s : State) (c g tag ln : Nat) (sel : LaneAcc → Bool) : State :=
  match s.op? g tag with
  | none => s
  | some o =>
    let here := o.acc.filter fun a => (a.st == .ready || a.st == .sent) && a.pa / 128 == ln && sel a
    let torn := s.parityLanes g here
    let s := s.pathFault g o (ln * 128) torn
    let all := here.filter fun a => !torn.contains a
    let (hurt, s) := s.l1Error c ln
    let lost := if hurt && memKind o.i != .store then all else []
    let s := s.l1Fault c g o ln lost
    let bad := if lost.isEmpty then (s.l1 c ln).badLanes o.i all else lost
    let s := if lost.isEmpty then s.badFault g o bad else s
    let ls := all.filter fun a => !bad.contains a
    if ls.isEmpty then s
    else
      let l := s.l1 c ln
      let obs := if memKind o.i = .store then [] else obsOf l.rels (accessSize o.i) ls
      let s := s.observe g o ls obs
      let s := if s.kind l.table = .lease then s else s.exchange g (slicesOf ls) (syncScope o.i) ln
      let (data, ls, mask) := performIn o.i l.view ls
      if mask = 0 then (s.setL1 c ln { l with used := s.now }).finishLanes g o ls
      else
        let rs := s.writeRels g o ls obs
        let rels := ((List.range 128).filter fun k => mask.getLsbD k).foldl (fun m k => Sparse.set [] m k rs) l.rels
        let l := { l with rels := rels, used := s.now, poison := l.stillBad mask }
        match s.kind l.table with
        | .through => (s.setL1 c ln { l with dirty := l.dirty ||| mask, overlay := l.overlay ++ [(mask, data)] }).finishLanes g o ls
        | .owned => (s.setL1 c ln { l with data := data, dirty := l.dirty ||| mask }).finishLanes g o ls
        | .lease =>
          let s := if l.dirty == 0#128 then s.at (s.now + 512) (.leaseFlushTimer c ln) else s
          let l := { l with
            data := data, dirty := l.dirty ||| mask, since := if l.dirty = 0 then s.now else l.since
            storers := Sparse.set 0 l.storers g (Sparse.get 0 l.storers g ||| mask) }
          (s.setL1 c ln l).finishLanes g o ls

/-! ## LEASE (10 R292 to R294) -/

/-- A load of gang `g` is served from its L1 line without a lookup (10 R292). -/
def State.leaseHit (s : State) (c g ln : Nat) : Bool :=
  let l := s.l1 c ln
  let h := lineHome ln
  (l.st == 1 || l.st == 2) && l.epoch == s.epochAt c h && decide ((s.gang g).pts ≤ s.baseAt c h + l.rts) &&
    decide (s.now < l.grant + (s.range ln).lease)

/-- Does gang `g` hold every byte of a lane dirty in the line (10 R294)? -/
def State.ownDirty (s : State) (c g ln size : Nat) (a : LaneAcc) : Bool :=
  decide (rangeMask (a.pa % 128) size &&& Sparse.get 0 (s.l1 c ln).storers g = rangeMask (a.pa % 128) size)

/-- An error met in a line whose bytes leave the L1, towards its home or another agent (08 R246; 20 R466, R468): in a line without written bytes it is
corrected by refetch and counted; of a written line one record of KIND 1 is written, and the bytes go as they are (DESIGN CHOICE, log entry 47). -/
def State.l1Leave (s : State) (c ln : Nat) : State :=
  let (hurt, s) := s.l1Error c ln
  if hurt then s.errorRecord 1 (128 * (c / 48) + c % 48) none (ln * 128) 0 else s

/-- Sends a line's dirty bytes as WRT, without a lookup (10 R294): VD becomes V, D becomes I.  BRD becomes BR, and the grant on its way, whose data the
home has sent before it takes these bytes, leaves them as they are (10 R281). -/
def State.flushLine (s : State) (c ln : Nat) : State :=
  let l := s.l1 c ln
  if l.dirty = 0 ∨ s.kind l.table ≠ .lease then s
  else
    let s := (s.l1Leave c ln).sendWrt c ln l
    let st := if l.st = 2 then 1 else if l.st = 3 then 0 else if l.st = 5 then 4 else l.st
    let kept := if l.st = 5 then l.kept ||| l.dirty else 0
    if st = 0 then s.dropL1 c ln else s.setL1 c ln { l with st := st, dirty := 0, storers := [], kept := kept }

/-- Flushes every LEASE line of a core that holds bytes of a gang (10 R294). -/
def State.flushGang (s : State) (c g : Nat) : State :=
  ((s.core c).l1.filter fun p => p.2.gangs.contains g).foldl (fun s p => s.flushLine c p.1) s

/-- Flushes every LEASE line of a core that holds dirty bytes, as a wide release of one of its gangs does (10 R294). -/
def State.flushCore (s : State) (c : Nat) : State :=
  ((s.core c).l1.filter fun p => p.2.dirty != 0#128).foldl (fun s p => s.flushLine c p.1) s

/-- Messages on their way, and requests that wait at a home. -/
def State.flying (s : State) : List Msg := s.net ++ s.homes.flatMap fun p => p.2.stalled

/-- Is a WRT of a core up to number `n` on its way, or its WBACK, or an UPDATE that it has caused (10 R294, R300; DEDUCED, log entry 30: until then its
store is not performed at that sharer, 09 R254)? -/
def State.coreOut (s : State) (c n : Nat) : Bool :=
  s.flying.any fun m => match m.wby with
    | some (k, j) => k == c && decide (j ≤ n)
    | none => false

/-- Has a gang a WRT whose WBACK has not arrived (10 R294), or an UPDATE with its bytes that a sharer has not taken (10 R300; DEDUCED, log entry 30: until
then its store is not performed at that sharer, 09 R254)? -/
def State.wrtOut (s : State) (g : Nat) : Bool :=
  (s.net.any fun m => (m.code == mWRT || m.code == mWBACK || m.code == mUPDATE) && m.gangs.contains g) ||
    s.homes.any fun p => p.2.stalled.any fun m => m.code == mWRT && m.gangs.contains g

/-- Is an UPDATE of a line on its way to a sharer? -/
def State.updOut (s : State) (ln : Nat) : Bool := s.net.any fun m => m.code == mUPDATE && m.line == ln

/-- Are bytes that a core has written in a line not performed beyond its L1: dirty, or on their way home, or an UPDATE with them on its way? -/
def State.lineOut (s : State) (c ln : Nat) : Bool :=
  (s.l1 c ln).dirty != 0 || !(s.l1 c ln).overlay.isEmpty || s.updOut ln ||
    s.flying.any fun m => m.line == ln && (match m.wby with
      | some (k, _) => k == c
      | none => false)

/-- The stalled requests of a line are retried in the next cycle (10 R283). -/
def State.wakeLine (s : State) (ln : Nat) : State :=
  if (s.home (lineHome ln)).stalled.any fun m => m.line == ln then s.at (s.now + 1) (.requestRetry (lineHome ln) ln) else s

/-! ## Agent rows -/

/-- The record of a protocol error (10 R282; 20 R468, KIND 5). -/
def State.protoError (s : State) (src ln : Nat) : State := s.errorRecord 5 src none (ln * 128) (lineHome ln)

/-- The message that an entry sends to the home, with the line as it stood; written bytes with an error are recorded as they leave (08 R246). -/
def State.l1Resp (s : State) (c ln e : Nat) (l : L1Line) (onb : Option Node) (g tag : Nat) : State :=
  let s := if entResp e = mWRT then s.nextWrt c else s
  let base : Msg :=
    { code := entResp e, src := .core c, dst := .home (lineHome ln), line := ln, due := 0, onb := onb, wts := l.wts, tag := tag
      wby := if entResp e = mWRT then some (c, (s.core c).wseq) else none }
  let m := if entResp e = mGETS ∨ entResp e = mGETX ∨ entResp e = mUPGN ∨ entResp e = mRENEW then
      { base with gangs := [g], pts := (s.gang g).pts, epoch := l.epoch }
    else if entResp e = mWRT ∧ s.kind l.table = .through then
      match l.overlay.getLast? with
      | some o => { base with data := o.2, mask := o.1, rels := l.rels, gangs := [g], pts := (s.gang g).pts }
      | none => base
    else if entResp e = mWBMX ∨ entResp e = mWRT ∨ entResp e = mFWDACK ∨ entResp e = mFWDACKX ∨ entResp e = mRCLDATA then
      { base with
        data := l.view, mask := l.dirty, rels := l.rels, gangs := l.gangs, pts := s.maxPts l.gangs }
    else base
  s.send m latWay

/-- Does an entry send the line's bytes to another agent or home? -/
def entGives (e : Nat) : Bool :=
  entAct e 0 || (entRv e && (entResp e == mWBMX || entResp e == mWRT || entResp e == mFWDACK || entResp e == mFWDACKX || entResp e == mRCLDATA))

/-- Accesses that wait in a line which waits for nothing are tried again. -/
def State.retryWaits (s : State) (c ln : Nat) : State :=
  let l := s.l1 c ln
  l.waits.foldl (fun s w => s.modOp w.gang w.tag fun o =>
    { o with acc := o.acc.map fun a => if a.st = .sent ∧ a.pa / 128 = ln then { a with st := .ready } else a }) (s.setL1 c ln { l with waits := [] })

/-- The state after an entry: a line in state 0 without overlay is gone. -/
def State.l1Next (s : State) (c ln st : Nat) : State :=
  let s := s.setL1 c ln { (s.l1 c ln) with st := st }
  if st = 0 ∧ (s.l1 c ln).overlay.isEmpty then (if (s.l1 c ln).waits.isEmpty then s else s.retryWaits c ln).dropL1 c ln else s

/-- Lanes of an operation on a line end as a NAK ends them (10 R282); a prefetch is dropped. -/
def State.endLanes (s : State) (g tag ln : Nat) (k : FaultKind) (sel : LaneAcc → Bool) : State :=
  match s.op? g tag with
  | none => s
  | some o =>
    let m := laneBits ((o.acc.filter fun a => (a.st == .ready || a.st == .sent) && a.pa / 128 == ln && sel a).map (·.lane))
    if m = 0 ∨ memKind o.i = .pref then s
    else
      let s := (s.modOp g tag fun o => { o with logged := true }).dataFault g tag k m
      if k = .page then s.pageRefused g tag else s

/-- EVICT of a line (10 R286, R296): none where its state does not allow it. -/
def State.evict (s : State) (c ln : Nat) : Option State :=
  let l := s.l1 c ln
  let e := s.entry l.table l.st mEVICT
  if entErr e || entAct e 10 || !l.overlay.isEmpty then none
  else
    let s := if entGives e then s.l1Leave c ln else s
    let s := if entAct e 4 then s.bufL1 c ln else s
    let s := if entAct e 5 then s.dropL1 c ln else s
    let s := if entRv e then s.l1Resp c ln e l none 0 0 else s
    some (if entNext e = 0 then s.dropL1 c ln else s.setL1 c ln { l with st := entNext e })

/-- Room for a line: a line marked `.last`, else the line used longest ago, is evicted (06 R167, 08 R245); none while no line may be evicted. -/
def State.makeRoom (s : State) (c ln : Nat) : Option State :=
  let k := s.core c
  if Sparse.get ({} : L1Line) k.l1 ln ≠ {} ∨ (k.l1.filter fun p => !p.2.bypass).length < Config.l1Lines then some s
  else
    let order := (k.l1.filter fun p => p.2.last) ++ orderBy (fun p q => decide (p.2.used ≤ q.2.used)) (k.l1.filter fun p => !p.2.last && !p.2.bypass)
    order.findSome? fun p => s.evict c p.1

/-- A line that was filled past the L1 leaves it once nothing waits in it, where its table lets it (06 R167). -/
def State.leaveBypass (s : State) (c ln : Nat) : State :=
  let l := s.l1 c ln
  if l.bypass && l.waits.isEmpty then (s.evict c ln).getD s else s

/-- The waiting access of a line: an LD or ST of operation `tag` of gang `g` (10 R280), with the lanes of `sel`; one that bypasses the L1 keeps
the line only while it waits (06 R167).  One that finds no room in the L1 is tried again. -/
def State.agentAccess (s : State) (c g tag ln code : Nat) (sel : LaneAcc → Bool) (past : Bool := false) : State :=
  match if past then some s else s.makeRoom c ln with
  | none => s
  | some s =>
  let l0 := s.l1 c ln
  let l := if l0 = {} then { l0 with table := (s.range ln).slot, bypass := past } else { l0 with bypass := l0.bypass && past }
  let e := s.entry l.table l.st code
  if entErr e then (s.protoError (128 * (c / 48) + c % 48) ln).endLanes g tag ln .uncorrectable sel
  else if entAct e 10 || (entRv e && s.mustHold (.core c) ln) then s
  else
    let s := s.setL1 c ln { l with used := s.now }
    let s := if entAct e 3 then s.performL1 c g tag ln sel
      else if entAct e 6 then s.endLanes g tag ln .page sel
      else
        let s := s.modOp g tag fun o =>
          { o with acc := o.acc.map fun a => if a.st = .ready ∧ a.pa / 128 = ln ∧ sel a then { a with st := .sent } else a }
        s.setL1 c ln { (s.l1 c ln) with
          used := s.now, table := l.table, bypass := l.bypass
          waits := l.waits ++ [{ gang := g, tag := tag, store := code == mST, atomic := false }] }
    let l := s.l1 c ln
    let s := if entAct e 4 then s.bufL1 c ln else s
    let s := if entAct e 5 then s.setL1 c ln { table := l.table, st := l.st, waits := l.waits, overlay := l.overlay, bypass := l.bypass } else s
    let s := s.setL1 c ln { (s.l1 c ln) with st := entNext e }
    let s := if entRv e then s.l1Resp c ln e l none g tag else s
    (s.l1Next c ln (entNext e)).leaveBypass c ln

/-- The accesses that wait in a line, those of `which`, are performed. -/
def State.serve (s : State) (c ln : Nat) (which : Wait → Bool) : State :=
  let l := s.l1 c ln
  let ws := l.waits.filter which
  let s := s.setL1 c ln { l with waits := l.waits.filter fun w => !which w }
  ws.foldl (fun s w => s.performL1 c w.gang w.tag ln fun a => a.st == .sent) s

/-- The accesses that wait in a line end as `f` says. -/
def State.failWaits (s : State) (c ln : Nat) (k : FaultKind) : State :=
  let l := s.l1 c ln
  let s := s.setL1 c ln { l with waits := [] }
  l.waits.foldl (fun s w => s.endLanes w.gang w.tag ln k fun a => a.st == .sent) s

/-- A REBASE that a line has left unconsumed in BR or BRD acts once its grant has come (10 R296, R298): dirty bytes go home, and the line is dropped. -/
def State.lateRebase (s : State) (c ln : Nat) : State :=
  let l := s.l1 c ln
  if l.rebase && l.st != 4 && l.st != 5 then (s.flushLine c ln).dropL1 c ln else s

/-- A NAK with no entry of its row (10 R282). -/
def State.plainNak (s : State) (c ln : Nat) : State :=
  let s := s.failWaits c ln .uncorrectable
  let l := s.l1 c ln
  if s.kind l.table = .lease ∧ l.st = 5 then (s.setL1 c ln { l with st := 3, kept := 0 }).lateRebase c ln
  else if l.st = 5 ∨ (s.kind l.table = .lease ∧ l.st = 4) then s.dropL1 c ln
  else s

/-- The grant that a DATAS or RENACK brings to a LEASE line (10 R293). -/
def State.takeGrant (s : State) (c ln : Nat) (m : Msg) : State :=
  let h := lineHome ln
  let l := s.l1 c ln
  let s := s.setL1 c ln { l with wts := m.wts, rts := m.rts, epoch := s.epochAt c h, grant := s.now }
  l.waits.foldl (fun s w => s.modGang w.gang fun x => { x with pts := max x.pts (s.baseAt c h + m.wts) }) s

/-- The timestamp of a WBACK (10 R294). -/
def State.takeStamp (s : State) (c ln : Nat) (m : Msg) : State :=
  let s := m.gangs.foldl (fun s g => s.modGang g fun x => { x with pts := max x.pts (s.baseAt c (lineHome ln) + m.wts) }) s
  let l := s.l1 c ln
  if l.st = 1 ∨ l.st = 2 then s.setL1 c ln { l with wts := m.wts, rts := m.wts } else s

/-- An answer to lanes performed at the home (10 R294, R299, R300): results, and the lanes that raced or were refused. -/
def State.homeAnswer (s : State) (c : Nat) (m : Msg) : State :=
  let g := m.gangs.headD 0
  let ln := m.line
  let lease := s.kind (s.range ln).slot = .lease
  let s := if lease then
      if m.code = mWBACK then
        let l := s.l1 c ln
        let s := if l.st = 1 ∨ l.st = 2 then
            s.setL1 c ln { l with data := mergeBytes l.data m.data (m.mask &&& ~~~l.dirty)
                                  rels := mergeRels l.rels m.rels (m.mask &&& ~~~l.dirty) } else s
        s.takeStamp c ln m
      else s.modGang g fun x => { x with pts := max x.pts (s.baseAt c (lineHome ln) + m.wts) }
    else s
  match s.op? g m.tag with
  | none => s
  | some o =>
    let raced := m.acc.filter fun a => a.st == .held
    let good := m.acc.filter fun a => a.st == .done
    let bad := s.badLanes o.i good
    let s := s.finishLanes g o (good.filter fun a => !bad.contains a)
    let s := s.badFault g o bad
    if m.code = mNAK then
      (s.modOp g o.tag fun o => { o with logged := true }).dataFault g o.tag .uncorrectable (laneBits (m.acc.map (·.lane)))
    else if raced.isEmpty then s
    else (s.modOp g o.tag fun o => { o with logged := true }).dataFault g o.tag .mmx (laneBits (raced.map (·.lane)))

/-- An L1 takes a message by the agent rows of its table (10 R279): the actions in ascending bit order, then the message sent. -/
def State.agentTake (s : State) (c : Nat) (m : Msg) : State :=
  let ln := m.line
  let l0 := s.l1 c ln
  let l := if l0 = {} then { l0 with table := (s.range ln).slot } else l0
  let e := s.entry l.table l.st m.code
  if entErr e then
    if m.code = mNAK then (s.plainNak c ln).wakeLine ln else s.protoError (128 * (c / 48) + c % 48) ln
  else
    let s := if entGives e then s.l1Leave c ln else s
    -- DATA, with XD
    let s := if entAct e 0 then
        s.send { code := if entAct e 2 then mDATAM else mDATAS, src := .core c, dst := m.onb.getD (.home (lineHome ln)), line := ln
                 due := 0, data := l.view, rels := l.rels, poison := l.poison } latWay
      else s
    -- WRMEM: under the agent's own dirty bytes
    let own := if s.kind l.table = .through then 0 else l.dirty
    let held := own ||| l.kept
    let mask := (if m.code = mUPDATE then m.mask else BitVec.allOnes 128) &&& ~~~held
    let s := if entAct e 1 then
        s.setL1 c ln { l with poison := if m.code = mUPDATE then l.poison else m.poison
                              data := mergeBytes l.data m.data mask, rels := mergeRels l.rels m.rels mask, used := s.now
                              dirty := if m.code = mUPDATE then l.dirty else own, kept := 0 }
      else if l0 = {} then s else s.setL1 c ln l
    -- PERF, BUF, DROP, FAULT
    let s := if entAct e 3 then s.serve c ln fun _ => true else s
    let s := if entAct e 4 then s.bufL1 c ln else s
    let s := if entAct e 5 then
        s.setL1 c ln { table := l.table, st := l.st, waits := (s.l1 c ln).waits, overlay := (s.l1 c ln).overlay, bypass := l.bypass }
      else s
    let s := if entAct e 6 then s.failWaits c ln .page else s
    -- TSW, TSR
    let s := if entAct e 12 then s.takeStamp c ln m else s
    let s := if entAct e 13 then s.takeGrant c ln m else s
    let s := if s.kind l.table = .through ∧ m.code = mWBACK then
        s.setL1 c ln { (s.l1 c ln) with overlay := (s.l1 c ln).overlay.drop 1 } else s
    -- the next state; then the loads that wait are served by what has arrived
    let s := if l0 = {} ∧ entNext e = 0 then s
      else s.setL1 c ln { (s.l1 c ln) with st := entNext e, kept := if entNext e = l.st then (s.l1 c ln).kept else 0 }
    let s := if m.code = mDATAS ∨ m.code = mDATAE ∨ m.code = mDATAM ∨ m.code = mRENACK then s.serve c ln fun w => !w.store else s
    let s := if entRv e then s.l1Resp c ln e l m.onb 0 m.tag else s
    let s := if entNext e = 0 then s.l1Next c ln 0 else s
    -- the home serves the line's queue once an UPDATE has been taken (log entry 30), or the agent's own request has ended (log entry 17)
    let s := if m.code = mINV ∨ m.code = mWBACK then s else s.wakeLine ln
    (s.lateRebase c ln).leaveBypass c ln

end Sys2Proof.Machine
end

