-- ==== Sys2Proof/Machine/HomeAgent.lean ====
section
/-! DEFINITION. The home agents (10 R276 to R301): classification and arbitration of requests, the home rows of the tables, timestamps and
rebase, recalls and the directory, accesses performed at the home, and non-caching requests. -/

namespace Sys2Proof.Machine

open Sys2Proof

/-! ## Lines at the home -/

/-- The state of a line at its home: a LEASE line is in HL, or in HRB while the home rebases (10 R297). -/
def State.hstate (s : State) (ln : Nat) : Nat :=
  if s.kind (s.range ln).slot = .lease then (if (s.home (lineHome ln)).inRebase then 9 else 8) else (s.hline ln).st

/-- Is a code a request (10 R281)? -/
def isRequest (code : Nat) : Bool := decide (mGETS ≤ code) && decide (code ≤ mRENEW)

/-- Is a message one that competes for its line at the home: a request, also a non-caching one, but for the bytes that a rebase sends home
(10 R283, R285, R298)? -/
def Msg.competes (m : Msg) : Bool := (isRequest m.code && !(m.write && m.code == mWRT)) || m.code == mNC

/-- The class of a message at its home (10 R280): upgrades by owner and sharers, write-backs by owner, acknowledgements by the
count that is left. -/
def State.classify (s : State) (m : Msg) : Nat :=
  let l := s.hline m.line
  if m.code = mUPGN ∨ m.code = mUPGO ∨ m.code = mUPGS then
    (if l.owner = some m.src then mUPGO else if l.sharers.contains m.src then mUPGS else mUPGN)
  else if m.code = mWBMX ∨ m.code = mWBMO then (if l.owner = some m.src then mWBMO else mWBMX)
  else if m.code = mINVACK ∨ m.code = mINVACKL then (if l.rcl = 0 ∧ l.acks = 1 then mINVACKL else mINVACK)
  else m.code

/-- The request port of a sender at a home (10 R283). -/
def portOf (h : Nat) (n : Node) : Nat :=
  if Node.tower n ≠ h / 8 then 48
  else match n with
    | .core c => c % Config.coresPerTower
    | .bridge _ => 49
    | .engine _ => 50
    | .home _ | .mgmt => 51

/-! ## Sending -/

/-- A message from a home to an agent, with data of the line if any; data from GDDR7 takes 310 cycles more (08 R252). -/
def State.homeSend (s : State) (m : Msg) (data : Option (List Byte × Sparse (List Rel))) (tenant : Option Nat) : State :=
  match data with
  | some d =>
    let (hit, s) := s.stackedTouch m.line tenant
    s.send { m with data := d.1, rels := d.2, mask := if m.acc.isEmpty then BitVec.allOnes 128 else m.mask }
      (latWay + if hit then 0 else Config.latDram - Config.latHome)
  | none => s.send m latWay

/-- The tenant on whose behalf a message was sent, if any. -/
def State.tenantOf (s : State) (m : Msg) : Option Nat := m.gangs.head?.map fun g => (s.gang g).tenant

/-! ## Stalled requests -/

/-- A request that is not taken waits in its line's queue, which is retried when the line changes (10 R283). -/
def State.stall (s : State) (m : Msg) : State := s.modHome (lineHome m.line) fun h => { h with stalled := h.stalled ++ [m] }

/-! ## Recalls and the directory (10 R301) -/

/-- The set of a line in the directory. -/
def dirSet (ln : Nat) : Nat := ln % 2048

/-- A recall is over: the line enters HI, without copies. -/
def State.recallDone (s : State) (ln : Nat) : State :=
  let s := s.setHline ln { (s.hline ln) with st := 8, owner := none, sharers := [], acks := 0, deferred := none, fwd := none, rcl := 0
                                             hold := s.now + 2, frozen := false }
  let s := s.modHome (lineHome ln) fun h => { h with dir := h.dir.filter fun k => k != ln }
  (s.wakeLine ln).at (s.now + 3) (.requestRetry (lineHome ln) ln)

/-- Has the owner of a line a request of its own under way: accesses that wait in its L1 line, or the host's at the bridge?  A home starts no
forward and no recall to it meanwhile (DEDUCED, log entry 17). -/
def State.ownerAway (s : State) (ln : Nat) : Bool :=
  match (s.hline ln).owner with
  | some (.core c) => !(s.l1 c ln).waits.isEmpty
  | some (.bridge _) => let b : BLine := Sparse.get {} s.bridge ln; b.st == 5 || b.st == 6
  | some (.home _) | some (.engine _) | some .mgmt | none => false

/-- Starts a recall of a line that is in no busy state (10 R301). -/
def State.recallLine (s : State) (ln : Nat) : State :=
  let l := s.hline ln
  if l.rcl ≠ 0 ∨ (12 ≤ l.st ∧ l.st ≤ 14) ∨ s.ownerAway ln then s
  else
    let msg (code : Nat) (d : Node) : Msg := { code := code, src := .home (lineHome ln), dst := d, line := ln, due := 0 }
    let targets := l.sharers.map (fun n => (mINV, n)) ++ (l.owner.toList.map fun n => (mRECALL, n))
    if targets.isEmpty then s.recallDone ln
    else
      let s := s.setHline ln { l with rcl := targets.length }
      targets.foldl (fun s p => s.send (msg p.1 p.2) latWay) s

/-- An answer to a recall: RCLDATA's bytes are merged, and the last answer ends it. -/
def State.recallAnswer (s : State) (m : Msg) : State :=
  let s := if m.code = mRCLDATA then s.writeLine m.line m.data m.mask m.rels else s
  let l := s.hline m.line
  if l.rcl ≤ 1 then s.recallDone m.line else s.setHline m.line { l with rcl := l.rcl - 1 }

/-- Room in the directory for a line that has no entry: none where a recall must end first. -/
def State.dirRoom (s : State) (ln : Nat) : Bool × State :=
  let h := s.home (lineHome ln)
  -- a frozen line keeps no copies to track, and stays (10 R290)
  if h.dir.contains ln || (s.hline ln).frozen then (true, s)
  else
    let same := h.dir.filter fun k => dirSet k == dirSet ln
    if same.length < 16 then (true, s.modHome (lineHome ln) fun h => { h with dir := h.dir ++ [ln] })
    else match same with
      | [] => (true, s)
      | v :: _ => (false, s.recallLine v)

/-! ## Rebase (10 R298) -/

/-- Largest offset. -/
def maxOffset : Nat := 2 ^ 23 - 1

/-- The write timestamp that a WRT gives a line, and the read timestamp that a grant gives it, as offsets (10 R293, R294). -/
def HLine.writeTs (l : HLine) (base pts : Nat) : Nat := max (pts - base) (l.rts + 1)
def HLine.readTs (l : HLine) (base len pts : Nat) : Nat := max (max l.rts (l.wts + len)) (pts + len - base)

/-- Is the timestamp of a request for a LEASE line beyond what the home's base reaches (10 R298)? -/
def State.overPts (s : State) (ln pts : Nat) : Bool :=
  decide ((s.home (lineHome ln)).base + maxOffset - (s.range ln).lease < pts)

/-- Must a home rebase before a LEASE line takes a request with this timestamp (10 R298)? -/
def State.overTime (s : State) (ln pts : Nat) (write : Bool) : Bool :=
  let b := (s.home (lineHome ln)).base
  let l := s.hline ln
  s.overPts ln pts || decide (maxOffset < if write then l.writeTs b pts else l.readTs b (s.range ln).lease pts)

/-- Must the home rebase before this request is served (10 R298)? -/
def State.needRebase (s : State) (m : Msg) : Bool :=
  s.kind (s.range m.line).slot == .lease && (m.code == mGETS || m.code == mRENEW || m.code == mWRT) &&
    s.overTime m.line m.pts (m.code == mWRT)

/-- The home advances its base and epoch, forgets its timestamps and tells every L1. -/
def State.startRebase (s : State) (h pts : Nat) : State :=
  let s := s.modHome h fun x =>
    { x with base := max (x.base + 2 ^ 23) pts, epoch := (x.epoch + 1) % 16, inRebase := true
             rebasing := List.range (2 * Config.coresPerTower)
             lines := x.lines.map fun p => (p.1, { p.2 with wts := 0, rts := 0 }) }
  let x := s.home h
  (List.range (2 * Config.coresPerTower)).foldl (fun s c =>
    s.send { code := mREBASE, src := .home h, dst := .core c, line := h, due := 0, base := x.base, epoch := x.epoch } latWay) s

/-- An L1 receives REBASE: it sends home the dirty bytes of the home's LEASE lines, drops these lines, takes the new base, and answers (10 R298).
A line in BR or BRD leaves REBASE unconsumed, as 10 R296 has it, until its grant comes; the L1 answers for the others meanwhile, since the home,
which stalls the line's request in HRB, would else wait for ever, against 10 R284 (DEDUCED, log entry 18). -/
def State.takeRebase (s : State) (c : Nat) (m : Msg) : State :=
  let h := m.line
  let mine := (s.core c).l1.filter fun p => lineHome p.1 == h && s.kind p.2.table == .lease
  let s := mine.foldl (fun s p =>
    if p.2.st = 4 ∨ p.2.st = 5 then s.setL1 c p.1 { p.2 with rebase := true }
    else if p.2.dirty = 0 then s.dropL1 c p.1
    else ((s.l1Leave c p.1).sendWrt c p.1 p.2 true).dropL1 c p.1) s
  let s := s.modCore c fun k => { k with base := Sparse.set 0 k.base h m.base, epoch := Sparse.set 0 k.epoch h m.epoch }
  s.send { code := mREBANS, src := .core c, dst := .home h, line := h, due := 0 } latWay

/-! ## Accesses performed at the home (10 R294, R299, R300) -/

/-- Is a word a synchronising access (09 R269)? -/
def isSync (i : Instr) : Bool := (syncScope i).isSome

/-- A lane's access as the race detector records it: by its gang, at its clock, through its virtual page (09 R262, R268). -/
def State.accOf (s : State) (g : Nat) (o : Op) (a : LaneAcc) : Acc :=
  let x := s.gang g
  { issuer := x.iss, clk := o.clk, write := decide (memKind o.i ≠ .load), sync := isSync o.i
    page := some (x.tenant * 2 ^ 67 + a.addr / 8192) }

/-- The lanes of a message performed at the home in ascending order; a checked lane that is reported as a race is not performed (09 R271). -/
def State.performHome (s : State) (m : Msg) (i : Instr) : State × List LaneAcc × List Byte × BitVec 128 :=
  let g := m.gangs.headD 0
  let o : Op := (s.op? g m.tag).getD { tag := m.tag, pc := 0, slot := 0, i := i, lanes := 0 }
  let size := accessSize i
  m.acc.foldl (fun (q : State × List LaneAcc × List Byte × BitVec 128) a =>
    let s := q.1
    let acc := s.accOf g o a
    let bytes := if m.chk then (List.range size).map fun k => a.pa + k else []
    let (race, s) := s.reported (bytes.map fun b => (b, acc)) ((s.gang g).lsuVc ((s.op? g m.tag).getD o))
    if race then (s, q.2.1 ++ [{ a with st := .held }], q.2.2.1, q.2.2.2)
    else
      let s := bytes.foldl (fun s b => s.note acc b) s
      let obs := if memKind i = .store then [] else obsOf (s.lineRels m.line) size [a]
      let s := s.observe g o [a] obs
      let s := if s.kind (s.range m.line).slot = .lease then s else s.exchange g (slicesOf [a]) (syncScope i) m.line
      let (data, ls, mask) := performIn i (s.lineData m.line) [a]
      let rs := if mask = 0 then [] else s.writeRels g o [a] obs
      let rels := ((List.range 128).filter fun k => mask.getLsbD k).map fun k => (k, rs)
      (s.writeLine m.line data mask rels, q.2.1 ++ ls, data, q.2.2.2 ||| mask)) (s, [], s.lineData m.line, 0)

/-! ## Entries of the home rows -/

/-- A home sends UPDATE to sharers (action BCST, 10 R279, R300): for a WRT, or for the write of an engine. -/
def State.broadcast (s : State) (ln : Nat) (m : Msg) (ns : List Node) : State :=
  ns.foldl (fun s n => s.send { code := mUPDATE, src := .home (lineHome ln), dst := n, line := ln, due := 0, data := s.lineData ln
                                mask := m.mask, rels := s.lineRels ln, gangs := m.gangs, wby := m.wby, cause := m.cause } latWay) s

/-- A home sends INV to sharers (action INVS). -/
def State.invalidate (s : State) (ln : Nat) (ns : List Node) : State :=
  ns.foldl (fun s n => s.send { code := mINV, src := .home (lineHome ln), dst := n, line := ln, due := 0 } latWay) s

/-- The directory entry of a line after actions 2 to 6 of an entry, ADDS to INVS (10 R279). -/
def HLine.dirAfter (l : HLine) (e : Nat) (req : Node) : HLine :=
  let l := if entAct e 2 then { l with sharers := if l.sharers.contains req then l.sharers else l.sharers ++ [req] } else l
  let l := if entAct e 3 then { l with sharers := l.sharers.filter fun n => n != req } else l
  let l := if entAct e 4 then { l with owner := some req, sharers := l.sharers.filter fun n => n != req } else l
  let l := if entAct e 5 then { l with owner := none } else l
  if entAct e 6 then { l with sharers := l.sharers.filter fun n => n == req, acks := (l.sharers.filter fun n => n != req).length } else l

/-- Applies an entry for a request (10 R279): the actions in ascending bit order, the message last. `req` is the requester. -/
def State.applyHome (s : State) (slot e : Nat) (m : Msg) (req : Node) : State :=
  let ln := m.line
  let h := lineHome ln
  let l := s.hline ln
  -- DATA is the line before WRMEM
  let now := (s.lineData ln, s.lineRels ln)
  let s := if entAct e 1 then s.writeLine ln m.data m.mask m.rels else s
  let out := if entAct e 6 then (l.dirAfter (e - 2 ^ 6) req).sharers.filter fun n => n != req else []
  let l := l.dirAfter e req
  let s := s.invalidate ln out
  -- TSW and TSR (10 R293, R294)
  let base := (s.home h).base
  let wts0 := l.wts
  let l := if entAct e 12 then { l with wts := l.writeTs base m.pts, rts := l.writeTs base m.pts } else l
  let l := if entAct e 13 then { l with rts := l.readTs base (s.range ln).lease m.pts } else l
  let s := s.setHline ln { l with st := entNext e, frozen := l.frozen || entAct e 15 }
  let s := if entAct e 14 then s.broadcast ln m l.sharers else s
  let answer (code : Nat) : Msg :=
    { code := code, src := .home h, dst := req, line := ln, due := 0, onb := some req, wts := l.wts, rts := l.rts, gangs := m.gangs
      tag := m.tag, acc := m.acc, op := m.op, chk := m.chk, mask := m.mask, wby := m.wby }
  let s := if !entRv e then s
    else if entAct e 7 then
      match l.owner with
      | some o => (s.send { (answer (entResp e)) with dst := o, acc := [], wby := none } latWay).setHline ln
          { (s.hline ln) with fwd := some req }
      | none => s
    else if entResp e = mRENACK ∧ (m.wts ≠ wts0 ∨ m.epoch ≠ (s.home h).epoch) then
      s.homeSend (answer mDATAS) (some (s.lineData ln, s.lineRels ln)) (s.tenantOf m)
    else if entResp e = mWBACK ∧ !m.acc.isEmpty then
      s.homeSend (answer mWBACK) (some (s.lineData ln, s.lineRels ln)) (s.tenantOf m)
    else s.homeSend (answer (entResp e)) (if entAct e 0 then some now else none) (s.tenantOf m)
  -- states without sharers (10 R279)
  let x := s.hline ln
  let s := if x.st = 9 ∧ x.sharers.isEmpty ∧ s.kind slot ≠ .lease then s.setHline ln { x with st := 8 }
    else if x.st = 11 ∧ x.sharers.isEmpty ∧ (slot = 1 ∨ slot = 3) then s.setHline ln { x with st := 10 }
    else s
  let s := if (s.hline ln).st = 8 ∨ (s.hline ln).frozen then s.modHome h fun k => { k with dir := k.dir.filter fun n => n != ln } else s
  s.wakeLine ln

/-- Would an entry, as its RESP is sent last, grant a line exclusively (DATAE, DATAM, UPGACK, or an XD forward) that the directory then records with
another owner or sharer (17 R429)?  The owner to which a forward goes gives its copy up by it. -/
def HLine.breach (l : HLine) (e : Nat) (req : Node) : Bool :=
  let d := l.dirAfter e req
  entRv e &&
    if entAct e 7 then (entResp e == mFWDX || entResp e == mDATAE || entResp e == mDATAM || entResp e == mUPGACK) &&
      d.sharers.any fun n => n != req && d.owner != some n
    else (entResp e == mDATAE || entResp e == mDATAM || entResp e == mUPGACK) &&
      (d.sharers.any (fun n => n != req) || (d.owner.isSome && d.owner != some req))

/-- The hardware invariant at run time (17 R429), for a loaded table with MULTIW 0: the entry whose RESP is sent now, which for REL is the deferred
one, and for WAIT its own only where no acknowledgement is awaited. -/
def State.exclusiveBreach (s : State) (slot e : Nat) (l : HLine) (req : Node) : Bool :=
  decide (5 ≤ slot) && !Sparse.get false s.tmulti slot &&
    if entAct e 9 then
      match l.deferred with
      | some (d, q) => l.breach d q.src
      | none => false
    else !(entAct e 8 && entAct e 6 && l.sharers.any (fun n => n != req)) && l.breach e req

/-- A home looks a message up and acts (10 R279, R281, R282); `code` is its class. -/
def State.homeLook (s : State) (m : Msg) (code : Nat) : State :=
  let ln := m.line
  let slot := (s.range ln).slot
  let l := s.hline ln
  let st := if m.write ∧ m.code = mWRT then 8 else s.hstate ln
  let e := s.entry slot st code
  let e := if entAct e 11 then s.entry slot st mGETX else e
  let req := if code = mFWDACK ∨ code = mFWDACKX then (l.fwd.getD m.src) else m.src
  if entErr e || s.exclusiveBreach slot e l req then
    let s := s.protoError (128 * (lineHome ln / 8) + 48) ln
    if isRequest m.code then
      s.send { code := mNAK, src := .home (lineHome ln), dst := m.src, line := ln, due := 0, gangs := m.gangs, tag := m.tag
               acc := m.acc, op := m.op } latWay
    else s
  else if entAct e 10 then s.stall m
  else
    let s := if code = mFWDACK ∨ code = mFWDACKX then s.setHline ln { l with fwd := none } else s
    let s := if code = mINVACK ∨ code = mINVACKL then s.setHline ln { (s.hline ln) with acks := l.acks - 1 } else s
    let (m, s) := match m.op, m.acc with
      | some i, _ :: _ =>
        let q := s.performHome m i
        ({ m with acc := q.2.1, data := q.2.2.1, mask := q.2.2.2, rels := q.1.lineRels ln }, q.1)
      | _, _ => (m, s)
    if entAct e 9 then
      match (s.hline ln).deferred with
      | some (d, q) => (s.setHline ln { (s.hline ln) with deferred := none }).applyHome slot d q q.src
      | none => s
    else if entAct e 8 then
      let l := s.hline ln
      let out := if entAct e 6 then l.sharers.filter fun n => n != req else []
      let l := if entAct e 6 then { l with sharers := l.sharers.filter fun n => n == req } else l
      let d := e - 2 ^ 8 - (if entAct e 6 then 2 ^ 6 else 0)
      if out.isEmpty then (s.setHline ln { l with acks := 0 }).applyHome slot d m req
      else
        (s.setHline ln { l with acks := out.length, deferred := some (d, m), st := 12 }).invalidate ln out
    else s.applyHome slot e m req

/-- Does a message write bytes back under the old table, which a range change lets through (17 R430)? -/
def Msg.writesBack (m : Msg) : Bool := decide (mWBMO ≤ m.code) && decide (m.code ≤ mWRT) && m.acc.isEmpty

/-- Does a change of a range register that is in progress concern a line (17 R430)? -/
def State.lineChanging (s : State) (ln : Nat) : Bool :=
  match (s.home (lineHome ln)).chg with
  | some (n, w) => rangeCovers w (ln * 128) ||
    (match (s.home (lineHome ln)).ranges.lookup n with
     | some o => rangeCovers o (ln * 128)
     | none => false)
  | none => false

/-- Does the entry of a request send a forward to an owner that has a request of its own under way (DEDUCED, log entry 17)? -/
def State.fwdAway (s : State) (m : Msg) : Bool :=
  let slot := (s.range m.line).slot
  let e := s.entry slot (s.hstate m.line) (s.classify m)
  let e := if entAct e 11 then s.entry slot (s.hstate m.line) mGETX else e
  !entErr e && entAct e 7 && s.ownerAway m.line

/-- Does the home stall a request before any lookup: a recall, a forward on behalf of its sender, a change of its range, the cycles that a recall
leaves to who asked for it (10 R281, R301; 17 R430), a forward to an owner that is away, or UPDATEs of a write-through line on their way (log
entries 17, 30)? -/
def State.homeBusy (s : State) (m : Msg) : Bool :=
  let l := s.hline m.line
  l.rcl != 0 || l.fwd == some m.src || decide (s.now < l.hold) || (!m.writesBack && s.lineChanging m.line) || s.fwdAway m ||
    (s.kind (s.range m.line).slot == .through && s.updOut m.line)

/-- Has an L1 a flush of the same line that waits at the home, which the bytes that a rebase sends home must not pass (10 R281, R298)? -/
def State.behindFlush (s : State) (m : Msg) : Bool :=
  (s.home (lineHome m.line)).stalled.any fun q => q.code == mWRT && q.src == m.src && q.line == m.line

/-- A home takes a message (10 R280 to R301). -/
def State.homeTake (s : State) (m : Msg) : State :=
  let h := lineHome m.line
  let s := s.modHome h fun x => { x with asleep := false, lastReq := s.now }
  let code := s.classify m
  if m.code = mRCLDATA ∨ m.code = mRCLACK then s.recallAnswer m
  else if (m.code = mINVACK ∨ m.code = mINVACKL) ∧ (s.hline m.line).rcl ≠ 0 then s.recallAnswer m
  else if isRequest m.code then
    if m.write ∧ m.code = mWRT then
      -- bytes that a rebase sends home: applied at once under the new base, unless an earlier flush waits or the offset would be too large
      if s.behindFlush m || s.overTime m.line m.pts true then s.stall { m with write := false } else s.homeLook m code
    else if s.homeBusy m || (s.home h).inRebase && s.kind (s.range m.line).slot == .lease then s.stall m
    else if s.needRebase m then (s.stall m).startRebase h m.pts
    else if s.kind (s.range m.line).slot ≠ .lease ∧ (code = mGETS ∨ code = mGETX ∨ code = mUPGN) then
      let (ok, s) := s.dirRoom m.line
      if ok then s.homeLook m code else s.stall m
    else s.homeLook m code
  else s.homeLook m code

/-! ## Non-caching requests (10 R285) -/

/-- What a non-caching request finds: data with the line's write timestamp, a refusal, or a wait. -/
inductive NcRes where
  | data (l : List Byte) (ts : Nat)
  | nak
  | wait
  deriving DecidableEq, Repr

/-- A non-caching write: mask, bytes and their releases. -/
abbrev NcWrite := BitVec 128 × List Byte × Sparse (List Rel)

/-- A NON-CACHING ACCESS to a line on behalf of a tenant, if any, with the requester's timestamp: a read, or a write of masked bytes.  It waits
while a rebase, or a recall that it needs, runs. -/
def State.ncLine (s : State) (ln : Nat) (w : Option NcWrite) (pts : Nat := 0) (tenant : Option Nat := none)
    (cause : Option Nat := none) : NcRes × State :=
  let slot := (s.range ln).slot
  let l := s.hline ln
  let h := lineHome ln
  let s := s.modHome h fun x => { x with asleep := false, lastReq := s.now }
  let base := (s.home h).base
  let touch (s : State) : State :=
    let (hit, s) := s.stackedTouch ln tenant
    if hit then s else { s with extra := max s.extra (Config.latDram - Config.latHome) }
  let read (s : State) (ts : Nat) : NcRes × State := (.data (s.lineData ln) ts, touch s)
  let put (s : State) (w : NcWrite) : State := touch (s.writeLine ln w.2.1 w.1 w.2.2)
  match s.kind slot with
  | .lease =>
    if (s.home h).inRebase then (.wait, s)
    else if s.overPts ln pts || (w.isSome && s.overTime ln pts true) then (.wait, s.startRebase h pts)
    else match w with
      | none => read s (base + l.wts)
      | some w =>
        let t := l.writeTs base pts
        (.data [] (base + t), (put s w).setHline ln { l with wts := t, rts := t })
  | .through =>
    match w with
    | none => read s 0
    | some w =>
      (.data [] 0, (put s w).broadcast ln { code := mWRT, src := .mgmt, dst := .mgmt, line := ln, due := 0, mask := w.1, cause := cause } l.sharers)
  | .owned =>
    if l.rcl ≠ 0 ∨ (12 ≤ l.st ∧ l.st ≤ 14) then (.wait, s)
    else match w with
      | none => if l.owner.isNone || l.frozen then read s 0 else (.wait, s.recallLine ln)
      | some w =>
        if l.frozen then (.nak, s)
        else if l.st = 8 then (.data [] 0, put s w)
        else (.wait, s.recallLine ln)

end Sys2Proof.Machine
end

