-- ==== Sys2Proof/Machine/Bridge.lean ====
section
/-! DEFINITION. The host bridge (10 R302 to R304): halves, the agent of a host-held line, back-invalidation snoops, and the host's
accesses to device memory (19 R452). -/

namespace Sys2Proof.Machine

open Sys2Proof

/-! ## Lines of the bridge -/

def State.bline (s : State) (ln : Nat) : BLine := Sparse.get {} s.bridge ln
def State.setBline (s : State) (ln : Nat) (b : BLine) : State := { s with bridge := Sparse.set {} s.bridge ln b }

/-- A half of a line. -/
def BLine.half (b : BLine) (h : Nat) : Half := if h = 0 then b.h0 else b.h1
def BLine.setHalf (b : BLine) (h : Nat) (x : Half) : BLine := if h = 0 then { b with h0 := x } else { b with h1 := x }

/-- The bytes of a half of a line. -/
def halfMask (h : Nat) : BitVec 128 := rangeMask (64 * h) 64

/-- The bridge of a line: that of its home's tower. -/
def bridgeOf (ln : Nat) : Node := .bridge (lineHome ln / 8)

/-- Where device memory begins for the host: the base of the HDM decoder once it is committed, else 0 (19 R441; log entry 53). -/
def State.hdmAt (s : State) : Nat := if s.priv.cfg.hdmCtl.getLsbD 10 then s.priv.cfg.hdmBase.toNat else 0

/-- The device's address that a host physical address reaches over CXL.mem (19 R441); none before Memory_Active or beyond device memory (20
R459, R460). -/
def State.hostPa (s : State) (hpa : Nat) : Option Nat :=
  if s.life.booted && decide (s.hdmAt ≤ hpa) && s.isDevice (hpa - s.hdmAt) then some (hpa - s.hdmAt) else none

/-- A host request of a line waits for its turn: behind those that reached the bridge before it, else it runs (19 R452). -/
def State.hostTurn (s : State) (ln : Nat) (i : Instr) (f : State → State) : State :=
  let b := s.bline ln
  let run (s : State) : State :=
    let s := f s
    match (s.bline ln).todo with
    | [] => s
    | j :: _ => if s.agenda.any fun p => p.2 == j then s else s.at (s.now + 1) j
  match b.todo with
  | [] => run s
  | j :: r => if j = i then run (s.setBline ln { b with todo := r }) else s.setBline ln { b with todo := b.todo ++ [i] }

/-- A host request of a line stays the first of those that wait, and is tried again. -/
def State.hostAgain (s : State) (ln : Nat) (i : Instr) : State :=
  (s.setBline ln { (s.bline ln) with todo := i :: (s.bline ln).todo }).at (s.now + 1) i

/-- May the host cache the line (10 R302)? -/
def State.hostMay (s : State) (ln : Nat) : Bool :=
  let r := s.range ln
  r.hv && (r.slot == 1 || r.slot == 4)

/-- The host as an issuer (09 R274). -/
def hostIssuer : Issuer := { who := .host }

/-- What a host write releases: the host's writes that are performed before it, and what the host has read (09 R274, 19 R445, R452). -/
def State.hostRel (s : State) : Rel := { who := hostIssuer, scope := .system, pts := s.hostK.pts, vc := s.hostK.vc }

/-- The bytes that the host has written carry its release. -/
def State.hostRels (s : State) (mask : BitVec 128) : Sparse (List Rel) :=
  ((List.range 128).filter fun k => mask.getLsbD k).map fun k => (k, [s.hostRel])

/-- The host has read bytes that carry releases: those at HOST and SYSTEM scope concern it (09 R274). -/
def State.hostSees (s : State) (rels : Sparse (List Rel)) (h : Nat) : State :=
  let rs := (rels.filter fun p => p.1 / 64 == h).flatMap (·.2)
  { s with hostK := s.hostK.join (knowOf rs .system hostIssuer) }

/-- A message from the bridge about a line; what it writes back lies over the home's data. -/
def State.bridgeSend (s : State) (ln code : Nat) (b : BLine) (dst onb : Option Node) : State :=
  s.send { code := code, src := bridgeOf ln, dst := dst.getD (.home (lineHome ln)), line := ln, due := 0, onb := onb
           data := mergeBytes (s.lineData ln) b.data b.dirty, mask := b.dirty, rels := s.hostRels b.dirty } latWay

/-- The host receives bytes, with poison where they could not be given. -/
def State.hostGets (s : State) (data : List Byte) (poison : Bool) : State := { s with priv := { s.priv with answer := data, poison := poison } }

/-- The host receives the bytes of a half; an uncorrectable error, of which a record is written, or a parity error of the path arrives as poison
(20 R464, R466). -/
def State.hostAnswer (s : State) (pa : Nat) (data : List Byte) (bad : Bool) : State :=
  let s := if bad then s.memError none (pa / 128) else s
  if s.life.paths.contains 2 then
    (({ s with life := { s.life with paths := s.life.paths.filter (· != 2) } } : State).errorRecord 3 (128 * (lineHome (pa / 128) / 8) + 49) none pa 0).hostGets
      data true
  else s.hostGets data bad

/-- The host receives a half as the home holds it. -/
def State.hostReads (s : State) (ln h : Nat) : State :=
  let pa := 128 * ln + 64 * h
  (s.hostAnswer pa (s.bytes pa 64) (s.life.badMem.contains (pa / 64))).hostSees (s.lineRels ln) h

/-- The device's data of a half at the home. -/
def State.halfData (s : State) (ln h : Nat) : List Byte := s.bytes (128 * ln + 64 * h) 64

/-- A non-caching request of the host (10 R285). -/
def State.hostNc (s : State) (pa : Nat) (write : Bool) (data : List Byte) (mask : BitVec 128) : State :=
  let ln := pa / 128
  s.send { code := mNC, src := bridgeOf ln, dst := .home (lineHome ln), line := ln, due := 0, write := write, data := data, mask := mask
           tag := pa / 64 % 2, pts := if write then s.hostK.pts else 0, rels := if write then s.hostRels mask else [] } latWay

/-! ## Host reads -/

/-- The bridge asks its home by the ST row of its agent state (10 R286, R304): GETX or an upgrade; or takes M at once. -/
def State.bridgeOwn (s : State) (ln h : Nat) : State :=
  let b := s.bline ln
  let e := s.entry (s.range ln).slot b.st mST
  if entErr e || entAct e 10 || (entRv e && s.mustHold (bridgeOf ln) ln) then s.hostAgain ln (.hostReadOwn (s.hdmAt + 128 * ln + 64 * h))
  else if entAct e 3 then
    (s.setBline ln { b.setHalf h .m with st := entNext e, want := none }).hostReads ln h
  else
    let s := s.setBline ln { b with st := entNext e, want := some (h, true) }
    if entRv e then s.bridgeSend ln (entResp e) {} none none else s

/-- The snoops that a message needs: of the other half for an ownership read, of each M half for a shared forward, else of each half not I. -/
def BLine.snoopsFor (b : BLine) (code : Nat) : Nat :=
  if code = mST then 1
  else ([b.h0, b.h1].filter fun x => if code = mFWDS then x == .m else x != .i).length

/-- May the snoops of a line for a message be sent: at most 256 are outstanding per tower (19 R440)? -/
def State.snoopFits (s : State) (ln code : Nat) : Bool :=
  decide ((s.tower (lineHome ln / 8)).snoops.length + (s.bline ln).snoopsFor code ≤ 256)

/-- Starts the snoops of a line's halves on behalf of a message. -/
def State.bridgeSnoop (s : State) (ln : Nat) (m : Msg) : State :=
  let n := (s.bline ln).snoopsFor m.code
  let s := s.modTower (lineHome ln / 8) fun t => { t with snoops := t.snoops ++ List.replicate n (lineHome ln / 8, ln) }
  s.setBline ln { (s.bline ln) with snooped := some m }

/-- A message that stands for the bridge's own reason to snoop: EVICT, or ST for an ownership read. -/
def ownSnoop (ln code h : Nat) : Msg := { code := code, src := bridgeOf ln, dst := bridgeOf ln, line := ln, due := 0, tag := h }

/-- Room for a new line: the first line that rests is invalidated (10 R302). -/
def State.bridgeRoom (s : State) (ln : Nat) : Option State :=
  let mine := s.bridge.filter fun p => lineHome p.1 / 8 == lineHome ln / 8
  if mine.length < 65536 ∨ mine.any (fun p => p.1 == ln) then none
  else match mine.find? fun p => p.2.snooped.isNone && p.2.want.isNone && (1 ≤ p.2.st && p.2.st ≤ 4) with
    | some p => some (if s.snoopFits p.1 mEVICT then s.bridgeSnoop p.1 (ownSnoop p.1 mEVICT 0) else s)
    | none => some s

/-- The host reads a half, for sharing or for ownership (10 R304). -/
def State.bridgeRead (s : State) (pa : Nat) (own : Bool) : State :=
  let ln := pa / 128
  let h := pa / 64 % 2
  let b := s.bline ln
  let again : Instr := if own then .hostReadOwn (s.hdmAt + pa) else .hostReadShared (s.hdmAt + pa)
  if b.want.isSome || b.snooped.isSome || 5 ≤ b.st then s.hostAgain ln again
  else match s.bridgeRoom ln with
  | some s => s.hostAgain ln again
  | none =>
    if !own && !(b.half (1 - h) == .m) then
      if b.st = 0 then
        let e := s.entry (s.range ln).slot 0 mLD
        (s.setBline ln { b with st := entNext e, want := some (h, false) }).bridgeSend ln (entResp e) {} none none
      else
        (s.setBline ln (if b.half h = .i then b.setHalf h .s else b)).hostReads ln h
    else if b.half (1 - h) = .s then
      if !s.snoopFits ln mST then s.hostAgain ln again
      else
      let s := s.setBline ln { b with want := some (h, true) }
      s.bridgeSnoop ln (ownSnoop ln mST h)
    else s.bridgeOwn ln h

/-! ## Write-backs -/

/-- The bridge gives a line up: a write-back, or the clean eviction of a shared line (10 R286, R304). -/
def State.bridgeEvict (s : State) (ln : Nat) : State :=
  let b := s.bline ln
  let e := s.entry (s.range ln).slot b.st mEVICT
  if entErr e || !entRv e then s
  else
    let s := s.bridgeSend ln (entResp e) b none none
    s.setBline ln { b with st := entNext e, h0 := .i, h1 := .i }

/-- The host writes back a half that it holds M, in the bytes of `some_`; one that a snoop takes from it waits for the BIRsp (10 R304). -/
def State.bridgeWriteback (s : State) (pa : Nat) (data : List Byte) (some_ : BitVec 128 := BitVec.allOnes 128) : State :=
  let ln := pa / 128
  let h := pa / 64 % 2
  let b := s.bline ln
  let mask := halfMask h &&& some_
  let line := List.replicate (64 * h) (0 : Byte) ++ data.take 64
  if b.half h ≠ .m then s
  else
    let b' := { b with data := mergeBytes b.data line mask, dirty := b.dirty ||| mask }
    match b.snooped with
    | some m => s.setBline ln (b'.setHalf h (if m.code = mFWDS then .s else .i))
    | none =>
      if b.half (1 - h) = .m then
        let s := s.send { code := mWRT, src := bridgeOf ln, dst := .home (lineHome ln), line := ln, due := 0, data := line
                          mask := mask, rels := s.hostRels mask } latWay
        s.setBline ln (b.setHalf h .i)
      else (s.setBline ln (b'.setHalf h .i)).bridgeEvict ln

/-- The host leaves an S half; the bridge gives the line up when both are I. -/
def State.bridgeDrop (s : State) (pa : Nat) : State :=
  let ln := pa / 128
  let h := pa / 64 % 2
  let b := s.bline ln
  if b.half h ≠ .s then s
  else
    let b := b.setHalf h .i
    let s := s.setBline ln b
    if b.half (1 - h) = .i ∧ b.snooped.isNone ∧ b.want.isNone then s.bridgeEvict ln else s

/-! ## Messages at the bridge -/

/-- Does a message take a half from the host, so that a snoop must be answered first? -/
def BLine.mustSnoop (b : BLine) (code : Nat) : Bool :=
  if code = mFWDS then b.h0 == .m || b.h1 == .m
  else (code == mINV || code == mRECALL || code == mFWDX) && (b.h0 != .i || b.h1 != .i)

/-- Must a message wait at the bridge: behind a snoop that is not answered (10 R304), or for room for its snoops (19 R440)? -/
def State.bridgeHolds (s : State) (m : Msg) : Bool :=
  let b := s.bline m.line
  (b.snooped.isSome && (m.code == mINV || m.code == mRECALL || m.code == mFWDS || m.code == mFWDX)) ||
    (b.mustSnoop m.code && !s.snoopFits m.line m.code)

/-- An INV, RECALL or forward acts on a line whose snoops are answered. -/
def State.bridgeAct (s : State) (m : Msg) : State :=
  let ln := m.line
  let b := s.bline ln
  let e := s.entry (s.range ln).slot b.st m.code
  if entErr e then (s.setBline ln { b with snooped := none }).protoError (128 * (lineHome ln / 8) + 49) ln
  else
    let s := if entAct e 0 then s.bridgeSend ln (if entAct e 2 then mDATAM else mDATAS) b m.onb none else s
    let s := if entRv e then s.bridgeSend ln (entResp e) b none m.onb else s
    let b := { b with data := [], dirty := 0, st := entNext e, snooped := none }
    s.setBline ln (if entAct e 5 ∧ m.code ≠ mFWDS then { b with h0 := .i, h1 := .i } else b)

/-- The bridge takes a message (10 R304): snoops come before INV, RECALL and forwards; a grant ends the host's read. -/
def State.bridgeTake (s : State) (m : Msg) : State :=
  let ln := m.line
  let b := s.bline ln
  if b.mustSnoop m.code then s.bridgeSnoop ln m
  else if m.code = mINV ∨ m.code = mRECALL ∨ m.code = mFWDS ∨ m.code = mFWDX then s.bridgeAct m
  else
    let e := s.entry (s.range ln).slot b.st m.code
    if entErr e then
      match m.code == mNAK, b.want with
      | true, some _ => (s.setBline ln { b with want := none, st := if b.st = 5 then 0 else b.st }).hostGets [] true
      | true, none => s
      | false, _ => s.protoError (128 * (lineHome ln / 8) + 49) ln
    else
      let b := { b with st := entNext e }
      -- the MemWrs whose bytes the home has taken are complete (19 R452)
      let done := if m.code = mWBACK then b.writes else 0
      let b := { b with writes := b.writes - done }
      let s : State := { s with priv := { s.priv with memwrs := s.priv.memwrs + done } }
      let s := s.wakeLine ln
      match b.want with
      | none => s.setBline ln (if entNext e = 0 then { todo := b.todo, writes := b.writes } else b)
      | some (h, own) =>
        let pa := 128 * ln + 64 * h
        if entAct e 6 then (s.setBline ln { todo := b.todo }).hostGets [] true
        else if entNext e = 5 ∨ entNext e = 6 then s.setBline ln b
        else
          let data := if m.data.isEmpty then s.halfData ln h else (m.data.drop (64 * h)).take 64
          let b := if own then { b.setHalf h .m with want := none } else { b.setHalf h .s with want := none }
          ((s.setBline ln b).hostAnswer pa data (if m.data.isEmpty then s.life.badMem.contains (pa / 64) else m.poison.getLsbD h)).hostSees (if m.data.isEmpty then s.lineRels ln else m.rels) h

/-- BIRsp (10 R304): the halves that were taken are I, or S after BISnpData, and the pending action completes. -/
def State.bridgeRsp (s : State) (ln : Nat) : State :=
  let b := s.bline ln
  match b.snooped with
  | none => s
  | some m =>
    let s := s.modTower (lineHome ln / 8) fun t => { t with snoops := t.snoops.filter fun p => p.2 != ln }
    if m.code = mST then
      let b := { b with snooped := none, want := none }
      (s.setBline ln (b.setHalf (1 - m.tag) .i)).bridgeOwn ln m.tag
    else if m.code = mEVICT then (s.setBline ln { b with snooped := none, h0 := .i, h1 := .i }).bridgeEvict ln
    else if m.code = mFWDS then
      let keep (x : Half) : Half := if x = .m then .s else x
      (s.setBline ln { b with h0 := keep b.h0, h1 := keep b.h1 }).bridgeAct m
    else (s.setBline ln { b with h0 := .i, h1 := .i }).bridgeAct m

/-! ## The host's rows -/

/-- A host read `i` of a half, for sharing or for ownership: a line that the host may not cache is read as a non-caching request (10 R302, R304); an address
that is not device memory answers with poison. -/
def State.hostRead (s : State) (i : Instr) (hpa : Nat) (own : Bool) : State :=
  match s.hostPa hpa with
  | none => s.hostGets [] true
  | some pa => s.hostTurn (pa / 128) i fun s => if s.hostMay (pa / 128) then s.bridgeRead pa own else s.hostNc pa false [] 0

/-- HOST_READ_SHARED (10 R304); a line that the host may not cache is read as a non-caching request (10 R302). -/
def execHostReadShared (hpa : Nat) (s : State) : Host.Outcome State Fault Refusal := .next (s.hostRead (.hostReadShared hpa) hpa false)

/-- HOST_READ_OWN (10 R304). -/
def execHostReadOwn (hpa : Nat) (s : State) : Host.Outcome State Fault Refusal := .next (s.hostRead (.hostReadOwn hpa) hpa true)

/-- HOST_WRITEBACK (10 R304). -/
def execHostWriteback (hpa : Nat) (data : List Byte) (s : State) : Host.Outcome State Fault Refusal :=
  match s.hostPa hpa with
  | none => .next s
  | some pa => .next (s.bridgeWriteback pa data)

/-- HOST_DROP_HALF (10 R304). -/
def execHostDropHalf (hpa : Nat) (s : State) : Host.Outcome State Fault Refusal :=
  match s.hostPa hpa with
  | none => .next s
  | some pa => .next (s.bridgeDrop pa)

/-- BIRSP (10 R304). -/
def execBirsp (tower line : Nat) (s : State) : Host.Outcome State Fault Refusal :=
  if lineHome line / 8 = tower then .next (s.bridgeRsp line) else .next s

/-- MEMRD (19 R452): a line that the host may cache is read for sharing, any other by a non-caching request. -/
def execMemrd (hpa : Nat) (s : State) : Host.Outcome State Fault Refusal := .next (s.hostRead (.memrd hpa) hpa false)

/-- A host write of the masked bytes of a 64-byte half (19 R452), whose completion follows once it is performed: in a half that the host holds M they
are written back. One whose path has a parity error is not performed (20 R466). -/
def State.hostWrite (s : State) (i : Instr) (pa : Nat) (data : List Byte) (mask : DWord) : State :=
  let ln := pa / 128
  let h := pa / 64 % 2
  let bytes := mask.setWidth 128 <<< (64 * h)
  let nc (s : State) : State := s.hostNc pa true (List.replicate (64 * h) 0 ++ data.take 64) bytes
  if s.life.paths.contains 2 then
    ({ s with life := { s.life with paths := s.life.paths.filter (· != 2) } } : State).errorRecord 3 (128 * (lineHome ln / 8) + 49) none pa 0
  else s.hostTurn ln i fun s =>
    let b := s.bline ln
    if !s.hostMay ln then nc s
    else if b.want.isSome || b.snooped.isSome then s.hostAgain ln i
    else if b.half h = .m then (s.setBline ln { b with writes := b.writes + 1 }).bridgeWriteback pa data bytes
    else nc s

/-- MEMWR (19 R452). -/
def execMemwr (hpa : Nat) (data : List Byte) (mask : DWord) (s : State) : Host.Outcome State Fault Refusal :=
  match s.hostPa hpa with
  | none => .next s
  | some pa => .next (s.hostWrite (.memwr hpa data mask) pa data mask)

/-- HOST_SNOOP (19 R440): the device caches no host line, and answers as not holding it. -/
def execHostSnoop (pa : Nat) (s : State) : Host.Outcome State Fault Refusal :=
  if isHost (Config.hostBase + pa) then .next { s with priv := { s.priv with answer := [], poison := false } } else .next s

end Sys2Proof.Machine
end

