-- ==== Sys2Proof/Machine/Coherence.lean ====
section
/-! DEFINITION. The arrival of messages at homes and agents (10 R280 to R301): arbitration of requests, retries, non-caching
requests, rebase answers and the flush timer of LEASE lines. -/

namespace Sys2Proof.Machine

open Sys2Proof

/-! ## Requests -/

/-- Has a message arrived at a home? -/
def State.atHome (s : State) (m : Msg) : Bool :=
  decide (m.due ≤ s.now) && (match m.dst with
    | .home _ => true
    | .core _ | .bridge _ | .engine _ | .mgmt => false)

/-- Does a non-caching request have to wait: a rebase, a busy line, a change of its range (10 R285, R298; 17 R430)? -/
def State.ncWaits (s : State) (m : Msg) : Bool :=
  let l := s.hline m.line
  (!m.put && s.lineChanging m.line) || (m.cause.isSome && decide (s.now < l.hold)) || (match s.kind (s.range m.line).slot with
    | .lease => (s.home (lineHome m.line)).inRebase
    | .through => s.updOut m.line
    | .owned => l.rcl != 0 || (decide (12 ≤ l.st) && decide (l.st ≤ 14)))

/-- Does a request have to wait: what stalls it before its lookup, or a STALL entry (10 R279, R281)? -/
def State.mustWait (s : State) (m : Msg) : Bool :=
  let slot := (s.range m.line).slot
  let e := s.entry slot (s.hstate m.line) (s.classify m)
  if m.code = mNC then s.ncWaits m
  else s.homeBusy m || ((s.home (lineHome m.line)).inRebase && s.kind slot == .lease) || entAct e 10

/-- Is a write of the management core behind an earlier one that is not performed (15 R364: its writes are performed in order)? -/
def State.mgmtBehind (s : State) (m : Msg) : Bool :=
  let ofMgmt (q : Msg) : Bool := q.src == .mgmt && q.code == mNC
  let all := (s.homes.flatMap fun h => h.2.stalled.filter ofMgmt) ++ s.net.filter ofMgmt
  ofMgmt m && all.any fun q => decide (q.tag < m.tag)

/-- The requests for a line that are ready in this cycle, with their places in the net. -/
def State.readyFor (s : State) (ln : Nat) : List (Msg × Nat) :=
  s.net.zipIdx.filter fun p => s.atHome p.1 && p.1.competes && p.1.line == ln && !s.mgmtBehind p.1

/-- The request port that the round-robin pointer picks among several (10 R283). -/
def pickPort (rr : Nat) (ports : List Nat) : Nat :=
  match ((List.range 52).map fun k => (rr + k) % 52).find? ports.contains with
  | some p => p
  | none => ports.headD 0

/-- The request that a home takes of those ready for a line, and its pointer afterwards (10 R283). -/
def State.winner (s : State) (ln : Nat) : Option (Nat × Nat) :=
  let h := lineHome ln
  let c := s.readyFor ln
  let ports := (c.map fun p => portOf h p.1.src).dedup
  let rr := (s.home h).rr
  if ports.length ≤ 1 then (c.head?).map fun p => (p.2, rr)
  else
    let port := pickPort rr ports
    (c.find? fun p => portOf h p.1.src == port).map fun p => (p.2, (port + 1) % 52)

/-- The answer to a non-caching request: the host receives its data, or learns that its write is performed (19 R452); a ring of the management
core counts its entry (19 R444, 20 R468). -/
def State.ncAnswer (s : State) (m : Msg) (r : NcRes) : State :=
  match m.src with
  | .bridge _ =>
    let pa := 128 * m.line + 64 * m.tag
    (match r with
     | .data l ts =>
       let s : State := { s with hostK := { s.hostK with pts := max s.hostK.pts ts } }
       if m.write then { s with priv := { s.priv with memwrs := s.priv.memwrs + 1 } }
       else (s.hostAnswer pa ((l.drop (64 * m.tag)).take 64) (s.life.badMem.contains (pa / 64))).hostSees (s.lineRels m.line) m.tag
     | .nak => s.hostGets [] true
     | .wait => s)
  | .mgmt => (s.counted m.done).irqsReady
  | .core _ | .home _ | .engine _ => s

/-- A home takes a request: by its tables, or as a non-caching one, which waits in the line's queue while its range changes, a rebase runs or a
recall that it needs runs (10 R283, R285; 17 R430).  A request of an engine is its turn at the line (log entry 19). -/
def State.takeReq (s : State) (m : Msg) : State :=
  if m.code ≠ mNC then s.homeTake m
  else if s.ncWaits m then s.stall m
  else if m.put then s.ncAnswer m (.data [] 0)
  else match m.cause with
  | some w => s.setHline m.line { (s.hline m.line) with turn := some (w, s.now + 16), hold := s.now + 5 }
  | none =>
    let (r, s) := s.ncLine m.line (if m.write then some (m.mask, m.data, m.rels) else none) m.pts none
    if r = .wait then s.stall m
    -- a write of a write-through line is performed once every sharer has taken its UPDATE (log entry 30)
    else if m.write && s.updOut m.line then s.stall { m with put := true }
    else s.ncAnswer m r

/-- A home takes request `n`; the other requests for its line that are ready wait in the line's queue, and so does one that
finds the queue in use, or the line taken in this cycle (10 R283). -/
def State.arbitrate (s : State) (n : Nat) (m : Msg) : State :=
  match s.winner m.line with
  | none => s
  | some (w, rr) =>
    if w ≠ n then s
    else
      let h := lineHome m.line
      let losers := ((s.readyFor m.line).filter fun p => p.2 != n).map (·.1)
      let rest := (s.net.zipIdx.filter fun p => !(s.readyFor m.line).contains p).map (·.1)
      let queued := ((s.home h).stalled.any fun q => q.line == m.line) || decide (s.now < (s.hline m.line).freeAt)
      let s := { s with net := rest }
      let s := s.modHome h fun x => { x with rr := rr, stalled := x.stalled ++ (if queued then [m] else []) ++ losers }
      let s := if queued || !losers.isEmpty then s.at (s.now + 1) (.requestRetry h m.line) else s
      if queued then s
      else
        let s := (s.setHline m.line { (s.hline m.line) with freeAt := s.now + 1 }).takeReq m
        -- a request that waits for a directory entry is retried until the recall has ended (DESIGN CHOICE, log entry 32)
        if (s.home h).stalled.contains m && !s.mustWait m then s.at (s.now + 16) (.requestRetry h m.line) else s

/-- A message whose class is `code` arrives at its home. -/
def State.homeRow (s : State) (codes : List Nat) (n : Nat) : State :=
  match s.net[n]? with
  | none => s
  | some m =>
    if !s.atHome m || !codes.contains (s.classify m) then s
    else if m.competes then s.arbitrate n m
    else State.homeTake { s with net := s.net.eraseIdx n } m

/-- A read request, GETS or GETX. -/
def execGets (n : Nat) (s : State) : Host.Outcome State Fault Refusal := .next (s.homeRow [mGETS, mGETX] n)
/-- An upgrade from the line's owner. -/
def execUpgo (n : Nat) (s : State) : Host.Outcome State Fault Refusal := .next (s.homeRow [mUPGO] n)
/-- An upgrade from a listed sharer. -/
def execUpgs (n : Nat) (s : State) : Host.Outcome State Fault Refusal := .next (s.homeRow [mUPGS] n)
/-- An upgrade from an agent that is neither. -/
def execUpgn (n : Nat) (s : State) : Host.Outcome State Fault Refusal := .next (s.homeRow [mUPGN] n)
/-- A write-back from the owner. -/
def execWbmo (n : Nat) (s : State) : Host.Outcome State Fault Refusal := .next (s.homeRow [mWBMO] n)
/-- A write-back from an agent that is not the owner. -/
def execWbmx (n : Nat) (s : State) : Host.Outcome State Fault Refusal := .next (s.homeRow [mWBMX] n)
/-- A clean eviction. -/
def execWbc (n : Nat) (s : State) : Host.Outcome State Fault Refusal := .next (s.homeRow [mWBC] n)
/-- Masked bytes, or an atomic (10 R294). -/
def execWrt (n : Nat) (s : State) : Host.Outcome State Fault Refusal := .next (s.homeRow [mWRT] n)
/-- A lease renewal (10 R293). -/
def execRenew (n : Nat) (s : State) : Host.Outcome State Fault Refusal := .next (s.homeRow [mRENEW] n)
/-- An invalidation acknowledgement that leaves the count above 0. -/
def execInvack (n : Nat) (s : State) : Host.Outcome State Fault Refusal := .next (s.homeRow [mINVACK] n)
/-- The last invalidation acknowledgement. -/
def execInvackl (n : Nat) (s : State) : Host.Outcome State Fault Refusal := .next (s.homeRow [mINVACKL] n)
/-- A forward done; the owner keeps a copy. -/
def execFwdack (n : Nat) (s : State) : Host.Outcome State Fault Refusal := .next (s.homeRow [mFWDACK] n)
/-- A forward done; the owner keeps no copy. -/
def execFwdackx (n : Nat) (s : State) : Host.Outcome State Fault Refusal := .next (s.homeRow [mFWDACKX] n)
/-- A recall answer with data (10 R301). -/
def execRcldata (n : Nat) (s : State) : Host.Outcome State Fault Refusal := .next (s.homeRow [mRCLDATA] n)
/-- A recall answer without data. -/
def execRclack (n : Nat) (s : State) : Host.Outcome State Fault Refusal := .next (s.homeRow [mRCLACK] n)

/-- A request of a line's queue is taken, classified again; one that has to wait after all keeps its place (10 R283). -/
def State.retryReq (s : State) (h : Nat) (m : Msg) : State :=
  let q := (s.home h).stalled
  let s := (s.modHome h fun x => { x with stalled := q.erase m }).setHline m.line { (s.hline m.line) with freeAt := s.now + 1 }
  let s := s.takeReq m
  if (s.home h).stalled = q.erase m ++ [m] then s.modHome h fun x => { x with stalled := q } else s

/-- REQUEST_RETRY (10 R283): the first request of a line's queue that need not wait is taken, one in a cycle. -/
def execRequestRetry (h line : Nat) (s : State) : Host.Outcome State Fault Refusal :=
  match (s.home h).stalled.find? fun m => m.line == line && !s.mustWait m && !s.mgmtBehind m with
  | none => .next s
  | some m =>
    if s.now < (s.hline line).freeAt then .next (s.at (s.hline line).freeAt (.requestRetry h line))
    else
      let s := s.retryReq h m
      if (s.home h).stalled.any fun q => q.line == line && !s.mustWait q then .next (s.at (s.now + 16) (.requestRetry h line))
      else .next s

/-- NONCACHING_REQUEST (10 R285): one that needs a recall waits until the recall has ended. -/
def execNoncachingRequest (n : Nat) (s : State) : Host.Outcome State Fault Refusal :=
  match s.net[n]? with
  | none => .next s
  | some m => if !s.atHome m || m.code != mNC then .next s else .next (s.arbitrate n m)

/-- REBASE_ANSWER (10 R298): the home returns to HL when all 96 L1s have answered. -/
def execRebaseAnswer (n : Nat) (s : State) : Host.Outcome State Fault Refusal :=
  match s.net[n]? with
  | none => .next s
  | some m =>
    if !s.atHome m || m.code != mREBANS then .next s
    else
      let h := m.line
      let s := { s with net := s.net.eraseIdx n }
      let left := (s.home h).rebasing.filter fun c => m.src != .core c
      let s := s.modHome h fun x => { x with rebasing := left, inRebase := !left.isEmpty }
      if left.isEmpty then .next ((s.home h).stalled.foldl (fun s q => s.wakeLine q.line) s) else .next s

/-! ## Agents -/

/-- Leaves a message unconsumed (STALL): it and the later ones of its channel are tried again in the next cycle. -/
def State.holdMsg (s : State) (n : Nat) (m : Msg) : State :=
  { s with net := s.net.zipIdx.map fun p =>
      if n ≤ p.2 && p.1.src == m.src && p.1.dst == m.dst && channelOf p.1 == channelOf m then { p.1 with due := max p.1.due (s.now + 1) }
      else p.1 }

/-- A message arrives at an agent. -/
def State.agentRow (s : State) (code n : Nat) : State :=
  match s.net[n]? with
  | none => s
  | some m =>
    if m.code ≠ code ∨ s.now < m.due then s
    else
      let s' := { s with net := s.net.eraseIdx n }
      match m.dst with
      | .core c =>
        let l := s.l1 c m.line
        let slot := if l = {} then (s.range m.line).slot else l.table
        if code = mREBASE then s'.takeRebase c m
        else if !m.acc.isEmpty then s'.homeAnswer c m
        else if channelOf m = 1 ∧ entAct (s.entry slot l.st code) 10 then s.holdMsg n m
        else s'.agentTake c m
      | .bridge _ => if s.bridgeHolds m then s.holdMsg n m else s'.bridgeTake m
      | .home _ | .engine _ | .mgmt => s

/-- Shared data. -/
def execDatas (n : Nat) (s : State) : Host.Outcome State Fault Refusal := .next (s.agentRow mDATAS n)
/-- Exclusive clean data. -/
def execDatae (n : Nat) (s : State) : Host.Outcome State Fault Refusal := .next (s.agentRow mDATAE n)
/-- Exclusive data from a previous owner. -/
def execDatam (n : Nat) (s : State) : Host.Outcome State Fault Refusal := .next (s.agentRow mDATAM n)
/-- An upgrade grant. -/
def execUpgack (n : Nat) (s : State) : Host.Outcome State Fault Refusal := .next (s.agentRow mUPGACK n)
/-- A write-back acknowledgement, with its timestamps (10 R294), or the answer to accesses performed at the home. -/
def execWback (n : Nat) (s : State) : Host.Outcome State Fault Refusal := .next (s.agentRow mWBACK n)
/-- An invalidation. -/
def execInv (n : Nat) (s : State) : Host.Outcome State Fault Refusal := .next (s.agentRow mINV n)
/-- A shared forward. -/
def execFwds (n : Nat) (s : State) : Host.Outcome State Fault Refusal := .next (s.agentRow mFWDS n)
/-- An exclusive forward. -/
def execFwdx (n : Nat) (s : State) : Host.Outcome State Fault Refusal := .next (s.agentRow mFWDX n)
/-- A directory recall. -/
def execRecall (n : Nat) (s : State) : Host.Outcome State Fault Refusal := .next (s.agentRow mRECALL n)
/-- Masked bytes from the home (10 R300). -/
def execUpdate (n : Nat) (s : State) : Host.Outcome State Fault Refusal := .next (s.agentRow mUPDATE n)
/-- A lease renewed without data (10 R293). -/
def execRenack (n : Nat) (s : State) : Host.Outcome State Fault Refusal := .next (s.agentRow mRENACK n)
/-- A home's rebase (10 R298). -/
def execRebase (n : Nat) (s : State) : Host.Outcome State Fault Refusal := .next (s.agentRow mREBASE n)
/-- A refusal (10 R282). -/
def execNak (n : Nat) (s : State) : Host.Outcome State Fault Refusal := .next (s.agentRow mNAK n)

/-- LEASE_FLUSH_TIMER (10 R294): 512 cycles after the first dirty byte. -/
def execLeaseFlushTimer (c line : Nat) (s : State) : Host.Outcome State Fault Refusal :=
  let l := s.l1 c line
  if l.dirty ≠ 0#128 ∧ l.since + 512 ≤ s.now then .next (s.flushLine c line) else .next s

/-! ## The next message -/

/-- The row of a message that has arrived. -/
def State.msgRow (s : State) (n : Nat) (m : Msg) : Option Instr :=
  match m.dst with
  | .home _ =>
    let n := if m.competes then ((s.winner m.line).map (·.1)).getD n else n
    let m := (s.net[n]?).getD m
    (match s.classify m with
     | 16 => some (.gets n)
     | 17 => some (.gets n)
     | 18 => some (.upgo n)
     | 19 => some (.upgs n)
     | 20 => some (.upgn n)
     | 21 => some (.wbmo n)
     | 22 => some (.wbmx n)
     | 23 => some (.wbc n)
     | 24 => some (.wrt n)
     | 25 => some (.renew n)
     | 26 => some (.invack n)
     | 27 => some (.invackl n)
     | 28 => some (.fwdack n)
     | 29 => some (.fwdackx n)
     | 30 => some (.rcldata n)
     | 31 => some (.rclack n)
     | 32 => some (.noncachingRequest n)
     | 33 => some (.rebaseAnswer n)
     | _ => none)
  | .core _ | .bridge _ =>
    (match m.code with
     | 3 => some (.datas n)
     | 4 => some (.datae n)
     | 5 => some (.datam n)
     | 6 => some (.upgack n)
     | 7 => some (.wback n)
     | 8 => some (.inv n)
     | 9 => some (.fwds n)
     | 10 => some (.fwdx n)
     | 11 => some (.recall n)
     | 12 => some (.update n)
     | 13 => some (.renack n)
     | 14 => some (.rebase n)
     | 15 => some (.nak n)
     | 34 => some (.towpathRequestArrival n)
     | _ => none)
  | .engine _ | .mgmt => none

/-- The row of the first message that has arrived: of the towpath, or of the other messages. -/
def State.netAct (s : State) (tow : Bool) : Option Instr :=
  s.net.zipIdx.findSome? fun p => if p.1.due ≤ s.now ∧ (p.1.code == mTOW) = tow ∧ !s.mgmtBehind p.1 then s.msgRow p.2 p.1 else none

end Sys2Proof.Machine
end

