-- ==== Sys2Proof/Machine/Lsu.lean ====
section
/-! DEFINITION. Memory words, towpath accesses and fences as operations of a gang (06 R160 to R178; 01 R45 to R47; 09 R256): recorded
operands, translation, order, performance. -/

namespace Sys2Proof.Machine

open Sys2Proof

/-! ## Kinds of operations -/

/-- A memory word. -/
def isMemWord (i : Instr) : Bool := (memAddr i).isSome
/-- A vault word. -/
def isVaultWord (i : Instr) : Bool := (vaultAddr i).isSome
/-- A fence. -/
def isFence : Instr → Bool
  | .fence _ | .fenceX .. | .afence .. => true
  | _ => false

/-- The engine paths that a FENCE.X with P1 = LSU serves with the gang's dirty bytes at home (06 R177, 10 R294). -/
def Path.engine : Path → Bool
  | .cpy | .mtx | .adp | .isl => true
  | .lsu | .vlt | .ing => false

/-- Does a release, fence or acquire need the gang's dirty LEASE bytes at their homes (06 R177, 10 R294)? -/
def flushes : Instr → Bool
  | .stRel _ sc _ _ _ => Scope.wide sc
  | .atom _ sc _ _ _ => Scope.wide sc
  | .fence sc => Scope.wide sc
  | .afence sc _ _ => Scope.wide sc
  | .fenceX sc p1 p2 => p1 == .lsu && (Scope.wide sc || Path.engine p2)
  | .tgarr .. | .evsig _ | .dbgmark _ => true
  | _ => false

/-- A wait word that is an acquire when it completes (06 R179). -/
def isAcqWait : Instr → Bool
  | .nbwait .. | .tgwait .. | .evwait .. => true
  | _ => false

/-- Does a word, until it is done, hold later LSU accesses (06 R169, R171, R176, R177; 09 R259)? -/
def holdsLsu : Instr → Bool
  | .ldAcq .. | .atom .. | .fence _ | .afence .. => true
  | .fenceX _ _ p2 => p2 == .lsu
  | i => isAcqWait i

/-- Does a release store that is not performed hold a later acquire load of its gang, which then also waits for the acknowledgement of its
bytes?  DEDUCED (log entry 9): without it the sequential consistency of 09 R264 fails for race-free programs. -/
def holdsAcquire (earlier later : Instr) : Bool := (earlier matches .stRel ..) && (later matches .ldAcq ..)

/-! ## Operands -/

/-- Store data of `n` words of a lane (06 R160, R165). -/
def State.storeData (s : State) (c : Cursor) (n : Nat) (d : Src) (l : Nat) : Nat :=
  match n with
  | 1 => (s.readI c d l).toNat
  | 2 => (s.readD c false d l).toNat
  | _ =>
    match d with
    | .v r => ((List.range 4).map fun k => ((s.gang c.gang).vreg (r.val + k) l).toNat * 2 ^ (32 * k)).sum
    | _ => 0

/-- Two V registers of a lane. -/
def State.vPair (s : State) (c : Cursor) (r l : Nat) : Nat :=
  ((s.gang c.gang).vreg r l).toNat + 2 ^ 32 * ((s.gang c.gang).vreg (r + 1) l).toNat

/-- The data, and the new value of a CAS, that a word supplies in a lane. -/
def State.laneData (s : State) (c : Cursor) (i : Instr) (l : Nat) : Nat × Nat :=
  let one (r : VReg) (k : Nat) : Nat := ((s.gang c.gang).vreg (r.val + k) l).toNat
  match i with
  | .st sz _ d _ _ => (s.storeData c sz.regs d l, 0)
  | .stg sz _ d _ _ => (s.storeData c sz.regs d l, 0)
  | .stRel w _ d _ _ => (s.storeData c (wide w) d l, 0)
  | .stv sz d _ _ => (s.storeData c sz.regs d l, 0)
  | .atom .cas64 _ d _ _ => (s.vPair c d.val l, s.vPair c (d.val + 2) l)
  | .atom .cas32 _ d _ _ => (one d 0, one d 1)
  | .atom _ _ d _ _ => (one d 0, 0)
  | .atomv .cas d _ _ => (one d 0, one d 1)
  | .atomv _ d _ _ => (one d 0, 0)
  | _ => (0, 0)

/-- The recorded accesses of a memory word (01 R45, 06 R161). -/
def State.memAcc (s : State) (c : Cursor) (i : Instr) : List LaneAcc :=
  match memAddr i with
  | none => []
  | some (ba, o, w) => (s.lanes c).map fun l =>
      { lane := l, addr := s.lanePa c ba o w l, data := (s.laneData c i l).1, data2 := (s.laneData c i l).2 }

/-- Registers that a word's results owe. -/
def owedRegs (i : Instr) : List PReg :=
  match memDest i with
  | none => []
  | some (d, n) => vGroup n d.val

/-- A MEMORY WORD ISSUES (06 R161 to R164): its operands are recorded, its destination lanes are pending, and its accesses are made
from 20 cycles on.  A wide release sends the gang's dirty LEASE bytes home (10 R294). -/
def State.issueMem (s : State) (c : Cursor) (i : Instr) : State :=
  let ls := s.lanes c
  if ls.isEmpty then s
  else
    let acc := s.memAcc c i
    let seq := (s.gang c.gang).nextSeq
    let (d, s) := s.popLag
    let s := if flushes i then s.flushCore (s.gang c.gang).core else s
    s.addOp c.gang (fun t => { tag := t, pc := c.pc, slot := c.slot, i := i, lanes := laneBits ls, acc := acc
                               logged := memKind i != .pref, due := s.now + 20 + d, y := BitVec.ofNat 64 seq })
      (owedRegs i) (laneBits ls)

/-! ## Translation (16 R391, R392) -/

/-- Permissions that a word needs. -/
def needOf (i : Instr) : Nat :=
  match memKind i with
  | .load | .pref => needR
  | .store => needW
  | .atomic => needR + needW

/-- Translates the lanes of an operation that want it; the lanes of one page take one translation. -/
def State.xlateOp (s : State) (g tag : Nat) : State :=
  match s.op? g tag with
  | none => s
  | some o =>
    let x := s.gang g
    let pages := ((o.acc.filter fun a => a.st == .xlat).map fun a => a.addr / 8192).dedup
    pages.foldl (fun s p =>
      let here (a : LaneAcc) : Bool := a.st == .xlat && a.addr / 8192 == p
      match s.xlate x.core x.tenant (p * 8192) (needOf o.i) with
      | (some pa, s) => s.modOp g tag fun o =>
          { o with acc := o.acc.map fun a => if here a then { a with pa := pa + a.addr % 8192, st := .ready } else a }
      | (none, s) =>
        (s.modOp g tag fun o => { o with acc := o.acc.map fun a => if here a then { a with st := .walking } else a }).miss
          (x.core / 48) x.tenant (p * 8192) (needOf o.i) (.gang g tag)) s

/-! ## Order (06 R166, R169, R171, R176; 01 R46) -/

/-- Is a lane of an operation translated? -/
def LaneAcc.translated (a : LaneAcc) : Bool := a.st == .ready || a.st == .sent || a.st == .done

/-- Do two lanes of memory words touch one byte: by virtual address, or by physical address once both are translated? -/
def sameByte (n m : Nat) (a b : LaneAcc) : Bool :=
  (decide (a.addr < b.addr + m) && decide (b.addr < a.addr + n)) ||
    (a.translated && b.translated && decide (a.pa < b.pa + m) && decide (b.pa < a.pa + n))

/-- Has an operation of memory, vault or fence kind lanes that are not performed? -/
def Op.unfinished (o : Op) : Bool :=
  isFence o.i || ((isMemWord o.i || isVaultWord o.i) && memKind o.i != .pref && o.acc.any fun a => a.st != .done)

/-- Is an acquire or fence not yet done? -/
def Op.holding (o : Op) : Bool := o.unfinished || isAcqWait o.i

/-- Does an earlier operation hold a lane: an acquire or fence, or an access to one of its bytes? -/
def heldBy (o p : Op) (a : LaneAcc) : Bool :=
  (holdsLsu p.i && p.holding) || (holdsAcquire p.i o.i && p.unfinished) ||
    (isMemWord p.i && memKind p.i != .pref && memKind o.i != .pref &&
      p.acc.any fun b => b.st != .done && sameByte (accessSize o.i) (accessSize p.i) a b)

/-- The operations of a gang before one. -/
def Gang.before (x : Gang) (tag : Nat) : List Op := x.ops.takeWhile fun o => o.tag != tag

/-- Own-vault writes of a gang that are in flight since before sequence number `seq` (08 R240). -/
def Gang.vaultOut (x : Gang) (seq : Nat) : Bool :=
  x.wb.any fun e => decide (e.seq < seq) && e.writes.any fun w => match w with
    | .vault _ _ _ => true
    | .v _ _ | .s _ _ | .a _ _ | .k _ _ | .exec _ | .mode _ | .flags _ | .k7 _ | .h _ _ _ => false

/-- Is every LSU and VLT access of a gang before an operation performed, and every trace entry before it (06 R169, R179; 19 R444)? -/
def Gang.priorDone (x : Gang) (o : Op) : Bool :=
  !((x.before o.tag).any fun p => p.unfinished || (p.i matches .dbgmark _)) && !x.vaultOut o.y.toNat

/-- A gang takes the timestamps of the gangs of its core of which it knows releases.  DEDUCED (log entry 46): the bytes of such a gang that a release
of this one finds in the L1 or on their way home get their write timestamps after that gang's own release, and the release here, which 09 R265
orders after them, carries its own gang's (10 R295). -/
def State.matesTime (s : State) (g : Nat) (vc : Sparse Nat) : State :=
  let c := (s.gang g).core
  let t := ((s.gangs.filter fun q => q.2.core == c && Sparse.get 0 vc q.2.iss != 0).map fun q => q.2.pts).max?.getD 0
  s.modGang g fun x => { x with pts := max x.pts t }

/-- What a release waits for: its gang's earlier accesses; then the dirty LEASE bytes of its core's L1, which it sends home at once, and the
acknowledgements of all that are on their way by then (06 R169, R179; 10 R294).  Other gangs' bytes are among them: those of gangs whose releases
this one has acquired must be home too (09 R264, R265), and 10 R294 lets the L1 send bytes at any time before the cases that it lists. -/
def State.release (s : State) (g : Nat) (o : Op) : Bool × State :=
  if (s.gang g).priorDone o then
    if flushes o.i then
      let c := (s.gang g).core
      match o.fence with
      | some n => if s.coreOut c n then (false, s) else (true, s.matesTime g ((s.gang g).vcOf o))
      | none =>
        let s := s.flushCore c
        let n := (s.core c).wseq
        if s.coreOut c n then (false, s.modOp g o.tag fun o => { o with fence := some n }) else (true, s.matesTime g ((s.gang g).vcOf o))
    else (true, s)
  else (false, s)

/-- Is a word one that a data fault before it holds: a memory or vault word, or another logged word that was issued before the fault arrived
(01 R46)?  The link of a CALL is never held (04 R125), nor an arrival, which is performed at issue (06 R164). -/
def Op.holdable (o : Op) : Bool :=
  o.logged && (isMemWord o.i || isVaultWord o.i || !o.late) && !(o.i matches .call _) && !(o.i matches .callIndirect ..) &&
    !(o.i matches .nbarr ..) && !(o.i matches .tgarr ..)

/-- Is a younger logged operation held whole behind a data fault (01 R46)? -/
def Gang.behindFault (x : Gang) (o : Op) : Bool := o.holdable && (x.before o.tag).any fun p => p.fault.isSome

/-! ## Accesses of lanes -/

/-- Lanes of an operation that ready and unheld lanes select. -/
def Op.mapAcc (o : Op) (ls : List LaneAcc) (f : LaneAcc → LaneAcc) : Op :=
  { o with acc := o.acc.map fun a => if ls.any fun b => b.lane == a.lane then f a else a }

/-- The bytes of a line that some lanes touch. -/
def lanesMask (i : Instr) (ls : List LaneAcc) : BitVec 128 := ls.foldl (fun m a => m ||| rangeMask (a.pa % 128) (accessSize i)) 0

/-- A gang's masks of a checked line, with the bytes of one more access (10 R299). -/
def State.touchMasks (s : State) (g ln : Nat) (i : Instr) (ls : List LaneAcc) : State × BitVec 128 × BitVec 128 :=
  let c := (s.gang g).core
  let l := Sparse.get [] (s.core c).masks ln
  let old := (l.lookup g).getD (0, 0)
  let m := lanesMask i ls
  let rd := if memKind i = .store then old.1 else old.1 ||| m
  let wr := if memKind i = .load then old.2 else old.2 ||| m
  (s.modCore c fun k => { k with masks := Sparse.set [] k.masks ln ((l.filter fun p => p.1 != g) ++ [(g, rd, wr)]) }, rd, wr)

/-- An access performed at the home: a checked access, with the gang's masks of the line, or an atomic of a LEASE or UPD line (10 R294, R299,
R300). -/
def State.sendHome (s : State) (g : Nat) (o : Op) (ln code : Nat) (chk : Bool) (ls : List LaneAcc) : State :=
  let x := s.gang g
  let s := s.modOp g o.tag fun o => o.mapAcc ls fun a => { a with st := .sent }
  let (s, rd, wr) := if chk then s.touchMasks g ln o.i ls else (s, 0, 0)
  s.send { code := code, src := .core x.core, dst := .home (lineHome ln), line := ln, due := 0, gangs := [g], pts := x.pts, tag := o.tag
           acc := ls, op := some o.i, chk := chk, rdMask := rd, wrMask := wr } latWay

/-- One lane in host memory, with its synchronising role (09 R258, R260). -/
def State.hostLane (s : State) (g : Nat) (o : Op) (a : LaneAcc) : State × LaneAcc :=
  let n := accessSize o.i
  let pas := (List.range n).map (a.pa + ·)
  let (res, new) := laneAct o.i (leNat (s.bytes a.pa n)) a
  let obs := if memKind o.i = .store then [] else (pas.flatMap fun b => Sparse.get [] s.rels b).foldl addRel []
  let s := (s.observe g o [a] obs).exchange g (slicesOf [a]) (syncScope o.i) (a.pa / 128)
  let a := { a with res := res, st := .done }
  match new with
  | none => (s, a)
  | some v =>
    let rs := s.writeRels g o [a] obs
    let s := s.setBytes a.pa (leBytes n v)
    ({ s with rels := pas.foldl (fun m b => Sparse.set [] m b rs) s.rels }, a)

/-- Host memory (19 R441): an ATOM takes PAGE at once as a refused fault; other accesses are made directly. -/
def State.hostLanes (s : State) (g : Nat) (o : Op) (ls : List LaneAcc) : State :=
  if memKind o.i = .atomic then
    let s := (s.modOp g o.tag fun o => { o with logged := true }).dataFault g o.tag .page (laneBits (ls.map (·.lane)))
    s.pageRefused g o.tag
  else
    let q := ls.foldl (fun (q : State × List LaneAcc) a =>
      let r := q.1.hostLane g o a
      (r.1, q.2 ++ [r.2])) (s, [])
    let s := q.1.modOp g o.tag fun p => { p with acc := p.acc.map fun a => (q.2.find? fun b => b.lane == a.lane).getD a }
    match memWrites o.i q.2 with
    | [] => s
    | ws => s.modGang g fun x => { x with arr := x.arr ++ [(s.now + Config.latHost, o.tag, ws)] }

/-- The hint of a word. -/
def hintOf : Instr → Hint
  | .ld _ h _ _ _ | .st _ h _ _ _ | .ldg _ h _ _ _ | .stg _ h _ _ _ | .pref h _ _ => h
  | _ => .none

/-- With `.last`, the L1 copy of a line is the first choice for eviction after the access (06 R167). -/
def State.hintLine (s : State) (c ln : Nat) (h : Hint) : State :=
  let l := s.l1 c ln
  if l = {} ∨ h ≠ .last then s else s.setL1 c ln { l with last := true }

/-- Is a word an acquire load of a scope wider than the crew? -/
def wideAcq (i : Instr) : Bool := (i matches .ldAcq ..) && ((acqScope i).map Scope.wide).getD false

/-- The lanes of an operation that are ready in a line are performed, sent, or left for the line to become free. -/
def State.accessLine (s : State) (g : Nat) (o : Op) (ln : Nat) (ls : List LaneAcc) : State :=
  let c := (s.gang g).core
  let r := s.range ln
  let past := hintOf o.i = .strm
  let sel (l : List LaneAcc) (a : LaneAcc) : Bool := l.any fun b => b.lane == a.lane
  match memKind o.i with
  | .pref =>
    let s := if r.chk then s
      else if hintOf o.i = .strm then (s.stackedTouch ln (some (s.gang g).tenant)).2
      else if (s.l1 c ln).st = 0 then s.agentAccess c g o.tag ln mLD (sel ls) else s
    s.modOp g o.tag fun o => o.mapAcc ls fun a => { a with st := .done }
  | .load =>
    if r.chk then s.sendHome g o ln mGETS true ls
    -- a wide acquire reads no byte of its own L1 that is not performed beyond it: else two such readers could see two writes in two orders
    -- (09 R260, R264; DEDUCED, log entry 9)
    else if wideAcq o.i && s.kind r.slot != .owned && s.lineOut c ln then s.flushLine c ln
    else if s.kind r.slot = .lease then
      let hit := s.leaseHit c g ln
      let own := ls.filter fun a => hit || s.ownDirty c g ln (accessSize o.i) a
      let rest := ls.filter fun a => !own.contains a
      let s := if own.isEmpty then s else
        let w := s.baseAt c (lineHome ln) + (s.l1 c ln).wts
        (s.modGang g fun x => if hit then { x with pts := max x.pts w } else x).performL1 c g o.tag ln (sel own)
      let s := if rest.isEmpty then s else s.agentAccess c g o.tag ln mLD (sel rest) past
      s.hintLine c ln (hintOf o.i)
    else (s.agentAccess c g o.tag ln mLD (sel ls) past).hintLine c ln (hintOf o.i)
  | .store =>
    if r.chk then s.sendHome g o ln mWRT true ls
    else
      let s := (s.agentAccess c g o.tag ln mST (sel ls) past).hintLine c ln (hintOf o.i)
      -- a wide release store goes home at once (10 R294; DEDUCED, log entry 9)
      if flushes o.i then s.flushLine c ln else s
  | .atomic =>
    match s.kind r.slot with
    | .lease => (s.flushLine c ln).sendHome g o ln mWRT r.chk ls
    | .through => s.sendHome g o ln mWRT false ls
    | .owned => s.agentAccess c g o.tag ln mST (sel ls)

/-- Performs what an operation's ready lanes allow now. -/
def State.accessOp (s : State) (g tag : Nat) : State :=
  match s.op? g tag with
  | none => s
  | some o =>
    let x := s.gang g
    let before := x.before tag
    let (may, s) := if isRelease o.i then s.release g o else (true, s)
    if x.behindFault o || !may then s
    else
      let acqWait := (o.i matches .ldAcq ..) && s.wrtOut g
      let go := o.acc.filter fun a => a.st == .ready && !acqWait && !(before.any fun p => heldBy o p a)
      let host := go.filter fun a => isHost a.pa
      let s := if host.isEmpty then s else s.hostLanes g o host
      let dev := go.filter fun a => !isHost a.pa
      let lines := (dev.map fun a => a.pa / 128).dedup
      lines.foldl (fun s ln => s.accessLine g o ln (dev.filter fun a => a.pa / 128 == ln)) s

/-- The operation takes a log entry no longer once all its lanes are translated and no fault holds it; it is gone once they are
performed. -/
def State.settleOp (s : State) (g tag : Nat) : State :=
  match s.op? g tag with
  | none => s
  | some o =>
    if o.acc.all fun a => a.st == .done then (s.tellCopies g tag).dropOp g tag
    else if o.acc.all (fun a => a.translated && !(a.st == .sent && (s.range (a.pa / 128)).chk)) && !(s.gang g).behindFault o then
      s.modOp g tag fun o => { o with logged := false, due := s.now + 1 }
    else s.modOp g tag fun o => { o with due := s.now + 1 }

/-- A memory word acts: translation, then what its order allows. -/
def State.pumpMem (s : State) (g tag : Nat) : State := ((s.xlateOp g tag).accessOp g tag).settleOp g tag

/-! ## Towpath (08 R242, R243) -/

/-- Hops between two cores of a tower. -/
def hops (a b : Nat) : Nat :=
  let d (x y : Nat) : Nat := if x < y then y - x else x - y
  d (a % 48 / Config.gridCols) (b % 48 / Config.gridCols) + d (a % 48 % Config.gridCols) (b % 48 % Config.gridCols)

/-- Is a lane of a towpath word behind a lane of an earlier one of its gang, to one of its bytes, that has not left or is held (09 R256)? -/
def Gang.towHeld (x : Gang) (o : Op) (a : LaneAcc) : Bool :=
  (x.before o.tag).any fun p => isVaultWord p.i && bits p.x 32 8 == bits o.x 32 8 && p.acc.any fun b =>
    (b.st == .xlat || b.st == .held) && decide (a.addr < b.addr + accessSize p.i) && decide (b.addr < a.addr + accessSize o.i)

/-- Has a gang of the core issued an earlier towpath word for the window of crew `u` that has not left?  Accesses from one core to one target vault
arrive in their order of issue (08 R243); one that a data fault holds is issued again later (01 R47), and holds none. -/
def State.towBehind (s : State) (g : Nat) (o : Op) (u : Nat) : Bool :=
  let c := (s.gang g).core
  s.gangs.any fun q => q.2.here && q.2.core == c && q.2.ops.any fun p =>
    decide (p.born < o.born) && isVaultWord p.i && s.window q.2.crew (bits p.x 32 8) == some u && (p.acc.any fun a => a.st == .xlat) &&
      p.fault.isNone && !q.2.behindFault p

/-- A towpath request leaves for its target, unless the target is out of residence: then it waits for the restore (08 R239). -/
def State.pumpTow (s : State) (g : Nat) (o : Op) : State :=
  let x := s.gang g
  match s.window x.crew (bits o.x 32 8) with
  | none => s
  | some u =>
    let ls := o.acc.filter fun a => a.st == .xlat && !x.towHeld o a
    if ls.isEmpty ∨ (s.crew u).saved ∨ x.behindFault o ∨ (x.before o.tag).any (fun p => p.holding && holdsVault p.i) ∨ s.towBehind g o u then
      s.modOp g o.tag fun o => { o with due := s.now + 1 }
    else
      let s := s.modOp g o.tag fun o => o.mapAcc ls fun a => { a with st := .sent }
      s.send { code := mTOW, src := .core x.core, dst := .core (s.crew u).core, line := u, due := 0, gangs := [g], tag := o.tag, acc := ls
               op := some o.i } (12 + Config.latHop * hops x.core (s.crew u).core)

/-! ## Fences (06 R176 to R178) -/

/-- The pages of an AFENCE: both physical pages, when the two addresses fall in one (06 R178). -/
def State.aliasPair (s : State) (g : Nat) (o : Op) : Option (Nat × Nat) :=
  let t := (s.gang g).tenant
  let tw := (s.gang g).core / 48
  match o.acc with
  | [a, b] =>
    (match s.walk tw t a.addr 0, s.walk tw t b.addr 0 with
     | .ok p, .ok q =>
       if p.pa a.addr / 8192 = q.pa b.addr / 8192 then some (t * 2 ^ 67 + a.addr / 8192, t * 2 ^ 67 + b.addr / 8192) else none
     | _, _ => none)
  | _ => none

/-- The slices of some lanes. -/
def laneSlices (m : DWord) : List Nat := ((bitLanes m).map (· / 4)).dedup

/-- A FENCE, or a FENCE.X between LSU or VLT and itself, is performed: an acquire of what its gang has read, a place in the order of the FENCEs
(09 R260), and a release that its gang's later writes carry (09 R258). -/
def State.fenceAct (s : State) (g : Nat) (o : Op) (sc : Scope) : State :=
  let sl := laneSlices o.lanes
  let s := ((s.acquire g o.tag sl sc (s.gang g).seenRel).matesTime g ((s.gang g).vcOf o)).fenceExchange g sl sc
  let r := s.relOf g o sl sc
  -- what accesses before it have known, the accesses after it know too
  s.modGang g fun x => (x.learn o.tag { pts := 0, vc := x.vcRel } : Gang) |> fun x => { x with fenceRel := addRel x.fenceRel r }

/-- The clocks that a gang knows of the gangs, or of the copies (their numbers are even and odd), that lie with it in the instance of a scope around
the other (06 R177, third case). -/
def State.clocksIn (s : State) (g : Nat) (sc : Scope) (copies : Bool) (vc : Sparse Nat) : Sparse Nat :=
  let me := s.issuer g
  vc.filter fun p => (p.1 % 2 == 1) == copies && ((s.places.lookup p.1).any fun q => covers sc me q && covers sc q me)

/-- What the accesses through a path before a FENCE.X bring (06 R177): those of copies whose completion the gang has observed, and what the
gang knows of others' accesses through it within the fence's scope; for islands and peers their timestamps. -/
def State.pathKnow (s : State) (g : Nat) (o : Op) (sc : Scope) (p : Path) : Know :=
  let x := s.gang g
  let k := s.core x.core
  match p with
  | .cpy => x.seenCp.join { pts := 0, vc := s.clocksIn g sc true (joinVc (x.vcOf o) x.vcRel) }
  | .lsu => { pts := 0, vc := s.clocksIn g sc false (joinVc (x.vcOf o) x.vcRel) }
  | .isl => { pts := (s.tower (x.core / Config.coresPerTower)).wide.foldl (fun m i => max m i.2.pts) (max k.i0.pts k.i1.pts), vc := [] }
  | .ing => { pts := s.peerTs.foldl (fun m q => max m q.2) 0, vc := [] }
  | .vlt | .mtx | .adp => {}

/-- A FENCE.X between two paths is performed (06 R177): the gang's later accesses through the second, or its later copies, come after what is
before it. -/
def State.crossAct (s : State) (g : Nat) (o : Op) (sc : Scope) (p1 p2 : Path) : State :=
  let k := s.pathKnow g o sc p1
  match p2 with
  | .lsu => s.modGang g fun x => { x with pts := max x.pts k.pts, vcLsu := joinVc x.vcLsu k.vc }
  | .vlt => s.modGang g fun x => { x with pts := max x.pts k.pts, vcVlt := joinVc x.vcVlt k.vc }
  | .cpy => s.modGang g fun x => { x with vcCpy := joinVc x.vcCpy k.vc }
  | .mtx | .adp | .isl | .ing => s

/-- A fence completes once every earlier access is performed and acknowledged: FENCE and AFENCE release and acquire; an AFENCE
joins its two pages. -/
def State.pumpFence (s : State) (g : Nat) (o : Op) : State :=
  let (may, s) := s.release g o
  if !may then s.modOp g o.tag fun o => { o with due := s.now + 1 }
  else
    let s := s.dropOp g o.tag
    let s := match s.aliasPair g o with
      | some p => s.modGang g fun x => { x with aliases := x.aliases ++ [(p.1, p.2, o.clk)] }
      | none => s
    match o.i with
    | .fenceX sc p1 p2 => if p1 == p2 && (p1 == .lsu || p1 == .vlt) then s.fenceAct g o sc else s.crossAct g o sc p1 p2
    | .fence sc | .afence sc _ _ => s.fenceAct g o sc
    | _ => s

/-- A fence issues: it records what it needs and holds its gang's later accesses. -/
def State.issueFence (s : State) (c : Cursor) (i : Instr) (acc : List LaneAcc) : State :=
  let seq := (s.gang c.gang).nextSeq
  let s := if flushes i then s.flushCore (s.gang c.gang).core else s
  s.addOp c.gang (fun t => { tag := t, pc := c.pc, slot := c.slot, i := i, lanes := laneBits (s.lanes c), acc := acc, due := s.now
                             y := BitVec.ofNat 64 seq }) [] 0

/-! ## The words -/

/-- LD (06 R165). -/
def execLd (sz : LdSize) (hint : Hint) (d : VReg) (o : Src) (ba : AReg) (s : State) : Host.Outcome State Fault Refusal :=
  s.runWord (.ld sz hint d o ba) fun c => s.issueMem c (.ld sz hint d o ba)

/-- ST (06 R165). -/
def execSt (sz : StSize) (hint : Hint) (d o : Src) (ba : AReg) (s : State) : Host.Outcome State Fault Refusal :=
  s.runWord (.st sz hint d o ba) fun c => s.issueMem c (.st sz hint d o ba)

/-- LDG (06 R165): a 64-bit offset. -/
def execLdg (sz : WSize) (hint : Hint) (d : VReg) (o : Src) (ba : AReg) (s : State) : Host.Outcome State Fault Refusal :=
  s.runWord (.ldg sz hint d o ba) fun c => s.issueMem c (.ldg sz hint d o ba)

/-- STG (06 R165): a 64-bit offset. -/
def execStg (sz : WSize) (hint : Hint) (d o : Src) (ba : AReg) (s : State) : Host.Outcome State Fault Refusal :=
  s.runWord (.stg sz hint d o ba) fun c => s.issueMem c (.stg sz hint d o ba)

/-- LD.ACQ (06 R169). -/
def execLdAcq (w : Bool) (sc : Scope) (d : VReg) (o : Src) (ba : AReg) (s : State) : Host.Outcome State Fault Refusal :=
  s.runWord (.ldAcq w sc d o ba) fun c => s.issueMem c (.ldAcq w sc d o ba)

/-- ST.REL (06 R169). -/
def execStRel (w : Bool) (sc : Scope) (d o : Src) (ba : AReg) (s : State) : Host.Outcome State Fault Refusal :=
  s.runWord (.stRel w sc d o ba) fun c => s.issueMem c (.stRel w sc d o ba)

/-- ATOM (06 R170, R171). -/
def execAtom (op : AtomOp) (sc : Scope) (d : VReg) (o : Src) (ba : AReg) (s : State) : Host.Outcome State Fault Refusal :=
  s.runWord (.atom op sc d o ba) fun c => s.issueMem c (.atom op sc d o ba)

/-- PREF (06 R168). -/
def execPref (hint : Hint) (o : Src) (ba : AReg) (s : State) : Host.Outcome State Fault Refusal :=
  s.runWord (.pref hint o ba) fun c => s.issueMem c (.pref hint o ba)

/-- FENCE (06 R176). -/
def execFence (sc : Scope) (s : State) : Host.Outcome State Fault Refusal :=
  s.runWord (.fence sc) fun c => s.issueFence c (.fence sc) []

/-- FENCE.X (06 R177). -/
def execFenceX (sc : Scope) (p1 p2 : Path) (s : State) : Host.Outcome State Fault Refusal :=
  s.runWord (.fenceX sc p1 p2) fun c => s.issueFence c (.fenceX sc p1 p2) []

/-- AFENCE (06 R178). -/
def execAfence (sc : Scope) (ax ay : AReg) (s : State) : Host.Outcome State Fault Refusal :=
  s.runWord (.afence sc ax ay) fun c =>
    let x := s.gang c.gang
    s.issueFence c (.afence sc ax ay)
      [{ lane := 0, addr := (x.areg ax.val).toNat }, { lane := 1, addr := (x.areg ay.val).toNat }]

end Sys2Proof.Machine
end

