-- ==== Sys2Proof/Machine/Vault.lean ====
section
/-! DEFINITION. Vault words (06 R172 to R175; 08 R238 to R244, R474; 11 R478): own-vault accesses with their fixed latency and towpath
requests. -/

namespace Sys2Proof.Machine

open Sys2Proof

/-- The base S register of a vault word, and its VSEL. -/
def State.vbaseReg (s : State) (c : Cursor) (ba : SReg) : DWord := (s.gang c.gang).sreg ba.val

/-- The accesses of a vault word (06 R172). -/
def State.vaultAcc (s : State) (c : Cursor) (i : Instr) : List LaneAcc :=
  match vaultAddr i with
  | none => []
  | some (ba, o) => (s.lanes c).map fun l =>
      { lane := l, addr := s.laneOff c ba o l, data := (s.laneData c i l).1, data2 := (s.laneData c i l).2 }

/-- Is the own vault selected? -/
def State.isOwn (s : State) (c : Cursor) (ba : SReg) : Bool :=
  let u := (s.gang c.gang).crew
  s.window u (bits (s.vbaseReg c ba) 32 8) == some u

/-- The lanes whose bytes lie in an SRAM word with an uncorrectable error (08 R474). -/
def State.badVaultLanes (s : State) (u size : Nat) (ls : List LaneAcc) : List LaneAcc :=
  let cr := s.crew u
  let bad := (s.core cr.core).badVault
  if bad.isEmpty then []
  else ls.filter fun a => (List.range size).any fun k => bad.contains ((16384 * cr.vbase + a.addr + k) / 8)

/-- An own-vault read that failed: an error record, and the gang stops at its next packet boundary (08 R474). -/
def State.vaultError (s : State) (c : Cursor) (ls : List LaneAcc) : State :=
  match ls with
  | [] => s
  | a :: _ =>
    let x := s.gang c.gang
    let s := s.errorRecord 1 (128 * (x.core / 48) + x.core % 48) (some x.tenant) a.addr 0
    s.modGang c.gang fun x =>
      { x with trapNext := some (({ cause := 15, slot := c.slot } : Trap).tstat, laneBits (ls.map (·.lane))) }

/-- Results of an own-vault word: 24 cycles after issue; at width 64 lanes 32 to 63 one cycle later (08 R240). -/
def State.emitVault (s : State) (g : Nat) (i : Instr) (ls : List LaneAcc) : State :=
  let lo := ls.filter fun a => a.lane < 32
  let hi := ls.filter fun a => !decide (a.lane < 32)
  let s := if lo.isEmpty then s else s.emit g Config.latVault (memWrites i lo)
  if hi.isEmpty then s else s.emit g (Config.latVault + 1) (memWrites i hi)

/-- A gang's vault reads see the releases that the bytes of a window carry; a later FENCE acquires them (09 R258). -/
def State.vaultSees (s : State) (g u size : Nat) (ls : List LaneAcc) : State :=
  let cr := s.crew u
  let rs := (s.core cr.core).vrels
  let obs := ls.flatMap fun a => (List.range size).flatMap fun k => Sparse.get [] rs (16384 * cr.vbase + a.addr + k)
  s.modGang g fun x => { x with seenRel := obs.foldl addRel x.seenRel }

/-- An own-vault word counts among the VLT accesses that later copies of its gang come after (09 R261). -/
def State.tellOwn (s : State) (g : Nat) : State :=
  s.modGang g fun x => ({ x with vcCpy := joinVc x.vcCpy (joinVc x.vc x.vcVlt) } : Gang).used x.vcVlt

/-- The bytes that a lane writes at a vault offset. -/
def laneBytes (size : Nat) (a : LaneAcc) (v : Nat) : List (Nat × Byte) := (leBytes size v).zipIdx.map fun p => (a.addr + p.2, p.1)

/-- LDV of the own vault: reads at issue; a failing lane writes zero. -/
def State.ownLoad (s : State) (c : Cursor) (i : Instr) : State :=
  let u := (s.gang c.gang).crew
  let size := accessSize i
  let acc := s.vaultAcc c i
  let bad := s.badVaultLanes u size acc
  let ls := acc.map fun a => { a with res := if bad.contains a then 0 else leNat (s.vaultBytes u a.addr size) }
  (((s.vaultSees c.gang u size acc).tellOwn c.gang).emitVault c.gang i ls).vaultError c bad

/-- STV of the own vault: performed within 24 cycles, in the turn of its quarter and in the order of the gang's issue, so that every word issued 24
cycles after it finds its bytes (08 R240, R253; 06 R175). -/
def State.ownStore (s : State) (c : Cursor) (i : Instr) : State :=
  let u := (s.gang c.gang).crew
  let size := accessSize i
  let bytes := (s.vaultAcc c i).flatMap fun a => laneBytes size a a.data
  let (d, s) := s.popLag
  let x := s.gang c.gang
  let last := (x.wb.filterMap fun e => if e.writes.any (fun w => w matches .vault _ _ _) then some e.due else none).max?.getD 0
  let due := max (s.now + min d (Config.latVault - 1)) (min last (s.now + (Config.latVault - 1)))
  (s.tellOwn c.gang).emit c.gang (due - s.now) [.vault u bytes x.fenceRel]

/-- The gang's own-vault writes in flight take effect now. -/
def State.landVault (s : State) (g : Nat) : State :=
  let pend := (s.gang g).wb.flatMap fun e => e.writes.filter fun w => w matches .vault _ _ _
  let s := pend.foldl (fun s w => s.applyWrite g w) s
  if pend.isEmpty then s
  else s.modGang g fun x =>
    { x with wb := x.wb.map fun e => { e with writes := e.writes.filter fun w => !(w matches .vault _ _ _) } }

/-- One lane of a vault atomic at its window: the old value, and the new one written, with releases. -/
def State.vaultAtom (s : State) (u : Nat) (i : Instr) (a : LaneAcc) (rs : List Rel) : State × LaneAcc :=
  let old := leNat (s.vaultBytes u a.addr 4)
  (s.vaultStore u (laneBytes 4 a (atomNew (atomOf i) old a.data a.data2)) rs, { a with res := old, st := .done })

/-- ATOMV of the own vault: performed at issue after the gang's earlier stores, lane by lane. -/
def State.ownAtom (s : State) (c : Cursor) (i : Instr) : State :=
  let u := (s.gang c.gang).crew
  let s := s.landVault c.gang
  let acc := s.vaultAcc c i
  let bad := s.badVaultLanes u 4 acc
  let s := (s.vaultSees c.gang u 4 acc).tellOwn c.gang
  let rs := (s.gang c.gang).fenceRel
  let q := acc.foldl (fun (q : State × List LaneAcc) a =>
    if bad.contains a then (q.1, q.2 ++ [{ a with res := 0 }])
    else
      let r := q.1.vaultAtom u i a rs
      (r.1, q.2 ++ [r.2])) (s, [])
  (q.1.emitVault c.gang i q.2).vaultError c bad

/-- A towpath word issues: it takes a log entry, and its lanes owe their results (08 R243, 06 R164). -/
def State.issueTow (s : State) (c : Cursor) (i : Instr) (ba : SReg) : State :=
  let acc := s.vaultAcc c i
  let base := s.vbaseReg c ba
  let lanes := laneBits (s.lanes c)
  s.addOp c.gang (fun t => { tag := t, pc := c.pc, slot := c.slot, i := i, lanes := lanes, acc := acc, x := base, logged := true
                             due := s.now }) (owedRegs i) lanes

/-- LDV (06 R174). -/
def execLdv (sz : WSize) (d : VReg) (o : Src) (ba : SReg) (s : State) : Host.Outcome State Fault Refusal :=
  s.runWord (.ldv sz d o ba) fun c =>
    if (s.lanes c).isEmpty then s
    else if s.isOwn c ba then s.ownLoad c (.ldv sz d o ba) else s.issueTow c (.ldv sz d o ba) ba

/-- STV (06 R174). -/
def execStv (sz : WSize) (d o : Src) (ba : SReg) (s : State) : Host.Outcome State Fault Refusal :=
  s.runWord (.stv sz d o ba) fun c =>
    if (s.lanes c).isEmpty then s
    else if s.isOwn c ba then s.ownStore c (.stv sz d o ba) else s.issueTow c (.stv sz d o ba) ba

/-- ATOMV (06 R174). -/
def execAtomv (op : AtomvOp) (d : VReg) (o : Src) (ba : SReg) (s : State) : Host.Outcome State Fault Refusal :=
  s.runWord (.atomv op d o ba) fun c =>
    if (s.lanes c).isEmpty then s
    else if s.isOwn c ba then s.ownAtom c (.atomv op d o ba) else s.issueTow c (.atomv op d o ba) ba

/-! ## Towpath requests at their target -/

/-- The value that a towpath access reads. -/
def State.towRead (s : State) (u off n : Nat) : Nat := leNat ((List.range n).map fun k => s.farByte u (off + k))

/-- A write into the window removes the adapter entries whose frames, of 16 KiB, it touches (11 R319, R478). -/
def State.touchFrames (s : State) (u off n : Nat) : State :=
  let c := (s.crew u).core
  if (s.core c).tokOwner = some u then
    s.modCore c fun c => { c with adcache := c.adcache.filter fun e => !(e.frame.isSome && overlap (off, n) (e.off, 16384)) }
  else s

/-- One lane of a towpath access at its target (06 R174, R175), with the releases that its bytes will carry. -/
def State.towLane (s : State) (u : Nat) (i : Instr) (rs : List Rel) (a : LaneAcc) : State × LaneAcc :=
  let size := accessSize i
  let old := if memKind i = .store then 0 else s.towRead u a.addr size
  let s := { s with fresh := s.fresh + 1 }
  let (res, new) := laneAct i old a
  match new with
  | none => (s, { a with res := res, st := .done })
  | some v => ((s.vaultStore u (laneBytes size a v) rs).touchFrames u a.addr size, { a with res := res, st := .done })

/-- TOWPATH_REQUEST_ARRIVAL (08 R243): lanes that meet VAULT_BUSY at the target are held, the others are performed, and the response
returns. -/
def execTowpathRequestArrival (n : Nat) (s : State) : Host.Outcome State Fault Refusal :=
  match s.net[n]? with
  | none => .next s
  | some m =>
    if m.code != mTOW || decide (s.now < m.due) then .next s
    else
      let s := { s with net := s.net.eraseIdx n }
      let g := m.gangs.headD 0
      let u := m.line
      match m.op, s.op? g m.tag with
      | some i, some o =>
        -- a younger operation is held whole behind a data fault, and starts again after it (01 R46; 06 R175)
        if (s.gang g).behindFault o then
          .next (s.modOp g o.tag fun p => { p.mapAcc m.acc fun a => { a with st := .xlat } with due := s.now + 1 })
        else
        let size := accessSize i
        -- a lane behind a held one of an earlier word to its bytes starts again (09 R256, R272)
        let (wait, acc) := m.acc.partition fun a => (s.gang g).towHeld o a
        let s := if wait.isEmpty then s
          else s.modOp g o.tag fun p => { p.mapAcc wait fun a => { a with st := .xlat } with due := s.now + 1 }
        let torn := s.parityLanes g acc
        let s := s.pathFault g o ((torn.headD { lane := 0, addr := 0 }).addr) torn
        let acc := acc.filter fun a => !torn.contains a
        let busy := acc.filter fun a => s.busy u (a.addr, size)
        let bad := if memKind i = .store then [] else (s.badVaultLanes u size acc).filter fun a => !busy.contains a
        let ls := acc.filter fun a => !busy.contains a && !bad.contains a
        let s := if memKind i = .store then s else s.vaultSees g u size ls
        let rs := (s.gang g).fenceRel
        let q := ls.foldl (fun (q : State × List LaneAcc) a =>
          let r := q.1.towLane u i rs a
          (r.1, q.2 ++ [r.2])) (s, [])
        let s := (q.1.tellCopies g o.tag true).modOp g o.tag fun p =>
          { p with logged := !(busy.isEmpty && bad.isEmpty && wait.isEmpty && torn.isEmpty), acc := p.acc.map fun a => (q.2.find? fun b => b.lane == a.lane).getD a }
        let back := 12 + Config.latHop * hops (s.gang g).core (s.crew u).core
        let s := match memWrites i q.2 with
          | [] => s
          | ws => if q.2.isEmpty then s else s.modGang g fun x => { x with arr := x.arr ++ [(s.now + back, o.tag, ws)] }
        let s := if busy.isEmpty then s else s.dataFault g o.tag .vaultBusy (laneBits (busy.map (·.lane)))
        if bad.isEmpty then .next s
        else
          let s := s.dataFault g o.tag .uncorrectable (laneBits (bad.map (·.lane)))
          let k := (s.crew u).core
          .next (s.errorRecord 1 (128 * (k / 48) + k % 48) (some (s.gang g).tenant) ((bad.headD { lane := 0, addr := 0 }).addr) 0)
      | _, _ => .next s

end Sys2Proof.Machine
end

