-- ==== Sys2Proof/Machine/Sync.lean ====
section
/-! DEFINITION. Named barriers, tide groups and events (06 R180 to R191; 15 R387, R388): arrivals, waits and their completions. -/

namespace Sys2Proof.Machine

open Sys2Proof

/-! ## Completed generations -/

/-- Records the releases of a generation that has completed. -/
def keepGen (old : List (Nat × List Rel)) (g : Nat) (rs : List Rel) : List (Nat × List Rel) :=
  (old.filter fun p => p.1 != g) ++ [(g, rs)]

/-- The releases of a generation. -/
def genRels (old : List (Nat × List Rel)) (g : Nat) : List Rel := (old.lookup g).getD []

/-! ## Operations that wait or arrive -/

/-- A word of this chapter issues as an operation of its gang, with its recorded operand; its S destination is pending (06 R164). -/
def State.issueSync (s : State) (c : Cursor) (i : Instr) (regs : List PReg) (x : DWord) (acks : Nat := 0) : State :=
  let seq := (s.gang c.gang).nextSeq
  let s := if flushes i then s.flushCore (s.gang c.gang).core else s
  s.addOp c.gang (fun t => { tag := t, pc := c.pc, slot := c.slot, i := i, lanes := BitVec.allOnes 64, x := x, y := BitVec.ofNat 64 seq
                             logged := !regs.isEmpty, due := s.now, acks := acks }) regs (BitVec.allOnes 64)

/-- The result of an operation, an S register, arrives in cycle `due`. -/
def State.resultS (s : State) (g tag due : Nat) (d : SReg) (v : DWord) : State :=
  s.modGang g fun x => { x with arr := x.arr ++ [(due, tag, [.s d.val v])] }

/-- An operation is performed, and writes an S register one cycle and the next entry of `lag` later. -/
def State.answerS (s : State) (g tag : Nat) (d : SReg) (v : DWord) : State :=
  let (n, s) := s.popLag
  (s.modOp g tag fun o => { o with acks := 3 }).resultS g tag (s.now + 1 + n) d v

/-! ## Arrivals and signals whose releases are under way

DEDUCED (log entry 48): an arrival or signal is performed at issue (06 R164): it counts then, in the order of issue (R185, R191), and answers one
cycle later (R184; 14 R359).  Its release of the gang's earlier accesses (R179) is complete once they are performed; a wait that counts it
completes only then, so that what the waiting gang reads afterwards is ordered behind them (09 R258). -/

/-- Is an operation an arrival, signal or trace entry whose release is not complete? -/
def Op.releasing (o : Op) : Bool :=
  match o.i with
  | .nbarr .. | .tgarr .. => o.acks == 1
  | .evsig _ | .dbgmark _ => true
  | _ => false

/-- Does an operation go on by itself: to complete its release, as an EVWAIT whose condition is met, or as an EVTEST that a data fault has held? -/
def Op.waiting (o : Op) : Bool :=
  o.releasing || ((o.i matches .evwait ..) && o.acks == 1) || ((o.i matches .evtest ..) && o.acks == 2)

/-- Is an arrival in generation `gen` of a crew's barrier register still releasing? -/
def State.nbOpen (s : State) (u n gen : Nat) : Bool :=
  s.gangs.any fun q => q.2.crew == u && q.2.ops.any fun o => o.releasing && bits o.x 0 16 == gen && (match o.i with
    | .nbarr _ m => m.val == n
    | _ => false)

/-- Is an arrival in generation `gen` of a tide group still releasing? -/
def State.tideOpen (s : State) (n gen : Nat) : Bool :=
  s.gangs.any fun q => q.2.ops.any fun o => o.releasing && (o.i matches .tgarr ..) && bits o.x 0 16 == gen && bits o.x 16 8 == n

/-- Does a count include the signal that made it `n`? -/
def countsIn (c n : Word) : Bool := decide ((c - n).toNat < 2 ^ 31)

/-- Is a signal of an event that a count includes still releasing? -/
def State.evOpen (s : State) (k : Nat) (c : Word) : Bool :=
  s.gangs.any fun q => q.2.ops.any fun o => (o.i matches .evsig _) && o.acks == 1 && bits o.x 0 32 == k && countsIn c (BitVec.ofNat 32 (bits o.x 32 32))

/-! ## Named barriers -/

def Crew.nbar (cr : Crew) (n : Nat) : NB := Sparse.get {} cr.nb n
def Crew.setNb (cr : Crew) (n : Nat) (b : NB) : Crew := { cr with nb := Sparse.set {} cr.nb n b }

/-- The waits of a crew on a barrier register are tested again. -/
def State.wakeNb (s : State) (u n : Nat) : State :=
  let ws := (s.gangs.filter fun p => p.2.crew == u).flatMap fun p =>
    (p.2.ops.filter fun o => match o.i with
      | .nbwait _ m => m.val == n
      | _ => false).map fun o => (p.1, o.tag)
  ws.foldl (fun s w => s.at (s.now + 1) (.nbwaitComplete w.1 w.2)) s

/-- AN ARRIVAL at a barrier register (06 R183, R185): the generation in which it counts. -/
def State.arriveNb (s : State) (u n : Nat) (rs : List Rel) : BitVec 16 × State :=
  let b := (s.crew u).nbar n
  let b := { b with arrived := b.arrived + 1, rels := rs.foldl addRel b.rels }
  if b.arrived = b.member ∨ b.member = 0 then
    let b' : NB := { b with gen := b.gen + 1, arrived := 0, rels := [], old := keepGen b.old b.gen.toNat b.rels }
    (b.gen, (s.modCrew u fun cr => cr.setNb n b').wakeNb u n)
  else (b.gen, s.modCrew u fun cr => cr.setNb n b)

/-- NBINIT (06 R182). -/
def execNbinit (nb : NBReg) (cnt : Src) (s : State) : Host.Outcome State Fault Refusal :=
  s.runWord (.nbinit nb cnt) fun c =>
    let u := (s.gang c.gang).crew
    let n := (s.readO c cnt).setWidth 8
    (s.modCrew u fun cr =>
      let b := cr.nbar nb.val
      cr.setNb nb.val { b with member := n, arrived := 0, gen := b.gen + 1, rels := [], old := b.old.filter fun p => p.1 != b.gen.toNat }).wakeNb
      u nb.val

/-- NBARR (06 R183): it counts at issue (R164). -/
def execNbarr (d : SReg) (nb : NBReg) (s : State) : Host.Outcome State Fault Refusal :=
  s.runWord (.nbarr d nb) fun c =>
    let x := s.gang c.gang
    let gen := ((s.crew x.crew).nbar nb.val).gen.setWidth 64
    (((s.issueSync c (.nbarr d nb) [.s d.val] gen 1).arriveNb x.crew nb.val []).2).resultS c.gang x.nextTag (s.now + 1) d gen

/-- NBWAIT (06 R184): the token is read at issue. -/
def execNbwait (d : SReg) (nb : NBReg) (s : State) : Host.Outcome State Fault Refusal :=
  s.runWord (.nbwait d nb) fun c =>
    let t := (s.gang c.gang).nextTag
    (s.issueSync c (.nbwait d nb) [.s d.val] ((s.gang c.gang).sreg d.val)).at (s.now + 1) (.nbwaitComplete c.gang t)

/-- A wait whose condition is met writes its value, unless a data fault before it holds it; then it is tested again later. -/
def State.finishWait (s : State) (g : Nat) (o : Op) (d : SReg) (v : DWord) (sc : Scope) (rs : List Rel) (again : Instr) : State :=
  if !(s.gang g).here then s
  else if (s.gang g).behindFault o then s.at (s.now + 64) again
  else ((s.acquire g o.tag [] sc rs).deliver g o.tag (BitVec.allOnes 64) [.s d.val v]).dropOp g o.tag

/-- NBWAIT_COMPLETE (06 R184): the generation differs from the token, and every arrival in a generation that has completed is released. -/
def execNbwaitComplete (g tag : Nat) (s : State) : Host.Outcome State Fault Refusal :=
  match s.op? g tag with
  | none => .next s
  | some o =>
    match o.i with
    | .nbwait d nb =>
      let b := (s.crew (s.gang g).crew).nbar nb.val
      let t := o.x.setWidth 16
      if b.gen = t ∨ !(s.gang g).here then .next s
      else if b.old.any (fun p => p.1 == t.toNat) && s.nbOpen (s.gang g).crew nb.val t.toNat then .next (s.at (s.now + 1) (.nbwaitComplete g tag))
      else .next (s.finishWait g o d (b.gen.setWidth 64) .crew (genRels b.old t.toNat) (.nbwaitComplete g tag))
    | _ => .next s

/-! ## Tide groups -/

def State.tide (s : State) (n : Nat) : Tide := Sparse.get Tide.empty s.tides n
def State.setTide (s : State) (n : Nat) (t : Tide) : State := { s with tides := Sparse.set Tide.empty s.tides n t }

/-- Waits on a group are tested again. -/
def State.wakeTide (s : State) (n : Nat) : State :=
  ((s.tide n).waits).foldl (fun s w => s.at (s.now + 1) (.tgwaitComplete w.1 w.2)) s

/-- A generation completes when the group has a member and every member has arrived; membership then changes (06 R186). -/
def State.tideCheck (s : State) (n : Nat) : State :=
  let t := s.tide n
  if t.members.isEmpty ∨ !(t.members.all t.arrived.contains) then s
  else
    let stay := t.members.filter fun m => !t.leaving.contains m
    (s.setTide n { t with gen := t.gen + 1, members := stay ++ t.joining.filter fun m => !stay.contains m
                          arrived := [], joining := [], leaving := [], rels := [], old := keepGen t.old t.gen.toNat t.rels }).wakeTide n

/-- AN ARRIVAL of a member; one that is not counted changes nothing (06 R187).  Answers the generation current when it is performed. -/
def State.tideArrive (s : State) (n : Nat) (m : Member) (rs : List Rel) : BitVec 16 × State :=
  let t := s.tide n
  if t.members.contains m && !t.arrived.contains m then
    (t.gen, (s.setTide n { t with arrived := t.arrived ++ [m], rels := rs.foldl addRel t.rels }).tideCheck n)
  else (t.gen, s)

/-- A member joins from the next generation onwards, or at once in a group without members (06 R188). -/
def State.tideJoin (s : State) (n : Nat) (m : Member) : State :=
  let t := s.tide n
  if t.members.isEmpty then s.setTide n { t with members := [m] }
  else if (t.members.contains m && !t.leaving.contains m) || t.joining.contains m then s
  else s.setTide n { t with joining := t.joining ++ [m] }

/-- A membership ends when the generation completes; one that would begin then does not. -/
def State.tideQuit (s : State) (n : Nat) (m : Member) : State :=
  let t := s.tide n
  s.setTide n { t with leaving := if t.leaving.contains m || !t.members.contains m then t.leaving else t.leaving ++ [m]
                       joining := t.joining.filter fun k => k != m }

/-- A member leaves: its arrival, if it has not arrived, and the end of its membership when the generation completes (06 R188). -/
def State.tideLeave (s : State) (n : Nat) (m : Member) (rs : List Rel) : State :=
  let s := s.tideQuit n m
  if (s.tide n).members.contains m then (s.tideArrive n m rs).2 else s

/-- A group that is allocated to the tenant of a gang. -/
def State.tideMine (s : State) (g n : Nat) : Bool := (s.tide n).tenant == some (s.gang g).tenant

/-- The group that an operand names. -/
def State.groupOf (s : State) (c : Cursor) (grp : Src) : Nat := bits (s.readO c grp) 0 8

/-- Does an arrival of a crew at a tide group count now (06 R187)? -/
def State.tideCounts (s : State) (n : Nat) (m : Member) : Bool := (s.tide n).members.contains m && !(s.tide n).arrived.contains m

/-- TGARR (06 R187): performed at issue (R164); on a group that is not allocated to the crew's tenant it answers all ones. -/
def execTgarr (d : SReg) (grp : Src) (s : State) : Host.Outcome State Fault Refusal :=
  s.runWord (.tgarr d grp) fun c =>
    let x := s.gang c.gang
    let n := s.groupOf c grp
    let mine := s.tideMine c.gang n
    let m : Member := .crew x.crew
    let counts := mine && s.tideCounts n m
    let gen := (s.tide n).gen.toNat
    let s' := s.issueSync c (.tgarr d grp) [.s d.val] (pack [(0, gen), (16, n)]) (if counts then 1 else 0)
    (if counts then (s'.tideArrive n m []).2 else s').resultS c.gang x.nextTag (s.now + 1) d
      (if mine then BitVec.ofNat 64 gen else BitVec.allOnes 64)

/-- TGWAIT (06 R187). -/
def execTgwait (d : SReg) (grp : Src) (s : State) : Host.Outcome State Fault Refusal :=
  s.runWord (.tgwait d grp) fun c =>
    let t := (s.gang c.gang).nextTag
    let n := s.groupOf c grp
    let tok := bits ((s.gang c.gang).sreg d.val) 0 16
    let s' := s.issueSync c (.tgwait d grp) [.s d.val] (pack [(0, tok), (16, n)])
    let td := s'.tide n
    (s'.setTide n { td with waits := td.waits ++ [(c.gang, t)] }).at (s.now + 1) (.tgwaitComplete c.gang t)

/-- TGWAIT_COMPLETE (06 R187): at once with all ones on a group that is not allocated to the crew's tenant. -/
def execTgwaitComplete (g tag : Nat) (s : State) : Host.Outcome State Fault Refusal :=
  match s.op? g tag with
  | none => .next s
  | some o =>
    match o.i with
    | .tgwait d _ =>
      let n := bits o.x 16 8
      let tok := bits o.x 0 16
      let t := s.tide n
      let done (v : DWord) (rs : List Rel) : State :=
        let s' := s.finishWait g o d v .device rs (.tgwaitComplete g tag)
        if (s'.op? g tag).isSome then s' else s'.setTide n { (s'.tide n) with waits := (s'.tide n).waits.filter fun w => w != (g, tag) }
      if !s.tideMine g n then .next (done (BitVec.allOnes 64) [])
      else if t.gen.toNat = tok ∨ !(s.gang g).here then .next s
      else if s.tideOpen n tok then .next (s.at (s.now + 1) (.tgwaitComplete g tag))
      else .next (done (t.gen.setWidth 64) (genRels t.old tok))
    | _ => .next s

/-- TGJOIN or TGLEAVE by a gang's crew, on a group of its tenant (06 R187, R188). -/
def State.tideAct (s : State) (g n : Nat) (f : Member → State) : State :=
  if s.tideMine g n then f (.crew (s.gang g).crew) else s

/-- TGJOIN (06 R188). -/
def execTgjoin (grp : Src) (s : State) : Host.Outcome State Fault Refusal :=
  s.runWord (.tgjoin grp) fun c => s.tideAct c.gang (s.groupOf c grp) (s.tideJoin (s.groupOf c grp))

/-- TGLEAVE (06 R188). -/
def execTgleave (grp : Src) (s : State) : Host.Outcome State Fault Refusal :=
  s.runWord (.tgleave grp) fun c => s.tideAct c.gang (s.groupOf c grp) fun m => s.tideLeave (s.groupOf c grp) m []

/-! ## Events -/

def evKey (tenant name : Nat) : Nat := tenant * 65536 + name
def State.ev (s : State) (k : Nat) : Ev := Sparse.get Ev.empty s.events k
def State.setEv (s : State) (k : Nat) (e : Ev) : State := { s with events := Sparse.set Ev.empty s.events k e }

/-- Has a count passed a threshold (06 R190)? -/
def evMet (c t : Word) : Bool := decide (0 < (c - t).toNat) && decide ((c - t).toNat < 2 ^ 31)

/-- A wait on an event is satisfied with a count: that of a gang is answered once the signals in the count are released (06 R190); the gate of a
launch opens (15 R372). -/
def State.evDone (s : State) (w : XWho × Word) (count : Word) (rs : List Rel) : State :=
  match w.1 with
  | .gang g tag => s.modOp g tag fun o =>
      if o.i matches .evwait .. then { o with acks := 1, y := count.setWidth 64, rels := rs, due := s.now } else o
  | .launch l => s.modLaunch l fun x => { x with gate := 2, gateAt := count, rels := rs.foldl addRel x.rels }
  | .fetch _ | .copy _ _ | .fill _ | .island _ _ => s

/-- Is a waiter there: a wait of a gang whose context is out tests its condition afresh at resume (06 R197)? -/
def State.evThere (s : State) (w : XWho) : Bool :=
  match w with
  | .gang g _ => (s.gang g).here
  | .fetch _ | .copy _ _ | .fill _ | .island _ _ | .launch _ => true

/-- A SIGNAL of an event (06 R189), with the releases that it carries already; `who` is the gang and operation that go on releasing.  The waiters
that it satisfies complete in list order. -/
def State.evSignal (s : State) (k : Nat) (who : XWho) (rs : List Rel) : State :=
  let e := s.ev k
  let c := e.count + 1
  let rels := rs.foldl addRel e.rels
  let (met, left) := e.waits.partition fun w => evMet c w.2 && s.evThere w.1
  let s := s.setEv k { e with count := c, rels := rels, waits := left }
  let s := match who with
    | .gang g tag => s.modOp g tag fun o => { o with x := pack [(0, k), (32, c.toNat)], acks := 1 }
    | .fetch _ | .copy _ _ | .fill _ | .island _ _ | .launch _ => s
  met.foldl (fun s w => s.evDone w c rels) s

/-- A WAIT on an event: satisfied at once, or entered in the event's list. -/
def State.evWaitOn (s : State) (k : Nat) (w : XWho × Word) : State :=
  let e := s.ev k
  if evMet e.count w.2 && s.evThere w.1 then s.evDone w e.count e.rels else s.setEv k { e with waits := e.waits ++ [w] }

/-- A TEST of an event writes its count; a data fault before it holds it (01 R46). -/
def State.evTestOf (s : State) (k : Nat) (w : XWho) : State :=
  match w with
  | .gang g tag =>
    (match s.op? g tag with
     | none => s
     | some o => match o.i with
       | .evtest d _ =>
         if (s.gang g).behindFault o then s.modOp g tag fun o => { o with acks := 2, due := s.now + 1 }
         else s.answerS g tag d ((s.ev k).count.setWidth 64)
       | _ => s)
  | .fetch _ | .copy _ _ | .fill _ | .island _ _ | .launch _ => s

/-- Wait nodes in use: those of the waiters of resident events (15 R387). -/
def State.waitNodes (s : State) : Nat := (s.evRes.map fun k => (s.ev k).waits.length).sum

/-- Wait nodes of the pool (15 R387). -/
def waitPool : Nat := 16384

/-- Are operations on an event queued for the management core? -/
def State.evQueued (s : State) (k : Nat) : Bool := s.towers.any fun p => p.2.evq.any fun q => q.2.1 == k

/-- An event becomes resident at a reference where it can (15 R387); operations that are queued for it go first (15 R388). -/
def State.evResident (s : State) (k : Nat) : Bool × State :=
  if s.evQueued k then (false, s)
  else if s.evRes.contains k then (true, { s with evRes := k :: s.evRes.filter fun j => j != k })
  else if waitPool < s.waitNodes + (s.ev k).waits.length then (false, s)
  else if s.evRes.length < 4096 then (true, { s with evRes := k :: s.evRes })
  else match s.evRes.reverse.find? fun j => (s.ev j).waits.isEmpty with
    | some j => (true, { s with evRes := k :: s.evRes.filter fun i => i != j })
    | none => (false, s)

/-- While an entry is free, the management core moves overflow events back into residence (15 R388). -/
def State.evBack (s : State) : List Nat → State
  | [] => s
  | k :: r =>
    if s.evRes.length < 4096 ∧ !s.evRes.contains k ∧ !s.evQueued k ∧ s.waitNodes + (s.ev k).waits.length ≤ waitPool then
      ({ s with evRes := s.evRes ++ [k] } : State).evBack r
    else s.evBack r

/-- An operation on an event: 0 signal, 1 wait, 2 test. -/
def State.evAct (s : State) (op k : Nat) (w : XWho) (t : Word) (rs : List Rel) : State :=
  match op with
  | 0 => s.evSignal k w rs
  | 1 => s.evWaitOn k (w, t)
  | _ => s.evTestOf k w

/-- Performs an operation on an event, or queues it for the management core (15 R388). -/
def State.evOp (s : State) (tower op k : Nat) (w : XWho) (t : Word) (rs : List Rel) : State :=
  let full := op == 1 && decide (waitPool ≤ s.waitNodes)
  let (here, s) := if full then (false, s) else s.evResident k
  if here then s.evAct op k w t rs
  else
    -- the operations on one event wait in one queue, in the order of issue (06 R191)
    let tower := ((s.towers.find? fun p => p.2.evq.any fun q => q.2.1 == k).map (·.1)).getD tower
    (s.modTower tower fun x => { x with evq := x.evq ++ [(op, k, w, t, rs)] }).later 2000 (.eventOverflowOperation tower)

/-- The EVWAITs of a gang that are not answered are re-issued at resume: each tests its condition afresh (06 R197), unless it waits in an
overflow queue still. -/
def State.evAgain (s : State) (g : Nat) (o : Op) : State :=
  let w : XWho := .gang g o.tag
  let k := bits o.x 32 32
  if 2 ≤ o.acks || s.towers.any (fun p => p.2.evq.any fun q => q.2.2.1 == w) then s
  else
    let s := s.modOp g o.tag fun o => { o with acks := 0 }
    let e := s.ev k
    (s.setEv k { e with waits := e.waits.filter fun q => q.1 != w }).evOp ((s.gang g).core / 48) 1 k w (BitVec.ofNat 32 (bits o.x 0 32)) []

/-- EVENT_OVERFLOW_OPERATION (15 R388): the management core performs the first operation of a tower's queue on the overflow table: an event with a
wait that finds no node is in it. -/
def execEventOverflowOperation (tower : Nat) (s : State) : Host.Outcome State Fault Refusal :=
  match (s.tower tower).evq with
  | [] => .next s
  | q :: r =>
    let k := q.2.1
    let s := (s.modTower tower fun x => { x with evq := r }).evAct q.1 k q.2.2.1 q.2.2.2.1 q.2.2.2.2
    let s := if s.waitNodes ≤ waitPool then s else ({ s with evRes := s.evRes.filter fun j => j != k } : State)
    .next (s.evBack (s.events.map (·.1)))

/-- The event that an operand names. -/
def State.evOf (s : State) (c : Cursor) (e : Src) : Nat := evKey (s.gang c.gang).tenant (bits (s.readO c e) 0 16)

/-- EVSIG (06 R189): it counts at issue (R164). -/
def execEvsig (e : Src) (s : State) : Host.Outcome State Fault Refusal :=
  s.runWord (.evsig e) fun c =>
    let k := s.evOf c e
    (s.issueSync c (.evsig e) [] (BitVec.ofNat 64 k)).evOp ((s.gang c.gang).core / 48) 0 k (.gang c.gang (s.gang c.gang).nextTag) 0 []

/-- EVWAIT (06 R190): the threshold is read at issue. -/
def execEvwait (d : SReg) (e : Src) (s : State) : Host.Outcome State Fault Refusal :=
  s.runWord (.evwait d e) fun c =>
    let t := (s.gang c.gang).nextTag
    let thr := ((s.gang c.gang).sreg d.val).setWidth 32
    let k := s.evOf c e
    let s := s.issueSync c (.evwait d e) [.s d.val] (pack [(0, thr.toNat), (32, k)])
    s.evOp ((s.gang c.gang).core / 48) 1 k (.gang c.gang t) thr []

/-- EVTEST (06 R190). -/
def execEvtest (d : SReg) (e : Src) (s : State) : Host.Outcome State Fault Refusal :=
  s.runWord (.evtest d e) fun c =>
    let t := (s.gang c.gang).nextTag
    let k := s.evOf c e
    let s := s.issueSync c (.evtest d e) [.s d.val] (BitVec.ofNat 64 k)
    s.evOp ((s.gang c.gang).core / 48) 2 k (.gang c.gang t) 0 []

/-! ## Releases of arrivals and signals complete (06 R179) -/

/-- A core's number, row × 8 + column, and its tower (00 R4). -/
def towerOf (core : Nat) : Nat := core / Config.coresPerTower
def coreIn (core : Nat) : Nat := core % Config.coresPerTower

/-- The trace entry of a DBGMARK of gang `g`, issued at cycle `clk` with its packet at `pc`, as entry `tail` (19 R444). -/
def State.traceEntry (s : State) (g : Nat) (clk : Nat) (pc : PAddr) (code : BitVec 16) (tail : Nat) : List Byte :=
  let x := s.gang g
  let a := pcAddr pc
  let e2 := pack [(48, (a >>> 64).toNat), (32, code.toNat), (28, x.gid), (26, x.quarter), (20, coreIn x.core), (19, towerOf x.core)]
  leBytes 8 clk ++ leBytes 8 a.toNat ++ leBytes 8 e2.toNat ++ leBytes 4 tail ++ leBytes 4 (s.crew x.crew).idx

/-- The next entry of a tenant's trace ring: those written, and those on their way. -/
def State.traceNext (s : State) (t : Nat) : Nat :=
  (s.ten t).trtail.toNat + (s.mgmtPending.filter fun m => m.done == .trace t).length

/-- THE TRACE ENTRY of a DBGMARK is written, a release at HOST scope of its gang (19 R444). -/
def State.traceWrite (s : State) (g : Nat) (o : Op) (code : BitVec 16) : State :=
  let t := (s.gang g).tenant
  let n := s.traceNext t
  s.ringWrite (bits (s.ten t).trbase 12 40 * 4096 + 32 * (n % 2 ^ ringLog (s.ten t).trsize)) (s.traceEntry g o.x.toNat o.pc code n)
    (s.relOf g o [] .host) (.trace t)

/-- The releases of the generation in which an arrival has counted, with one more. -/
def genAdd (old : List (Nat × List Rel)) (g : Nat) (r : Rel) : List (Nat × List Rel) :=
  old.map fun p => if p.1 = g then (p.1, addRel p.2 r) else p

/-- The release of an NBARR is complete. -/
def State.settleNb (s : State) (g : Nat) (o : Op) (n : Nat) : State :=
  let r := s.relOf g o [] .crew
  let gen := bits o.x 0 16
  s.modCrew (s.gang g).crew fun cr =>
    let b := cr.nbar n
    cr.setNb n (if b.gen.toNat = gen then { b with rels := addRel b.rels r } else { b with old := genAdd b.old gen r })

/-- The release of a TGARR is complete. -/
def State.settleTide (s : State) (g : Nat) (o : Op) : State :=
  let r := s.relOf g o [] .device
  let gen := bits o.x 0 16
  let n := bits o.x 16 8
  let t := s.tide n
  s.setTide n (if t.gen.toNat = gen then { t with rels := addRel t.rels r } else { t with old := genAdd t.old gen r })

/-- The gate event of a launch (15 R372). -/
def Launch.gateKey (la : Launch) : Nat := evKey la.tenant (bits ((la.words[9]?).getD 0) 0 16)

/-- The release of an EVSIG is complete: the event carries it, and the waits and gates that count the signal acquire it; a signal that waits for the
overflow table takes it along. -/
def State.settleEv (s : State) (g : Nat) (o : Op) : State :=
  let r := s.relOf g o [] .device
  let k := bits o.x 0 32
  if o.acks = 0 then
    let put (q : Nat × Nat × XWho × Word × List Rel) : Nat × Nat × XWho × Word × List Rel :=
      if q.1 = 0 ∧ q.2.2.1 = .gang g o.tag then (0, q.2.1, .fetch g, q.2.2.2.1, addRel q.2.2.2.2 r) else q
    { s with towers := s.towers.map fun p => (p.1, { p.2 with evq := p.2.evq.map put }) }
  else
    let n := BitVec.ofNat 32 (bits o.x 32 32)
    let wait (p : Op) : Op :=
      if (p.i matches .evwait ..) && p.acks == 1 && bits p.x 32 32 == k && countsIn (p.y.setWidth 32) n then { p with rels := addRel p.rels r } else p
    let gate (la : Launch) : Launch :=
      if la.gate = 2 ∧ !la.started ∧ la.gateKey = k ∧ countsIn la.gateAt n then { la with rels := addRel la.rels r } else la
    let s := s.setEv k { (s.ev k) with rels := addRel (s.ev k).rels r }
    { s with gangs := s.gangs.map (fun q => (q.1, { q.2 with ops := q.2.ops.map wait }))
             lents := s.lents.map fun q => (q.1, gate q.2) }

/-- An operation of a gang is over, but for a result that it still owes. -/
def State.endOp (s : State) (g : Nat) (o : Op) : State :=
  if (s.gang g).arr.any fun e => e.2.1 == o.tag then s.modOp g o.tag fun o => { o with acks := 3 } else s.dropOp g o.tag

/-- The release of an arrival, signal or trace entry completes once the gang's earlier accesses are performed (06 R179); an EVWAIT whose condition is
met is answered, an acquire at DEVICE, once the signals that it counts are released; an EVTEST that was held is performed. -/
def State.pumpArrival (s : State) (g : Nat) (o : Op) : State :=
  let later (s : State) : State := s.modOp g o.tag fun o => { o with due := s.now + 1 }
  match o.i with
  | .evwait d _ =>
    let count := o.y.setWidth 32
    if (s.gang g).behindFault o ∨ s.evOpen (bits o.x 32 32) count then later s
    else (s.acquire g o.tag [] .device o.rels).answerS g o.tag d (count.setWidth 64)
  | .evtest .. =>
    if (s.gang g).behindFault o then later s
    else (s.modOp g o.tag fun o => { o with acks := 0 }).evOp ((s.gang g).core / 48) 2 (bits o.x 0 32) (.gang g o.tag) 0 []
  | _ =>
    let (may, s) := s.release g o
    if !may ∨ (s.gang g).behindFault o then later s
    else
      match o.i with
      | .nbarr _ nb => (s.settleNb g o nb.val).endOp g o
      | .tgarr .. => (s.settleTide g o).endOp g o
      | .evsig _ => (s.settleEv g o).dropOp g o.tag
      | .dbgmark code => (s.traceWrite g o code).dropOp g o.tag
      | _ => s

end Sys2Proof.Machine
end

