-- ==== Sys2Proof/Machine/Queue.lean ====
section
/-! DEFINITION. Queue registers (06 R192 to R196; 07 R227 to R229; 12 R330, R331): bindings, pushes, pops and ISLRECV transfers. -/

namespace Sys2Proof.Machine

open Sys2Proof

/-! ## Bindings -/

def Gang.qst (x : Gang) (q : Nat) : QState := Sparse.get {} x.q q
def Gang.setQ (x : Gang) (q : Nat) (v : QState) : Gang := { x with q := Sparse.set {} x.q q v }

/-- The standard images of I0 and W0 (12 R344, R349, R351). -/
def texImage : Image := { imgid := 1, cls := 1, lat := 96, ii := 2, wide := false, inmask := 3, outmask := 3, pair := [0, 1] }
def rastImage : Image := { imgid := 2, cls := 2, lat := 64, ii := 2, wide := true, inmask := 1, outmask := 1, pair := [0] }

/-- The island that an ISEL code names, for a core: an island of the core or of its tower (06 R192, 07 R229); I0 and W0 always hold their
standard images (12 R330), or those that a platform update has put in their places at boot (12 R344). -/
def State.island (s : State) (core isel : Nat) : Island :=
  match isel with
  | 0 => { (s.core core).i0 with img := some (s.life.imgI0.getD texImage) }
  | 1 => (s.core core).i1
  | 4 => { (Sparse.get {} (s.tower (core / 48)).wide 0 : Island) with img := some (s.life.imgW0.getD rastImage) }
  | _ => Sparse.get {} (s.tower (core / 48)).wide (isel - 4)

/-- Writes an island back. -/
def State.setIsland (s : State) (core isel : Nat) (x : Island) : State :=
  match isel with
  | 0 => s.modCore core fun c => { c with i0 := x }
  | 1 => s.modCore core fun c => { c with i1 := x }
  | _ => s.modTower (core / 48) fun t => { t with wide := Sparse.set {} t.wide (isel - 4) x }

/-- May a gang bind an island (12 R330)? -/
def State.mayBind (s : State) (g isel : Nat) : Bool :=
  let x := s.gang g
  match isel with
  | 0 => true
  | 1 =>
    let want := (s.launch (s.crew x.crew).lent).img
    let i := (s.core x.core).i1
    want.isSome && (i.img == want || (i.loading.map (·.2)) == want || ((s.crew x.crew).rt && (s.core x.core).borrow))
  | 4 => true
  | _ => decide (5 ≤ isel) && decide (isel ≤ 7) &&
      decide (Sparse.get 0 (s.tower (x.core / 48)).grants (isel - 4) / 2 ^ x.tenant % 2 = 1)

/-- The binding that a descriptor names, none where a field is invalid (06 R192). -/
def State.binding (s : State) (g : Nat) (w : DWord) : QBind :=
  let kind := bits w 28 4
  let isel := bits w 24 4
  let stream := bits w 16 8
  if kind = 0 ∨ 4 < kind ∨ 7 < stream then {}
  else if kind ≤ 2 then (if s.mayBind g isel then { kind := kind, isel := isel, stream := stream } else {})
  else { kind := kind, isel := 0, stream := stream }

/-- Room of an output queue: 16 records, 64 while it is set aside (18 R436). -/
def QState.outRoom (q : QState) : Nat := (if q.aside then 64 else 16) - q.recs.length

/-- Zeros for the lanes of a take that ends without a record. -/
def takeZeros (d : Nat) (w : QWait) : List Write :=
  (List.range 4).map fun k => .v (d + k) ((maskLanes w.slice w.lanes).map fun l => (l, 0))

/-- The destination of a QPOP or QPEEK. -/
def popDest : Instr → Option VReg
  | .qpop d _ => some d
  | .qpeek d _ => some d
  | _ => none

/-- A Q register becomes unbound or is bound anew: its records are discarded, takes that wait complete with zeros, and an MMA.Q reads
the records still owed as zeros (06 R192; 07 R221).  An ISLRECV that waits takes no more records and never completes, so that its destination
stays pending (DESIGN CHOICE, log entry 51: no rule says what becomes of it). -/
def State.rebind (s : State) (g q : Nat) (b : QBind) : State :=
  let old := (s.gang g).qst q
  let s := s.modGang g fun x => x.setQ q { b := b }
  old.waits.foldl (fun s w =>
    match s.op? g w.tag with
    | none => s
    | some o =>
      match popDest o.i with
      | some d => s.modGang g fun x => { x with arr := x.arr ++ [(s.now + 1, w.tag, takeZeros d.val w)] }
      | none =>
        match o.i with
        | .mmaQ .. =>
          (s.modCore (s.gang g).core fun c => { c with minsts := c.minsts.map fun m =>
            if m.id = o.x.toNat then { m with cut := true, err := true } else m }).dropOp g w.tag
        | _ => s) s

/-- Is a stream of a binding that of another (12 R331)? -/
def sameStream (a b : QBind) : Bool := a.kind == b.kind && a.isel == b.isel && a.stream == b.stream

/-- QBIND (06 R192): a register of the core that holds the stream becomes unbound. -/
def execQbind (q : QReg) (desc : Src) (s : State) : Host.Outcome State Fault Refusal :=
  s.runWord (.qbind q desc) fun c =>
    let b := s.binding c.gang (s.readO c desc)
    let core := (s.gang c.gang).core
    let held := if b.kind = 0 then [] else (s.gangs.filter fun p => p.2.here && p.2.core == core).flatMap fun p =>
      (p.2.q.filter fun r => !r.2.aside && sameStream r.2.b b && !(p.1 == c.gang && r.1 == q.val)).map fun r => (p.1, r.1)
    (held.foldl (fun s h => s.rebind h.1 h.2 {}) s).rebind c.gang q.val b

/-! ## Pushes -/

/-- The record of a slice (06 R194): lane i holds bits [128 i + 127 : 128 i]; inactive lanes are zero. -/
def Gang.record (x : Gang) (vs k : Nat) : BitVec 512 :=
  let m := (sliceAt x.slices k).mask
  (List.range 4).foldl (fun r i =>
    if m.getLsbD i then
      (List.range 4).foldl (fun r j => r ||| ((x.vreg (vs + j) (4 * k + i)).setWidth 512 <<< (128 * i + 32 * j))) r
    else r) 0

/-- Does the image of a binding's island declare the stream (12 R343)? -/
def State.declares (s : State) (core : Nat) (b : QBind) : Bool :=
  let i := s.island core b.isel
  match (match i.loading with
    | some (_, m) => some m
    | none => i.img) with
  | none => false
  | some m => decide ((if b.kind = 2 then m.inmask else m.outmask) / 2 ^ b.stream % 2 = 1)

/-- The open FENCE.X of a gang with P2 = ISL, at CORE scope or wider for a core island and at TOWER scope or wider for a wide one: the accesses
that the island makes for the gang's later records wait for them (06 R177, 12 R340). -/
def Gang.islFences (x : Gang) (g isel : Nat) : List (Nat × Nat) :=
  (x.ops.filter fun o => match o.i with
    | .fenceX sc _ p2 => p2 == .isl && decide ((if isel < 4 then 4 else 6) ≤ sc.code)
    | _ => false).map fun o => (g, o.tag)

/-- Pushes one record for each slice of the subgang with an active lane, ascending (06 R194); a stream that the image does not
declare discards them (06 R192). -/
def State.push (s : State) (c : Cursor) (q vs : Nat) (tag : Word) (mark : Bool) : State :=
  let x := s.gang c.gang
  let b := (x.qst q).b
  let rs := (c.slices.filter fun k => (sliceAt x.slices k).mask != 0).map fun k =>
    { bits := x.record vs k, tag := tag, mark := mark, due := s.now + (if b.kind = 2 then (if b.isel < 4 then 4 else 20) else 1)
      after := x.islFences c.gang b.isel : QRec }
  if b.kind = 2 ∧ !s.declares x.core b then s
  else s.modGang c.gang fun x => x.setQ q { x.qst q with recs := (x.qst q).recs ++ rs }

/-- QPUSH (06 R194). -/
def execQpush (q : QReg) (vs : VReg) (s : State) : Host.Outcome State Fault Refusal :=
  s.runWord (.qpush q vs) fun c => s.push c q.val vs.val 0 false

/-- ISLPUSH (07 R227): with a tag and, with F[0] = 1, an arrival marker. -/
def execIslpush (mark : Bool) (q : QReg) (vs : VReg) (tag : Src) (s : State) : Host.Outcome State Fault Refusal :=
  s.runWord (.islpush mark q vs tag) fun c => s.push c q.val vs.val ((s.readO c tag).setWidth 32) mark

/-! ## Takes -/

/-- The V registers that lanes of a slice receive from a record (06 R194, R195). -/
def takeWrites (d : Nat) (w : QWait) (r : BitVec 512) : List Write :=
  (List.range 4).map fun j => .v (d + j)
    ((maskLanes w.slice w.lanes).map fun l => (l, (r >>> (128 * (l % 4) + 32 * j)).setWidth 32))

/-- A record of an ISLRECV goes to the vault: 64 bytes at the recorded base + 64 k (07 R228). -/
def State.recvRecord (s : State) (g : Nat) (o : Op) (r : BitVec 512) : State :=
  match s.window (s.gang g).crew (bits o.x 32 8) with
  | none => s
  | some u =>
    let off := bits o.x 0 32 + 64 * o.acks
    let s := (s.vaultStore u ((leBytes 64 r.toNat).zipIdx.map fun p => (off + p.2, p.1))).touchFrames u off 64
    let s := s.modOp g o.tag fun o => { o with acks := o.acks + 1 }
    if o.acks + 1 = o.y.toNat then s.at (s.now + 1) (.islrecvComplete g o.tag) else s

/-- Is a transfer held by an open FENCE.X with P2 = ISL before it (06 R177)? -/
def Gang.islHeld (x : Gang) (o : Op) : Bool :=
  (x.before o.tag).any fun p => match p.i with
    | .fenceX _ _ p2 => p2 == .isl
    | _ => false

/-- One take is served: the first that waits (06 R195).  The slices of a QPEEK see successive records, which stay. -/
def State.serveOne (s : State) (g q early : Nat) : Option State :=
  let x := s.gang g
  let st := x.qst q
  match st.waits, st.recs.drop ((st.waits.head?.map (·.nth)).getD 0) with
  | w :: ws, r :: rs =>
    if s.now < r.due then none
    else
      match s.op? g w.tag with
      | none => some (s.modGang g fun x => x.setQ q { st with waits := ws })
      | some o =>
        if x.behindFault o then none
        else
        match popDest o.i with
        | some d =>
          let s := s.modGang g fun x =>
            { x.setQ q { st with waits := ws, recs := if w.peek then st.recs else rs } with
              arr := x.arr ++ [(max early (s.now + 1), w.tag, takeWrites d.val w r.bits)] }
          some s
        | none =>
          if isMma o.i || x.islHeld o then none
          else
          let last := decide (o.y.toNat ≤ o.acks + 1)
          let s := s.modGang g fun x => x.setQ q { st with waits := if last then ws else st.waits, recs := rs }
          some (s.recvRecord g o r.bits)
  | _, _ => none

/-- Takes are served while records are ready. -/
def State.serveQ (s : State) (g q early : Nat) : Nat → State
  | 0 => s
  | n + 1 =>
    match s.serveOne g q early with
    | none => s
    | some s' => s'.serveQ g q early n

/-- QPOP and QPEEK: one take for each slice with an active lane, in ascending order (06 R195); a record that is ready is written 6
cycles after issue (12 R339). -/
def State.take (s : State) (c : Cursor) (i : Instr) (d q : Nat) (peek : Bool) : State :=
  let x := s.gang c.gang
  let ls := s.lanes c
  if ls.isEmpty then s
  else
    let t := x.nextTag
    let ws := (c.slices.filter fun k => (sliceAt x.slices k).mask != 0).zipIdx.map fun p =>
      { tag := t, slice := p.1, lanes := (sliceAt x.slices p.1).mask, peek := peek, nth := if peek then p.2 else 0 : QWait }
    let s := s.addOp c.gang (fun t => { tag := t, pc := c.pc, slot := c.slot, i := i, lanes := laneBits ls, logged := true })
      (vGroup 4 d) (laneBits ls)
    let s := s.modGang c.gang fun x => x.setQ q { x.qst q with waits := (x.qst q).waits ++ ws }
    s.serveQ c.gang q (s.now + 6) 64

/-- QPOP (06 R195). -/
def execQpop (d : VReg) (q : QReg) (s : State) : Host.Outcome State Fault Refusal :=
  s.runWord (.qpop d q) fun c => s.take c (.qpop d q) d.val q.val false

/-- QPEEK (06 R195). -/
def execQpeek (d : VReg) (q : QReg) (s : State) : Host.Outcome State Fault Refusal :=
  s.runWord (.qpeek d q) fun c => s.take c (.qpeek d q) d.val q.val true

/-- QPOP_RECORD_ARRIVAL (06 R195): records that have reached the queue are given to the takes that wait. -/
def execQpopRecordArrival (g : Nat) (q : QReg) (s : State) : Host.Outcome State Fault Refusal :=
  if (s.gang g).here && !((s.gang g).qst q.val).aside then .next (s.serveQ g q.val 0 512) else .next s

/-- The count of QDEPTH (06 R196): records ready, or free room. -/
def QState.depth (q : QState) (now : Nat) : Nat :=
  match q.b.kind with
  | 1 => (q.recs.filter fun r => decide (r.due ≤ now)).length
  | 4 => (q.recs.filter fun r => decide (r.due ≤ now)).length
  | 2 => q.room
  | 3 => q.room
  | _ => 0

/-- QDEPTH (06 R196): the count is taken when the word is performed, in bounded time (01 R477). -/
def execQdepth (d : SReg) (q : QReg) (s : State) : Host.Outcome State Fault Refusal :=
  s.runWord (.qdepth d q) fun c => s.owe c (.qdepth d q) [.s d.val] []

/-! ## ISLRECV and ISLSTAT (07 R228, R229) -/

/-- ISLRECV: `cnt` records of the queue go to the vault at sd; with 0 records sd keeps its value. -/
def execIslrecv (d : SReg) (q : QReg) (cnt : Src) (s : State) : Host.Outcome State Fault Refusal :=
  s.runWord (.islrecv d q cnt) fun c =>
    if (s.lanes c).isEmpty then s
    else
      let n := bits (s.readO c cnt) 0 9
      let base := (s.gang c.gang).sreg d.val
      let t := (s.gang c.gang).nextTag
      let s := s.addOp c.gang (fun t => { tag := t, pc := c.pc, slot := c.slot, i := .islrecv d q cnt, lanes := BitVec.allOnes 64
                                          x := base, y := BitVec.ofNat 64 n, logged := true }) [.s d.val] (BitVec.allOnes 64)
      if n = 0 then s.at (s.now + 1) (.islrecvComplete c.gang t)
      else
        let s := s.modGang c.gang fun x => x.setQ q.val { x.qst q.val with
          waits := (x.qst q.val).waits ++ [{ tag := t, slice := 0, lanes := 0, peek := false }] }
        s.serveQ c.gang q.val 0 64

/-- ISLRECV_COMPLETE: after the last record sd[31:0] has grown by 64 × n. -/
def execIslrecvComplete (g tag : Nat) (s : State) : Host.Outcome State Fault Refusal :=
  match s.op? g tag with
  | none => .next s
  | some o =>
    match o.i with
    | .islrecv d _ _ =>
      if o.acks < o.y.toNat then .next s
      else
        let lo := o.x.setWidth 32 + BitVec.ofNat 32 (64 * o.y.toNat)
        let v := (o.x >>> 32 <<< 32) ||| lo.setWidth 64
        .next ((s.deliver g tag (BitVec.allOnes 64) [.s d.val v]).dropOp g tag)
    | _ => .next s

/-- ISLSTAT's word (07 R229). -/
def Island.stat (i : Island) : DWord :=
  match i.img with
  | none => pack [(55, if i.err then 1 else 0)]
  | some m => pack [(55, if i.err then 1 else 0), (54, 1), (48, m.cls), (32, m.lat), (0, m.imgid.toNat)]

/-- The status of the island that a code selects, for a core; 0 for another code (07 R229). -/
def State.islStat (s : State) (core k : Nat) : DWord :=
  if k = 0 ∨ k = 1 ∨ (4 ≤ k ∧ k ≤ 7) then (s.island core k).stat else 0

/-- ISLSTAT (07 R229): the status is taken when the word is performed, in bounded time (01 R477). -/
def execIslstat (d : SReg) (isel : Src) (s : State) : Host.Outcome State Fault Refusal :=
  s.runWord (.islstat d isel) fun c =>
    s.owe c (.islstat d isel) [.s d.val] [] (BitVec.ofNat 64 (bits (s.readO c isel) 0 4))

end Sys2Proof.Machine
end

