-- ==== Sys2Proof/Machine/Engine.lean ====
section
/-! DEFINITION. Memory accesses of the engines (10 R285; 16 R392, R394, R397): translation through the L2 TLB of the tower, non-caching
requests line by line, uncorrectable errors and checked bytes. -/

namespace Sys2Proof.Machine

open Sys2Proof

/-- Pieces of a range of virtual addresses, each in one line. -/
def pieces : Nat → Nat → Nat → List (Nat × Nat)
  | 0, _, _ => []
  | fuel + 1, va, n =>
    if n = 0 then []
    else
      let k := min n (128 - va % 128)
      (va, k) :: pieces fuel ((va + k) % 2 ^ 80) (n - k)

/-- The pieces of `n` bytes at an address. -/
def piecesOf (va n : Nat) : List (Nat × Nat) := pieces (n / 128 + 2) va n

/-- What an engine's access finds. -/
inductive EngRes (α : Type) where
  | ok (x : α)
  /-- a translation is on its way -/
  | miss
  /-- a recall is on its way -/
  | wait

/-- Where an engine's access stands: core, tenant, who waits, pages refused to it, its issuer number and clocks where it is checked, and the
timestamp that it carries. -/
structure EngCtx where
  core : Nat
  tenant : Nat
  who : XWho
  refused : List Nat := []
  check : Option (Nat × Sparse Nat) := none
  pts : Nat := 0

/-- The physical addresses of pieces; none for a page that was refused. -/
def State.engXlate (s : State) (k : EngCtx) (need : Nat) : List (Nat × Nat) → EngRes (List (Option Nat × Nat)) × State
  | [] => (.ok [], s)
  | (va, n) :: r =>
    if k.refused.contains (va / 8192) then
      match s.engXlate k need r with
      | (.ok l, s) => (.ok ((none, n) :: l), s)
      | q => q
    else
      match s.xlate2 (k.core / 48) k.tenant va need with
      | none => (.miss, s.miss (k.core / 48) k.tenant va need k.who)
      | some pa =>
        match s.engXlate k need r with
        | (.ok l, s) => (.ok ((some pa, n) :: l), s)
        | q => q

/-- The key of an engine among the requesters of a line; 1 is the ingress port, 9 the management core, and 2 + 8 t the walkers of tower t. -/
def XWho.key : XWho → Nat
  | .copy u id => 8 * (u + 2 ^ 40 * id) + 3
  | .fill c => 8 * c + 4
  | .island c i => 8 * (8 * c + i) + 5
  | .gang _ _ | .fetch _ | .launch _ => 0

/-- An engine's request for a line goes to the home, where it competes on its port and waits in the line's queue (10 R283). -/
def State.askTurn (s : State) (n : Node) (key ln : Nat) : State :=
  if s.flying.any fun m => m.code == mNC && m.line == ln && m.cause == some key then s
  else s.send { code := mNC, src := n, dst := .home (lineHome ln), line := ln, due := 0, cause := some key } 1

/-- Is a line ready for a non-caching access of an engine: it is the engine's turn, or the line is free in this cycle, so that its turn begins
(10 R283; log entry 19); and no rebase or recall must run first, which is then started?  Otherwise its request waits at the home. -/
def State.ncReady (s : State) (n : Node) (key ln pts : Nat) (write : Bool) : Bool × State :=
  let h := s.home (lineHome ln)
  let l := s.hline ln
  let mine := l.turn.any fun t => t.1 == key && decide (s.now ≤ t.2)
  if s.lineChanging ln || (!mine && (h.stalled.any (fun m => m.line == ln) || decide (s.now < max l.freeAt l.hold) || !(s.readyFor ln).isEmpty)) then
    (false, s.askTurn n key ln)
  else
    let s := if mine then s else s.setHline ln { l with freeAt := s.now + 1, turn := some (key, s.now) }
    match s.kind (s.range ln).slot with
    | .lease =>
      if h.inRebase then (false, s.askTurn n key ln)
      else if s.overPts ln pts || (write && s.overTime ln pts true) then (false, (s.startRebase (lineHome ln) pts).askTurn n key ln)
      else (true, s)
    | .through => if s.updOut ln then (false, s.askTurn n key ln) else (true, s)
    | .owned =>
      match s.ncLine ln (if write then some (0, [], []) else none) with
      | (.wait, s) => (false, s.askTurn n key ln)
      | (_, s) => (true, s)

/-- Are all the lines of some physical pieces ready? Every line that is not is asked for. -/
def State.allReady (s : State) (n : Node) (key pts : Nat) (write : Bool) : List (Option Nat × Nat) → Bool × State
  | [] => (true, s)
  | (none, _) :: r => s.allReady n key pts write r
  | (some pa, _) :: r =>
    if isHost pa then s.allReady n key pts write r
    else
      let (a, s) := s.ncReady n key (pa / 128) pts write
      let (b, s) := s.allReady n key pts write r
      (a && b, s)

/-- UPDATEs with bytes of an engine's writes that a sharer has not taken: its writes are not performed there yet (09 R254; log entry 30). -/
def State.engOut (s : State) (w : XWho) : Bool := s.net.any fun m => m.code == mUPDATE && m.cause == some w.key

/-- The SRC of an error record for a core (20 R468). -/
def coreSrc (core : Nat) : Nat := 128 * (core / 48) + core % 48

/-- Does a parity error fail the access of a path, an engine's by its key (20 R464, R466)? One record of KIND 3 is written, and the upset is over. -/
def State.tornPath (s : State) (key core : Nat) (tenant : Option Nat) (pa : Nat) : Bool × State :=
  if s.life.paths.contains key then
    (true, ({ s with life := { s.life with paths := s.life.paths.filter (· != key) } } : State).errorRecord 3 (128 * (core / 48) + 50) tenant pa 0)
  else (false, s)

/-- Does a checked access of bytes of a line race (09 R270); if not it is recorded. -/
def State.engCheck (s : State) (k : EngCtx) (ln : Nat) (bs : List Nat) (write : Bool) : Bool × State :=
  match k.check with
  | none => (false, s)
  | some (iss, vc) =>
    if !(s.range ln).chk then (false, s)
    else
      let a : Acc := { issuer := iss, clk := 1, write := write, sync := false }
      let (race, s) := s.reported (bs.map fun b => (b, a)) vc
      if race then (true, s) else (false, bs.foldl (fun s b => s.note a b) s)

/-- The gangs that have supplied a copy's parts. -/
def Copy.gangs (cp : Copy) : List Nat := (cp.parts.map (·.gang)).dedup

/-- The gangs of a copy, or an island, take the timestamp of a write (10 R294). -/
def State.noteTs (s : State) (w : XWho) (ts : Nat) : State :=
  match w with
  | .copy u id => (((s.crew u).copies.filter fun c => c.id == id).flatMap (·.gangs)).foldl
      (fun s g => s.modGang g fun x => { x with pts := max x.pts ts }) s
  | .island c i => s.setIsland c i { (s.island c i) with pts := max (s.island c i).pts ts }
  | .gang _ _ | .fetch _ | .fill _ | .launch _ => s

/-- The cycles of one more access of an engine's step: those that it took itself, and those of the die-to-die bridge (08 R252). -/
def State.joinExtra (s : State) (core ln old : Nat) : State :=
  { s with extra := max old (s.extra + if lineHome ln / 8 = core / 48 then 0 else Config.latBridge) }

/-- One physical piece is read: none where its line holds an uncorrectable error, races or is refused (07 R212; 09 R271). -/
def State.engReadPa (s : State) (k : EngCtx) (pa n : Nat) : List (Option Byte) × Bool × State :=
  if isHost pa then ((s.bytes pa n).map some, false, { s with extra := max s.extra (Config.latHost - Config.latHome) })
  else
    let old := s.extra
    let ln := pa / 128
    let bad := (List.range n).any fun j => s.life.badMem.contains ((pa + j) / 64)
    let s := if bad then s.memError (some k.tenant) ln else s
    let (torn, s) := s.tornPath k.who.key k.core (some k.tenant) pa
    let (race, s) := s.engCheck k ln ((List.range n).map (pa + ·)) false
    match ({ s with extra := 0 } : State).ncLine ln none k.pts (some k.tenant) with
    | (.data d _, s) =>
      let s := s.joinExtra k.core ln old
      if bad || race || torn then (List.replicate n none, true, s) else (((d.drop (pa % 128)).take n).map some, false, s)
    | (_, s) => (List.replicate n none, true, s)

/-- Reads bytes; the flag says that some were not read. -/
def State.engReadAll (s : State) (k : EngCtx) : List (Option Nat × Nat) → List (Option Byte) × Bool × State
  | [] => ([], false, s)
  | (none, n) :: r =>
    let (l, _, s) := s.engReadAll k r
    (List.replicate n none ++ l, true, s)
  | (some pa, n) :: r =>
    let (a, e, s) := s.engReadPa k pa n
    let (l, f, s) := s.engReadAll k r
    (a ++ l, e || f, s)

/-- AN ENGINE READS `n` bytes at a virtual address: bytes that could not be read are none. -/
def State.engRead (s : State) (k : EngCtx) (va n : Nat) : EngRes (List (Option Byte) × Bool) × State :=
  match s.engXlate k needR (piecesOf va n) with
  | (.ok ps, s) =>
    match s.allReady (.engine (k.core / 48)) k.who.key k.pts false ps with
    | (true, s) =>
      let (l, e, s) := s.engReadAll k ps
      (.ok (l, e), s)
    | (false, s) => (.wait, s)
  | (.miss, s) => (.miss, s)
  | (.wait, s) => (.wait, s)

/-- One physical piece is written, in the bytes that are present; the flag says that it was refused or raced. -/
def State.engWritePa (s : State) (k : EngCtx) (pa : Nat) (d : List (Option Byte)) : Bool × State :=
  if isHost pa then
    (false, (d.zipIdx.filterMap fun p => p.1.map fun b => (pa + p.2, b)).foldl (fun s p => s.setByte p.1 p.2) s)
  else
    let off := pa % 128
    let mask := BitVec.ofNat 128 ((d.zipIdx.map fun p => if p.1.isSome then 2 ^ (off + p.2) else 0).sum)
    let (race, s) := s.engCheck k (pa / 128) (d.zipIdx.filterMap fun p => if p.1.isSome then some (pa + p.2) else none) true
    let (torn, s) := s.tornPath k.who.key k.core (some k.tenant) pa
    if race || torn then (true, s)
    else
      let old := s.extra
      match ({ s with extra := 0 } : State).ncLine (pa / 128) (some (mask, List.replicate off 0 ++ d.map (fun b => b.getD 0), [])) k.pts (some k.tenant)
          (some k.who.key) with
      | (.data _ ts, s) => (false, (s.joinExtra k.core (pa / 128) old).noteTs k.who ts)
      | (_, s) => (true, s)

/-- Writes the bytes of pieces. -/
def State.engWriteAll (s : State) (k : EngCtx) : List (Option Nat × Nat) → List (Option Byte) → Bool × State
  | [], _ => (false, s)
  | (none, n) :: r, d =>
    let (_, s) := s.engWriteAll k r (d.drop n)
    (true, s)
  | (some pa, n) :: r, d =>
    let (e, s) := s.engWritePa k pa (d.take n)
    let (f, s) := s.engWriteAll k r (d.drop n)
    (e || f, s)

/-- AN ENGINE WRITES bytes at a virtual address; bytes that are none are left as they are. -/
def State.engWrite (s : State) (k : EngCtx) (va : Nat) (d : List (Option Byte)) : EngRes Bool × State :=
  match s.engXlate k needW (piecesOf va d.length) with
  | (.ok ps, s) =>
    match s.allReady (.engine (k.core / 48)) k.who.key k.pts true ps with
    | (true, s) =>
      let (e, s) := s.engWriteAll k ps d
      (.ok e, s)
    | (false, s) => (.wait, s)
  | (.miss, s) => (.miss, s)
  | (.wait, s) => (.wait, s)

end Sys2Proof.Machine
end

