-- ==== Sys2Proof/Machine/Copy.lean ====
section
/-! DEFINITION. Shapes and copies (07 R201 to R215; 02 R64, R65): parts, the movement of vectors, completion and status. -/

namespace Sys2Proof.Machine

open Sys2Proof

/-! ## Elements and layouts -/

/-- Elements that may be missing. -/
abbrev Elems := Array (Option Nat)

/-- A byte of a buffer. -/
def bufAt (b : Array (Option Byte)) (k : Nat) : Option Byte := (b[k]?).getD none

/-- Element `k` of a vector in the memory layout (07 R205; 02 R64). -/
def memElem (code : Nat) (b : Array (Option Byte)) (k : Nat) : Option Nat :=
  let w := fmtBits code
  if 8 ≤ w then
    let bs := (List.range (w / 8)).map fun j => bufAt b (k * (w / 8) + j)
    if bs.all Option.isSome then some (leNat (bs.filterMap id)) else none
  else
    let j := k % 128
    (bufAt b (k / 128 * 16 * w + j % (16 * w))).map fun x => x.toNat / 2 ^ (w * (j / (16 * w))) % 2 ^ w

/-- The elements of a vector. -/
def memElems (code inner : Nat) (b : List (Option Byte)) : Elems :=
  let a := b.toArray
  ((List.range inner).map (memElem code a)).toArray

/-- An element of a list that may be missing or beyond the end; elements beyond the end are zero. -/
def cpElem (e : Elems) (k : Nat) : Option Nat := (e[k]?).getD (some 0)

/-- Byte `i` of a vector in the memory layout: none where an element of it is missing. -/
def memByte (code : Nat) (e : Elems) (i : Nat) : Option Byte :=
  let w := fmtBits code
  if 8 ≤ w then (cpElem e (i / (w / 8))).map fun x => BitVec.ofNat 8 (x / 256 ^ (i % (w / 8)))
  else
    let kb := i / (16 * w)
    let parts := (List.range (8 / w)).map fun j => (cpElem e (128 * kb + 16 * w * j + i % (16 * w)), w * j)
    if parts.all fun p => p.1.isSome then some (BitVec.ofNat 8 ((parts.map fun p => p.1.getD 0 * 2 ^ p.2).sum)) else none

/-- A vector in the memory layout. -/
def memBytes (code inner : Nat) (e : Elems) : List (Option Byte) := (List.range (vecLen code inner)).map (memByte code e)

/-- A row-block in the plane layout (02 R65): plane p, byte i holds bit p of elements 8 i to 8 i + 7. -/
def planeBytes (code : Nat) (e : Elems) (kb : Nat) : List (Option Byte) :=
  (List.range (fmtBits code)).flatMap fun p => (List.range 16).map fun i =>
    let parts := (List.range 8).map fun j => (cpElem e (128 * kb + 8 * i + j), j)
    if parts.all fun q => q.1.isSome then
      some (BitVec.ofNat 8 ((parts.map fun q => (q.1.getD 0 / 2 ^ p % 2) * 2 ^ q.2).sum))
    else none

/-- Element `k` of a row-block in the plane layout. -/
def planeElem (code : Nat) (b : Array (Option Byte)) (k : Nat) : Option Nat :=
  let bs := (List.range (fmtBits code)).map fun p => (bufAt b (16 * p + k / 8), p)
  if bs.all fun q => q.1.isSome then some ((bs.map fun q => ((q.1.getD 0).toNat / 2 ^ (k % 8) % 2) * 2 ^ q.2).sum) else none

/-- Conversion of an element by 02 R58 (07 R208), between equal float formats too; a copy takes no FTZ (02 R54).  A format that CVT does
not know goes only with itself (07 R203). -/
def cvtElem (src dst rm : Nat) (sat : Bool) (x : Nat) : Nat × BitVec 7 :=
  match Fmt.ofCvt src, Fmt.ofCvt dst with
  | some f, some g => cvtCode f g rm sat false x
  | _, _ => (x, 0)

/-- Conversion of the elements of a vector, with the flags. -/
def cvtElems (src dst rm : Nat) (sat : Bool) (e : Elems) : Elems × BitVec 7 :=
  let r := e.toList.map fun x => x.map (cvtElem src dst rm sat)
  ((r.map fun x => x.map (·.1)).toArray, r.foldl (fun f x => f ||| ((x.map (·.2)).getD 0)) 0)

/-! ## Copies of a crew -/

/-- A copy by its key. -/
def State.copy? (s : State) (key : Nat) : Option Copy := (s.crew (key % 2 ^ 40)).copies.find? fun c => c.id == key / 2 ^ 40

/-- Changes a copy. -/
def State.modCopy (s : State) (key : Nat) (f : Copy → Copy) : State :=
  s.modCrew (key % 2 ^ 40) fun cr => { cr with copies := cr.copies.map fun c => if c.id = key / 2 ^ 40 then f c else c }

/-- Removes a copy. -/
def State.dropCopy (s : State) (key : Nat) : State :=
  s.modCrew (key % 2 ^ 40) fun cr => { cr with copies := cr.copies.filter fun c => c.id != key / 2 ^ 40 }

/-- The MODE fields. -/
def modeRm (m : Word) : Nat := m.toNat % 8
def modeFtz (m : Word) : Bool := m.getLsbD 3
def modeOrd (m : Word) : Bool := m.getLsbD 4

/-- The part that moves vector `v`: of the lowest GANGID, then the earliest (07 R208). -/
def Copy.partOf (c : Copy) (v : Nat) : Option (Part × Nat) :=
  let l := c.parts.zipIdx.filter fun p => decide (p.1.first ≤ v) && decide (v < p.1.first + p.1.count)
  match l with
  | [] => none
  | p :: r => some (r.foldl (fun b q => if q.1.gang % 16 < b.1.gang % 16 then q else b) p)

/-! ## Issue of parts (07 R206, R207) -/

/-- Operations that precede a copy part: the gang's accesses that are not performed, and FENCE.Xs towards CPY (07 R211, 06 R177). -/
def Gang.priorOps (x : Gang) (p2 : Path) : List Nat :=
  (x.ops.filter fun o => (o.unfinished && !isFence o.i) || (match o.i with
    | .fenceX _ _ q => q == p2
    | _ => false)).map (·.tag)

/-- A COPY PART ISSUES: it starts a copy or joins the one that gathers, which moves by the kind of its first part (DESIGN CHOICE, log entry
50: 07 R207 does not speak of parts of another kind); the last part starts it.  Its gang's dirty LEASE bytes are
sent home (10 R294); its LSU and VLT accesses so far, and what they and its FENCE.Xs know, come before the copy's accesses (09 R261). -/
def State.issuePart (s : State) (c : Cursor) (kind : CopyKind) (wants tomem : Bool) (h : HReg) (rng : Src) (nb : NBReg) : State :=
  if (s.lanes c).isEmpty then
    -- the attached word of a part that does not count goes nowhere (07 R199, R213)
    match wants, s.cur with
    | true, some k => { s with cur := some { k with parts := k.parts ++ [(0, 0)] } }
    | _, _ => s
  else
    let x := s.gang c.gang
    let u := x.crew
    let w := s.readO c rng
    let part : Part :=
      { gang := c.gang, first := bits w 0 16, count := bits w 16 16, disp := ((w >>> 32).setWidth 32).toInt, rm := modeRm x.mode
        ftz := modeFtz x.mode, ord := modeOrd x.mode, wants := wants, after := x.priorOps .cpy, seq := x.nextSeq }
    let s := s.flushCore x.core
    let known := Sparse.set 0 x.vcCpy x.iss x.clk
    let s := s.modGang c.gang fun x => { x with clk := x.clk + 1 }
    let cr := s.crew u
    let (id, s) := match cr.gathering h.val with
      | some cp => (cp.id, s)
      | none =>
        let cp : Copy := { id := cr.nextCopy, crew := u, kind := kind, h := h.val, sh := cr.shape h.val, nb := nb.val, tomem := tomem
                           iss := 2 * s.nextIss + 1 }
        (cr.nextCopy, { s.setCrew u { cr with copies := cr.copies ++ [cp], nextCopy := cr.nextCopy + 1 } with
          nextIss := s.nextIss + 1, places := s.places ++ [(cp.iss, s.opIssuer u)] })
    let key := copyKey u id
    let s := s.modCopy key fun cp => { cp with parts := cp.parts ++ [part], vc := joinVc cp.vc known }
    match s.copy? key with
    | none => s
    | some cp =>
      let s := if wants then
          match s.cur with
          | some k => { s with cur := some { k with parts := k.parts ++ [(key, cp.parts.length - 1)] } }
          | none => s
        else s
      if cp.parts.length < cp.sh.nparts then s
      else (s.modCopy key fun cp => { cp with started := true }).later Config.latHome (.copyComplete key)

/-- COPY (07 R206). -/
def execCopy (follow tomem : Bool) (h : HReg) (rng : Src) (nb : NBReg) (s : State) : Host.Outcome State Fault Refusal :=
  s.runWord (.copy follow tomem h rng nb) fun c => s.issuePart c .dense follow tomem h rng nb

/-- COPY.CSR (07 R210). -/
def execCopyCsr (h : HReg) (rng : Src) (nb : NBReg) (s : State) : Host.Outcome State Fault Refusal :=
  s.runWord (.copyCsr h rng nb) fun c => s.issuePart c .csr false false h rng nb

/-- COPY.PLANE (07 R209). -/
def execCopyPlane (follow tomem : Bool) (h : HReg) (rng : Src) (nb : NBReg) (s : State) : Host.Outcome State Fault Refusal :=
  s.runWord (.copyPlane follow tomem h rng nb) fun c => s.issuePart c .plane follow tomem h rng nb

/-- COPY.Q (07 R214). -/
def execCopyQ (h : HReg) (rng : Src) (nb : NBReg) (s : State) : Host.Outcome State Fault Refusal :=
  s.runWord (.copyQ h rng nb) fun c => s.issuePart c .stream false false h rng nb

/-- The first cycle after every record that is still to be written into an H register of a crew (01 R19: in order of issue). -/
def State.shapesBefore (s : State) (u h : Nat) : Nat :=
  ((s.gangs.filter fun p => p.2.crew == u).flatMap fun p => p.2.arr.filterMap fun e =>
    if e.2.2.any (fun w => match w with
      | .h v r _ => v == u && r == h
      | _ => false) then some (e.1 + 1) else none).max?.getD 0

/-- SHAPE (07 R204), in bounded time: the record is written as the pending mark goes; until then other gangs read the old one.  Records
of one H register are written in the order of issue (01 R19). -/
def execShape (h : HReg) (sk : SReg) (s : State) : Host.Outcome State Fault Refusal :=
  s.runWord (.shape h sk) fun c =>
    let x := s.gang c.gang
    let r := Shape.of true (x.sreg sk.val) (x.sreg (sk.val + 1)) (x.sreg (sk.val + 2)) (x.sreg (sk.val + 3))
    let (d, s) := s.popLag
    s.oweAt c (.shape h sk) [.h h.val] [.h x.crew h.val r] (max (s.now + 1 + d) (s.shapesBefore x.crew h.val))

/-- CPSTAT's word (07 R215). -/
def Crew.copyStat (cr : Crew) (h : Nat) : DWord :=
  let run := (cr.copies.filter fun p => p.h == h && p.started && !p.moved).length
  pack [(0, ((cr.gathering h).map fun p => p.parts.length).getD 0), (8, run), (16, if cr.cperr.contains h then 1 else 0)]

/-- The status of an H register's copies, and its ERR cleared. -/
def State.cpStatus (s : State) (u h : Nat) : DWord := (s.crew u).copyStat h
def State.takeCpErr (s : State) (u h : Nat) : State := s.modCrew u fun cr => { cr with cperr := cr.cperr.filter fun k => k != h }

/-- A gang that reads RUN = 0 of an H register has observed the completion of its copies (06 R177, 07 R215). -/
def State.seeCopies (s : State) (g h : Nat) : State :=
  let cr := s.crew (s.gang g).crew
  if cr.copies.any fun p => p.h == h && p.started && !p.moved then s
  else s.modGang g fun x => { x with seenCp := x.seenCp.join (Sparse.get {} cr.cpDone h) }

/-- CPSTAT (07 R215): the status is taken, and ERR is cleared, when the word is performed. -/
def execCpstat (d : SReg) (h : HReg) (s : State) : Host.Outcome State Fault Refusal :=
  s.runWord (.cpstat d h) fun c => s.owe c (.cpstat d h) [.s d.val] []

/-! ## Tokens of attached words (07 R213, R222) -/

/-- The attached words of a copy that count as in flight: all until it completes, then that of the first part that carries one. -/
def Copy.attached (cp : Copy) : List Follow :=
  if cp.moved then (((cp.parts.find? (·.wants)).bind (·.follow)).map fun f => [f]).getD [] else cp.parts.filterMap (·.follow)

/-- Every MACQ of a core that waits is tested again. -/
def State.retestToks (s : State) (core : Nat) : State :=
  ((s.core core).toks.zipIdx.filterMap fun p => match p.1 with
    | .transfer g _ => some (g, p.2)
    | .engine | .held _ => none).foldl (fun s p => s.at s.now (.macqComplete p.1 (Fin.ofNat 4 p.2))) s

/-! ## Movement -/

/-- May a copy start: its parts' gangs' earlier accesses are performed, and their core's LEASE bytes, those of gangs whose accesses come before
them among them, are home (07 R211; 09 R261; 10 R294)? -/
def State.copyReady (s : State) (cp : Copy) : Bool × State :=
  let prior := cp.parts.all fun p =>
    let x := s.gang p.gang
    (x.ops.all fun o => !p.after.contains o.tag || !(o.unfinished || isFence o.i)) && !x.vaultOut p.seq
  if !prior then (false, s)
  else
    let c := (s.crew cp.crew).core
    match cp.fence with
    | some n => (!s.coreOut c n, s)
    | none =>
      let s := s.flushCore c
      let n := (s.core c).wseq
      (!s.coreOut c n, s.modCopy (copyKey cp.crew cp.id) fun c => { c with fence := some n })

/-- The context of a copy's memory accesses. -/
def State.copyCtx (s : State) (cp : Copy) : EngCtx :=
  let cr := s.crew cp.crew
  { core := cr.core, tenant := cr.tenant, who := .copy cp.crew cp.id, refused := cp.refused
    check := some (cp.iss, cp.vc), pts := s.maxPts cp.gangs }

/-- The address of a part's memory accesses. -/
def Copy.addr (cp : Copy) (p : Part) (off : Nat) : Nat :=
  (BitVec.ofInt 80 ((cp.sh.base : Int) + p.disp + off)).toNat

/-- Bytes of a window as a copy's source: none in an SRAM word with an uncorrectable error (07 R212 speaks of 128-byte lines of memory; for
the vault only the failing word of 8 bytes is left unmoved, DESIGN CHOICE, log entry 50). -/
def State.vaultSrc (s : State) (w off n : Nat) : List (Option Byte) :=
  let cr := s.crew w
  let bad := (s.core cr.core).badVault
  (List.range n).map fun k => if bad.contains ((16384 * cr.vbase + off + k) / 8) then none else some (s.farByte w (off + k))

/-- Writes the bytes that are present at an offset of a copy's window. -/
def State.copyToVault (s : State) (cp : Copy) (off : Nat) (d : List (Option Byte)) : State :=
  match s.window cp.crew cp.sh.vsel with
  | none => s
  | some w =>
    let bs := d.zipIdx.filterMap fun p => p.1.map fun b => (off + p.2, b)
    let s := (s.vaultStore w bs).touchFrames w off d.length
    if w = cp.crew ∨ bs = [] then s else s.modCopy (copyKey cp.crew cp.id) fun c => { c with wrote := true }

/-- What a vector's movement comes to. -/
inductive Moved where
  | done (err : Bool) (flags : BitVec 7)
  | miss
  | wait

/-- A vector from memory as elements of the vault's format. -/
def State.loadVector (s : State) (cp : Copy) (p : Part) (v : Nat) : EngRes (Elems × BitVec 7 × Bool) × State :=
  let r := cp.sh
  match s.engRead (s.copyCtx cp) (cp.addr p (v * r.rowstride)) (vecLen r.mfmt r.inner) with
  | (.ok (b, e), s) =>
    let q := cvtElems r.mfmt r.vfmt p.rm r.sat (memElems r.mfmt r.inner b)
    (.ok (q.1, q.2, e), s)
  | (.miss, s) => (.miss, s)
  | (.wait, s) => (.wait, s)

/-- Moves vector `v` of a dense or plane copy into the vault (07 R208, R209). -/
def State.moveIn (s : State) (cp : Copy) (p : Part) (v : Nat) : Moved × State :=
  let r := cp.sh
  match s.loadVector cp p v with
  | (.ok (e, f, err), s) =>
    let s := if cp.kind = .plane then
        (List.range r.nkb).foldl (fun s kb => s.copyToVault cp (r.blockOff v kb) (planeBytes r.vfmt e kb)) s
      else
        let b := memBytes r.vfmt r.inner e
        s.copyToVault cp (r.vbase + v * r.vdist) (b ++ List.replicate (r.span - b.length) (some 0))
    (.done err f, s)
  | (.miss, s) => (.miss, s)
  | (.wait, s) => (.wait, s)

/-- The elements of vector `v` in the vault. -/
def State.vaultElems (s : State) (cp : Copy) (v : Nat) : Elems :=
  let r := cp.sh
  match s.window cp.crew r.vsel with
  | none => #[]
  | some w =>
    if cp.kind = .plane then
      ((List.range r.nkb).flatMap fun kb =>
        let b := (s.vaultSrc w (r.blockOff v kb) (16 * fmtBits r.vfmt)).toArray
        (List.range (min 128 (r.inner - 128 * kb))).map fun k => planeElem r.vfmt b k).toArray
    else memElems r.vfmt r.inner (s.vaultSrc w (r.vbase + v * r.vdist) (vecLen r.vfmt r.inner))

/-- The bytes of a sub-byte vector in memory that hold bits of elements on both sides of INNER (07 R209): the first of them, and how many. -/
def mixedBytes (code inner : Nat) : Nat × Nat :=
  let w := fmtBits code
  let m := inner % 128
  let full := m - (128 - 16 * w)
  (inner / 128 * 16 * w + full, min m (16 * w) - full)

/-- The bytes of a sub-byte vector: in a mixed byte, with its old value among those from byte `first` on, only the bits of elements below INNER
change; a byte of elements at or above INNER alone is not written (07 R209). -/
def mergeSub (code inner first : Nat) (old : List (Option Byte)) (e : Elems) : List (Option Byte) :=
  let w := fmtBits code
  let a := old.toArray
  (List.range (vecLen code inner)).map fun i =>
    let mine := (List.range (8 / w)).filter fun j => decide (128 * (i / (16 * w)) + 16 * w * j + i % (16 * w) < inner)
    let mask := (mine.map fun j => (2 ^ w - 1) * 2 ^ (w * j)).sum
    if mine.isEmpty then none
    else if mine.length = 8 / w then memByte code e i
    else match memByte code e i, bufAt a (i - first) with
      | some n, some o => some (BitVec.ofNat 8 (Nat.lor (Nat.land n.toNat mask) (Nat.land o.toNat (255 - mask))))
      | _, _ => none

/-- Moves vector `v` of a dense or plane copy to memory (07 R208, R209). -/
def State.moveOut (s : State) (cp : Copy) (p : Part) (v : Nat) : Moved × State :=
  let r := cp.sh
  let src := s.vaultElems cp v
  let lost := src.any Option.isNone
  let q := cvtElems r.vfmt r.mfmt p.rm r.sat src
  let va := cp.addr p (v * r.rowstride)
  let k := s.copyCtx cp
  let put (s : State) (d : List (Option Byte)) (err : Bool) : Moved × State :=
    match s.engWrite k va d with
    | (.ok e, s) => (.done (e || err || lost) q.2, s)
    | (.miss, s) => (.miss, s)
    | (.wait, s) => (.wait, s)
  let mix := mixedBytes r.mfmt r.inner
  if 8 ≤ fmtBits r.mfmt then put s (memBytes r.mfmt r.inner q.1) false
  else if mix.2 = 0 then put s (mergeSub r.mfmt r.inner 0 [] q.1) false
  else
    match s.engRead k (va + mix.1) mix.2 with
    | (.ok (old, e), s) => put s (mergeSub r.mfmt r.inner mix.1 old q.1) e
    | (.miss, s) => (.miss, s)
    | (.wait, s) => (.wait, s)

/-- A 32-bit word of bytes that were read. -/
def word32 (b : List (Option Byte)) : Option Nat := if b.all Option.isSome then some (leNat (b.filterMap id)) else none

/-- The bytes of an element, if it is present. -/
def elemBytes (n : Nat) (x : Option Nat) : List (Option Byte) :=
  match x with
  | none => List.replicate n none
  | some v => (leBytes n v).map some

/-- Packed elements of `w` bits as bytes. -/
def packBits (w : Nat) (old : List (Option Byte)) (first : Nat) (xs : List (Option Nat)) : List (Option Byte) :=
  let n : Nat := (xs.map fun x => x.getD 0).zipIdx.foldl (fun a p => a + p.1 * 2 ^ (w * p.2)) 0 * 2 ^ (w * first % 8)
  let m : Nat := (xs.zipIdx.map fun p => if p.1.isSome then (2 ^ w - 1) * 2 ^ (w * p.2) else 0).sum * 2 ^ (w * first % 8)
  (old.zipIdx.map fun p =>
    let mk : Nat := m / 256 ^ p.2 % 256
    if mk = 0 then none else p.1.map fun b => BitVec.ofNat 8 (Nat.lor (Nat.land (n / 256 ^ p.2 % 256) mk) (Nat.land b.toNat (255 - mk))))

/-- The non-zeros `a` to `b - 1` of a row (07 R210), with z ≤ a: those within the capacity are moved.  Values of a sub-byte format lie from the
low bits of a byte upwards (DESIGN CHOICE, log entry 50: the rule gives their place in bytes only). -/
def State.moveNz (s : State) (cp : Copy) (p : Part) (z a b : Nat) : Moved × State :=
  let r := cp.sh
  let n := min (b - a) (r.inner - min r.inner (a - z))
  let w := fmtBits r.mfmt
  let k := s.copyCtx cp
  match s.engRead k (cp.addr p (r.vstride * 16 + 4 * a)) (4 * n) with
  | (.ok (ix, e1), s) =>
    match s.engRead k (cp.addr p (r.rowstride * 16 + a * w / 8)) ((n * w + a * w % 8 + 7) / 8) with
    | (.ok (vb, e2), s) =>
      let va := vb.toArray
      let xs := (List.range n).map fun j =>
        if 8 ≤ w then memElem r.mfmt va j
        else (bufAt va ((a * w % 8 + j * w) / 8)).map fun x => x.toNat / 2 ^ ((a * w + j * w) % 8) % 2 ^ w
      let q := cvtElems r.mfmt r.vfmt p.rm r.sat xs.toArray
      let vw := fmtBits r.vfmt
      let s := s.copyToVault cp (r.svbase + 4 * (a - z)) ix
      let off := r.svbase + 4 * r.inner + (a - z) * vw / 8
      let d := if 8 ≤ vw then q.1.toList.flatMap (elemBytes (vw / 8))
        else match s.window cp.crew r.vsel with
          | none => []
          | some u => packBits vw (s.vaultSrc u off ((n * vw + (a - z) * vw % 8 + 7) / 8)) (a - z) q.1.toList
      (.done (e1 || e2 || decide (n < b - a)) q.2, s.copyToVault cp off d)
    | (.miss, s) => (.miss, s)
    | (.wait, s) => (.wait, s)
  | (.miss, s) => (.miss, s)
  | (.wait, s) => (.wait, s)

/-- Row `v` of a COPY.CSR (07 R210): both row pointers, then its non-zeros relative to `z`.  A non-zero below `z`, for whose place p − z
the rule gives no slot of the buffers, is not moved and gives an error record (DESIGN CHOICE, log entry 11). -/
def State.moveRow (s : State) (cp : Copy) (p : Part) (v : Nat) : Moved × State :=
  let r := cp.sh
  let k := s.copyCtx cp
  let r0 := (cp.parts.map (·.first)).min?.getD 0
  match (cp.partOf r0).map (·.1) with
  | none => (.done true 0, s)
  | some p0 =>
    match s.engRead k (cp.addr p0 (4 * r0)) 4 with
    | (.ok (zb, _), s) =>
      match s.engRead k (cp.addr p (4 * v)) 8 with
      | (.ok (pb, e), s) =>
        let s := s.copyToVault cp (r.vbase + 4 * v) pb
        match word32 zb, word32 (pb.take 4), word32 (pb.drop 4) with
        | some z, some a, some b =>
          if b < a ∨ (a < b ∧ b ≤ z) then (.done true 0, s)
          else if a = b then (.done e 0, s)
          else
            match s.moveNz cp p z (max a z) b with
            | (.done e2 f, s) => (.done (e || e2 || decide (a < z)) f, s)
            | q => q
        | _, _, _ => (.done true 0, s)
      | (.miss, s) => (.miss, s)
      | (.wait, s) => (.wait, s)
    | (.miss, s) => (.miss, s)
    | (.wait, s) => (.wait, s)

/-- Vector `v` of a COPY.Q as records (07 R214).  Bytes of a line that met an uncorrectable error, which a copy to memory or the vault leaves
unwritten, are sent as 0 (DESIGN CHOICE, log entry 50: a record has no earlier bytes). -/
def State.moveStream (s : State) (cp : Copy) (p : Part) (v : Nat) : Moved × State :=
  let r := cp.sh
  match s.loadVector cp p v with
  | (.ok (e, f, err), s) =>
    let b := (memBytes r.vfmt r.inner e).map fun x => x.getD 0
    let recs := (List.range ((b.length + 63) / 64)).map fun k => BitVec.ofNat 512 (leNat ((b.drop (64 * k)).take 64))
    (.done err f, s.modCopy (copyKey cp.crew cp.id) fun c => { c with recs := recs })
  | (.miss, s) => (.miss, s)
  | (.wait, s) => (.wait, s)

/-- Moves one vector. -/
def State.moveVector (s : State) (cp : Copy) (p : Part) (v : Nat) : Moved × State :=
  match cp.kind with
  | .stream => s.moveStream cp p v
  | .csr => s.moveRow cp p v
  | .dense | .plane => if cp.tomem then s.moveOut cp p v else s.moveIn cp p v

/-! ## Completion -/

/-- A COPY COMPLETES (07 R211 to R213): flags, the error for CPSTAT, one arrival on its NB register; a follow-on is then issued. -/
def State.finishCopy (s : State) (cp : Copy) : State :=
  let key := copyKey cp.crew cp.id
  let s := cp.parts.foldl (fun s p => s.modGang p.gang fun x => x.addFlags p.flags) s
  let s := if cp.err then s.modCrew cp.crew fun cr => { cr with cperr := if cr.cperr.contains cp.h then cr.cperr else cr.cperr ++ [cp.h] }
    else s
  -- its arrival carries the largest timestamp of its gangs (10 R295)
  let k : Know := { pts := s.maxPts cp.gangs, vc := Sparse.set 0 cp.vc cp.iss 1 }
  let s := s.modCrew cp.crew fun cr =>
    { cr with cpDone := Sparse.set {} cr.cpDone cp.h ((Sparse.get {} cr.cpDone cp.h).join k), opsDone := cr.opsDone.join k }
  let r : Rel := { who := s.opIssuer cp.crew, scope := .crew, pts := k.pts, vc := k.vc }
  let s := ((s.arriveNb cp.crew cp.nb [r]).2).retestToks (s.crew cp.crew).core
  if cp.parts.any fun p => p.wants then (s.modCopy key fun c => { c with moved := true }).at (s.now + 1) (.followOnIssue key)
  else s.dropCopy key

/-- COPY_COMPLETE (07 R206 to R212): a started copy moves its next vector; after the last it completes. -/
def execCopyComplete (key : Nat) (s : State) : Host.Outcome State Fault Refusal :=
  match s.copy? key with
  | none => .next s
  | some cp =>
    if !cp.started || cp.moved || !(s.crew cp.crew).here || (s.crew cp.crew).saving != 0 then .next s
    else if !cp.recs.isEmpty then .next (s.at (s.now + 1) (.copyqRecordDelivery key))
    else
      let (ready, s) := if cp.next = 0 then s.copyReady cp else (true, s)
      if !ready then .next (s.at (s.now + 4) (.copyComplete key))
      else if cp.sh.outer ≤ cp.next then
        if s.engOut (.copy cp.crew cp.id) then .next (s.at (s.now + 1) (.copyComplete key)) else .next (s.finishCopy cp)
      else
        match cp.partOf cp.next with
        | none => .next ((s.modCopy key fun c => { c with next := c.next + 1 }).at s.now (.copyComplete key))
        | some (p, k) =>
          match ({ s with extra := 0 } : State).moveVector cp p cp.next with
          | (.done err f, s') =>
            -- bytes of GDDR7, or of the other tower, take longer (08 R252)
            if s'.extra ≠ 0 ∧ !cp.asked then .next ((s.modCopy key fun c => { c with asked := true }).at (s.now + s'.extra) (.copyComplete key))
            else
            let s := ({ s' with fresh := s'.fresh + 1, extra := 0 } : State).modCopy key fun c =>
              { c with next := c.next + 1, err := c.err || err, waits := false, asked := false
                       parts := c.parts.zipIdx.map fun q => if q.2 = k then { q.1 with flags := q.1.flags ||| f } else q.1 }
            .next (s.at (s.now + 4) (.copyComplete key))
          | (.miss, s) => .next (s.modCopy key fun c => { c with waits := true })
          | (.wait, s) => .next (s.at (s.now + 4) (.copyComplete key))

/-- The gang and Q register of a core that are bound to a copy stream; a crew that a borrow has set aside has its own (18 R436). -/
def State.streamQ (s : State) (u stream : Nat) : Option (Nat × Nat) :=
  let cr := s.crew u
  s.gangs.findSome? fun p =>
    if p.2.here && p.2.core == cr.core then
      (p.2.q.find? fun r => r.2.b.kind == 4 && r.2.b.stream == stream && r.2.aside == cr.aside).map fun r => (p.1, r.1)
    else none

/-- COPYQ_RECORD_DELIVERY (07 R214): the next record enters the CPYOUT queue of its stream, or waits for a binding or for room. -/
def execCopyqRecordDelivery (key : Nat) (s : State) : Host.Outcome State Fault Refusal :=
  match s.copy? key with
  | none => .next s
  | some cp =>
    match (if (s.crew cp.crew).here && (s.crew cp.crew).saving == 0 then cp.recs else []) with
    | [] => .next s
    | r :: rs =>
      match s.streamQ cp.crew cp.sh.vsel with
      | none => .next (s.at (s.now + 16) (.copyqRecordDelivery key))
      | some (g, q) =>
        if ((s.gang g).qst q).outRoom = 0 then .next (s.at (s.now + 8) (.copyqRecordDelivery key))
        else
          let s := s.modGang g fun x => x.setQ q { x.qst q with recs := (x.qst q).recs ++ [{ bits := r, due := s.now + 1 }] }
          let s := s.modCopy key fun c => { c with recs := rs }
          .next (s.at (s.now + 1) (if rs.isEmpty then .copyComplete key else .copyqRecordDelivery key))

end Sys2Proof.Machine
end

