-- ==== Sys2Proof/Machine/System.lean ====
section
/-! DEFINITION. System words (07 R230 to R234) besides HALT. -/

namespace Sys2Proof.Machine

open Sys2Proof

/-! ## Status registers (07 R230) -/

/-- The contents of a status register. -/
def State.status (s : State) (g : Nat) (n : Nat) : DWord :=
  let x := s.gang g
  match n with
  | 0 => x.mode.setWidth 64
  | 1 => x.flags.setWidth 64
  | 2 => x.mstat
  | 3 => x.tstat
  | 4 => x.tpc.setWidth 64
  | 5 => (x.tpc >>> 64).setWidth 64
  | 6 => x.tmask
  | 7 => (s.crew x.crew).adtab
  | 8 => (s.crew x.crew).adcfg
  | _ => (s.ten x.tenant).dbgctl &&& 1

/-- The youngest matrix instruction in flight that gang `g` has issued (01 R26, R27). -/
def State.youngest (s : State) (g : Nat) : Option MInst :=
  ((s.core (s.gang g).core).minsts.filter fun m => m.gangs.contains g).getLast?

/-- RDSR (07 R230): MODE, FLAGS and an MSTAT at rest have latency 2; an MSTAT in flight arrives with its instruction, be it a
follow-on that is still to be issued (01 R26, R27; 07 R213); the
others arrive in bounded time (01 R477). -/
def execRdsr (d : SReg) (n : BitVec 16) (s : State) : Host.Outcome State Fault Refusal :=
  s.runWord (.rdsr d n) fun c =>
    let v := s.status c.gang n.toNat
    let later (x y : Nat) : State :=
      s.addOp c.gang (fun t => { tag := t, pc := c.pc, slot := c.slot, i := .rdsr d n, lanes := BitVec.allOnes 64, logged := true
                                 x := BitVec.ofNat 64 x, y := BitVec.ofNat 64 y }) [.s d.val] (BitVec.allOnes 64)
    match n.toNat, s.pendingFollow c.gang, s.youngest c.gang with
    | 0, _, _ => s.emit c.gang 2 [.s d.val v]
    | 1, _, _ => s.emit c.gang 2 [.s d.val v]
    | 2, some k, _ => later k 2
    | 2, none, none => s.emit c.gang 2 [.s d.val v]
    | 2, none, some m => later m.id 0
    | _, _, _ => s.owe c (.rdsr d n) [.s d.val] [.s d.val v]

/-- Bits of MODE and FLAGS that WRSR writes (01 R21, R24). -/
def modeMask : Word := 0x7F1F
def flagsMask : Word := 0x7F

/-- Is an entry one that an ADINV of this ADID names? ADID 0 names all (07 R226). -/
def AdEntry.named (e : AdEntry) (adid : Nat) : Bool := adid == 0 || e.adid == adid

/-- Cached adapter entries go once every matrix instruction accepted so far has completed, and later instructions do not use them
(07 R225, R226). -/
def Core.dropAdapters (c : Core) (adid : Nat) : Core :=
  if c.minsts.isEmpty then { c with adcache := c.adcache.filter fun e => !e.named adid }
  else
    { c with adinv := c.adinv ++ [(c.nextInst, adid)]
             adcache := c.adcache.map fun e => if e.named adid && e.lim.isNone then { e with lim := some c.nextInst } else e }

/-- The same for a crew: the cache of a core holds the entries of the crew that owns its tokens, which alone runs matrix instructions
(01 R20); another crew has none. -/
def State.dropAdapters (s : State) (u adid : Nat) : State :=
  let c := (s.crew u).core
  if (s.core c).tokOwner = some u then s.modCore c fun k => k.dropAdapters adid else s

/-- Is a value of ADCFG accepted (07 R225)? -/
def adcfgOk (w : DWord) : Bool := decide (bits w 32 5 ≤ 16) && bits w 0 32 % 65536 == 0

/-- WRSR (07 R230): MODE and FLAGS take effect after 2 cycles (01 R23); ADTAB and ADCFG for matrix instructions accepted later. -/
def execWrsr (n : BitVec 16) (src : Src) (s : State) : Host.Outcome State Fault Refusal :=
  s.runWord (.wrsr n src) fun c =>
    let w := s.readS c src
    let u := (s.gang c.gang).crew
    match n.toNat with
    | 0 => s.emit c.gang 2 [.mode (w.setWidth 32 &&& modeMask)]
    | 1 => s.emit c.gang 2 [.flags (w.setWidth 32 &&& flagsMask)]
    | 7 => (s.modCrew u fun cr => { cr with adtab := w }).dropAdapters u 0
    | 8 =>
      let w := w &&& BitVec.ofNat 64 (2 ^ 37 - 1)
      if adcfgOk w then (s.modCrew u fun cr => { cr with adcfg := w }).dropAdapters u 0
      else s
    | _ => s

/-! ## Stops (07 R232) -/

/-- TRAP: the gang stops for system software at its next packet.  TMASK is written as 0 there, as for the traps with no lane mask (DESIGN CHOICE,
log entry 51: 07 R231 gives a service stop none). -/
def execTrap (code : BitVec 16) (s : State) : Host.Outcome State Fault Refusal :=
  s.runWord (.trap code) fun c =>
    s.modGang c.gang fun x =>
      { x with trapNext := some (({ cause := 14, slot := c.slot, code := code.toNat } : Trap).tstat, 0) }

/-- BRKPT that reaches issue acts as NOP: its trap is taken before its packet issues (State.enterPacket), once a stop. -/
def execBrkpt (code : BitVec 16) (s : State) : Host.Outcome State Fault Refusal := s.runWord (.brkpt code) fun _ => s

/-- DBGMARK (07 R232): while TRACE is 1 a trace entry of this cycle, which is written once its gang's earlier accesses are performed, for it is a
release at HOST scope (19 R444); no architectural effect. -/
def execDbgmark (code : BitVec 16) (s : State) : Host.Outcome State Fault Refusal :=
  s.runWord (.dbgmark code) fun c =>
    if (s.ten (s.gang c.gang).tenant).dbgctl.getLsbD 1 then s.issueSync c (.dbgmark code) [] (BitVec.ofNat 64 s.now) else s

/-- END (07 R234): every slice of the gang ends after the packet, as by EXIT. -/
def execEndGang (s : State) : Host.Outcome State Fault Refusal :=
  s.runWord .endGang fun c => { s with cur := some { c with fin := true } }

/-- SLEEP (07 R234): the gang is not ready for min(a, 65,535) cycles after issue. -/
def execSleep (a : Src) (s : State) : Host.Outcome State Fault Refusal :=
  s.runWord (.sleep a) fun c =>
    let n := min (bits (s.readS c a) 0 32) 65535
    (s.modGang c.gang fun x => { x with notBefore := max x.notBefore (s.now + n + 1) }).at (s.now + n + 1) (.sleepExpiry c.gang)

/-- SLEEP_EXPIRY: the wait is over, and the gang is ready again. -/
def execSleepExpiry (g : Nat) (s : State) : Host.Outcome State Fault Refusal :=
  let x := s.gang g
  if 0 < x.notBefore ∧ x.notBefore ≤ s.now then .next (s.modGang g fun x => { x with notBefore := 0 }) else .next s

/-- An item of GETINFO (07 R234). -/
def State.info (s : State) (g item : Nat) : DWord :=
  let x := s.gang g
  let cr := s.crew x.crew
  match item with
  | 0 => 1
  | 1 => 0x8400
  | 2 => Config.stepping.setWidth 64
  | 3 => pack [(0, towerOf x.core), (1, coreIn x.core / Config.gridCols), (4, coreIn x.core % Config.gridCols), (8, x.quarter)]
  | 4 => BitVec.ofNat 64 cr.pos
  | 5 => BitVec.ofNat 64 cr.wsize
  | 6 => BitVec.ofNat 64 x.width
  | 7 => BitVec.ofNat 64 x.nv
  | 8 => BitVec.ofNat 64 x.tenant
  | _ => 0

/-- GETINFO (07 R234), in bounded time (01 R477). -/
def execGetinfo (d : SReg) (a : Src) (s : State) : Host.Outcome State Fault Refusal :=
  s.runWord (.getinfo d a) fun c =>
    s.owe c (.getinfo d a) [.s d.val] [.s d.val (s.info c.gang (bits (s.readS c a) 0 8))]

end Sys2Proof.Machine
end

