-- ==== Sys2Proof/Machine/Adapter.lean ====
section
/-! DEFINITION. The adapter cache (07 R220, R225, R226; 11 R316 to R320, R323 to R325): descriptors, entries, what the rows of a pass need,
and fills. -/

namespace Sys2Proof.Machine

open Sys2Proof

/-! ## Instructions and their blocks -/

/-- K-blocks of a matrix instruction, its N and its K (07 R216). -/
def MInst.nkb (m : MInst) : Nat := m.b.nkb
def MInst.ncols (m : MInst) : Nat := m.b.outer
def MInst.depthK (m : MInst) : Nat := m.b.inner
/-- SIZE of the adapter cache that it was accepted with (07 R225). -/
def MInst.adSize (m : MInst) : Nat := bits m.adcfg 32 5
/-- TIDX of an MMA.AD (11 R316). -/
def MInst.tidx (m : MInst) : Nat := bits m.sv 40 12
/-- ADID of a row (07 R220); 0 for other words. -/
def MInst.adid (m : MInst) (row : Nat) : Nat := (m.adids[row]?).getD 0 % 4096
/-- Is it an MMA.AD? -/
def MInst.isAd (m : MInst) : Bool := m.i matches .mmaAd ..

/-- A matrix instruction of a core by its number. -/
def Core.minst? (c : Core) (id : Nat) : Option MInst := c.minsts.find? fun m => m.id == id
/-- Changes a matrix instruction. -/
def Core.modMinst (c : Core) (id : Nat) (f : MInst → MInst) : Core :=
  { c with minsts := c.minsts.map fun m => if m.id = id then f m else m }

/-! ## Entries -/

/-- The entry with a tag that instruction `m` may use (11 R319; 07 R226). -/
def Core.entry? (c : Core) (m : MInst) (adid : Nat) (kb : Option Nat) : Option AdEntry :=
  c.adcache.find? fun e => e.adid == adid && e.tidx == m.tidx && e.kb == kb && (e.lim.all fun l => decide (m.id < l))

/-- Is the descriptor of a B entry usable for an instruction (11 R318)? -/
def AdEntry.usableFor (e : AdEntry) (m : MInst) : Bool :=
  e.usable && decide (m.depthK ≤ e.akb * 128) && decide (m.ncols ≤ e.ncol)

/-- Does a row take part in the adapter term at all (07 R220; 11 R325)? -/
def MInst.wantsTerm (m : MInst) (row : Nat) : Bool :=
  m.isAd && m.adid row != 0 && m.adSize != 0 && !m.plain.contains row

/-- The entries that a row's pass over blocks `q` to `q + n - 1` lacks (11 R319, R323): the B entry first, which says whether the A
entries are needed. -/
def Core.lacks (c : Core) (m : MInst) (row q n : Nat) : List (Option Nat) :=
  if !m.wantsTerm row then []
  else
    match c.entry? m (m.adid row) none with
    | none => [none]
    | some e =>
      if !e.usableFor m then []
      else ((List.range n).map fun j => some (q + j)).filter fun kb => (c.entry? m (m.adid row) kb).isNone

/-- The entries that rows use in a pass. -/
def Core.passEntries (c : Core) (m : MInst) (rows : List Nat) (q n : Nat) : List AdEntry :=
  (((rows.filter m.wantsTerm).map m.adid).dedup).flatMap fun a =>
    (none :: (List.range n).map fun j => some (q + j)).filterMap (c.entry? m a)

/-- The B entry whose term a row takes in a pass, none where it takes no term (11 R318, R321). -/
def Pass.termOf (p : Pass) (m : MInst) (row : Nat) : Option AdEntry :=
  if !m.wantsTerm row then none
  else (p.ents.find? fun e => e.adid == m.adid row && e.kb.isNone).filter fun e => e.usableFor m

/-- Blocks of the next pass from block `q` at depth `d` (02 R70). -/
def MInst.passLen (m : MInst) (q d : Nat) : Nat := min d (m.nkb - q)

/-- The deferred rows whose next block is the lowest, in ascending order (11 R324). -/
def MInst.frontRows (m : MInst) : List (Nat × Nat) :=
  let lo := (m.defer.map (·.2)).min?.getD 0
  orderBy (fun a b => decide (a.1 ≤ b.1)) (m.defer.filter fun p => p.2 == lo)

/-- The depth in force on a core with its present layers: 3 with ORD (02 R70). -/
def Core.depthOf (c : Core) (m : MInst) : Nat := if m.ord then 3 else (c.layers.filter fun l => l == .active).length

/-- The entries that an instruction holds for a replay (11 R324): those of its lowest-numbered deferred row, taken among the rows that
are due first (DEDUCED, log entry 12). -/
def Core.heldFor (c : Core) (m : MInst) : List AdEntry :=
  match m.frontRows.head? with
  | none => []
  | some r => c.passEntries m [r.1] r.2 (m.passLen r.2 (c.depthOf m))

/-- The entries that stay in their frames (11 R319, R324): those of the pass in progress, and those that the instructions `ms` hold for
a replay. -/
def Core.pinned (c : Core) (ms : List MInst) : List AdEntry :=
  ((c.pass.map fun p => p.ents).getD []) ++ ms.flatMap c.heldFor

/-- The least recently used frame of a cache of `size` units that holds none of some entries. -/
def Core.lruFrame (c : Core) (size : Nat) (pinned : List AdEntry) : Option Nat :=
  let fixed := pinned.filterMap (·.frame)
  match c.adcache.filter fun e => e.frame.isSome && !(e.frame.any fixed.contains) && e.frame.any fun f => decide (f < 4 * size) with
  | [] => none
  | e :: r => (r.foldl (fun b x => if x.used < b.used then x else b) e).frame

/-- The frame that a fill for instruction `m` takes (11 R319): a free one, else the least recently used of those that no pass and no
replay holds, else of those that only a replay of a younger instruction holds (DEDUCED from the bound of R324, log entry 12). -/
def Core.frameFor (c : Core) (m : MInst) : Option Nat :=
  let used := c.adcache.filterMap (·.frame)
  match (List.range (4 * m.adSize)).find? fun f => !used.contains f with
  | some f => some f
  | none =>
    match c.lruFrame m.adSize (c.pinned c.minsts) with
    | some f => some f
    | none => c.lruFrame m.adSize (c.pinned (c.minsts.filter fun k => decide (k.id ≤ m.id)))

/-! ## Fills -/

/-- Wants of the rows of an instruction, in the order in which they are requested (11 R319, R323). -/
def Core.wants (c : Core) (m : MInst) (depth : Nat) : List (Nat × Option Nat) :=
  let rep := (orderBy (fun a b => decide (a.1 ≤ b.1)) m.defer).flatMap fun r => (c.lacks m r.1 r.2 (m.passLen r.2 depth)).map fun k => (m.adid r.1, k)
  let start := match c.pass with
    | some p => if p.inst == m.id && !p.replay then p.first + p.n else m.next
    | none => m.next
  let main := if m.swept ∨ m.nkb ≤ start then [] else
    ((List.range m.m).filter fun r => !(m.defer.any fun d => d.1 == r)).flatMap fun r =>
      (c.lacks m r start (m.passLen start depth)).map fun k => (m.adid r, k)
  (rep ++ main).dedup

/-- The wanted entries for which no fill is under way. -/
def Core.unasked (c : Core) (m : MInst) (depth : Nat) : List (Nat × Option Nat) :=
  if !m.isAd then []
  else (c.wants m depth).filter fun w =>
    !(c.fills.any fun f => f.adid == w.1 && f.kb == w.2 && f.tidx == m.tidx && f.inst == m.id)

/-- Requests the fills that an instruction's rows want. -/
def State.requestFills (s : State) (core depth : Nat) (m : MInst) : State :=
  if !m.isAd then s
  else
    let c := s.core core
    let new := c.unasked m depth
    if new.isEmpty then s
    else
      let fs : List AdFill := new.map fun w => { adid := w.1, tidx := m.tidx, kb := w.2, inst := m.id, crew := m.crew }
      let s := s.modCore core fun c => { c with fills := c.fills ++ fs }
      s.later Config.latHome (.adapterFillComplete core 0)

/-- Reads several ranges; some bytes of a range may be missing. -/
def State.engReadMany (s : State) (k : EngCtx) : List (Nat × Nat) → EngRes (List (List (Option Byte))) × State
  | [] => (.ok [], s)
  | (va, n) :: r =>
    match s.engRead k va n with
    | (.ok (b, _), s) =>
      match s.engReadMany k r with
      | (.ok l, s) => (.ok (b :: l), s)
      | (.miss, s) => (.miss, s)
      | (.wait, s) => (.wait, s)
    | (.miss, s) => (.miss, s)
    | (.wait, s) => (.wait, s)

/-- The bytes of ranges, if none is missing. -/
def wholeBytes (l : List (List (Option Byte))) : Option (List (List Byte)) :=
  if l.all fun b => b.all Option.isSome then some (l.map fun b => b.filterMap id) else none

/-- Address of a descriptor (11 R316). -/
def MInst.descAddr (m : MInst) (adid : Nat) : Nat := (m.adtab.toNat * 65536 + 262144 * m.tidx + 64 * adid) % 2 ^ 80

/-- A descriptor as an entry (11 R316, R318). -/
def descEntry (adid tidx : Nat) (b : List Byte) : AdEntry × Nat × Nat :=
  let d (k : Nat) : DWord := BitVec.ofNat 64 (leNat ((b.drop (8 * k)).take 8))
  let af := bits (d 1) 0 16 * 2 ^ 64 + (d 0).toNat
  let bf := bits (d 3) 0 16 * 2 ^ 64 + (d 2).toNat
  let asc := bits (d 7) 0 16 * 2 ^ 64 + (d 5).toNat
  let bsc := bits (d 7) 16 16 * 2 ^ 64 + (d 6).toNat
  let akb := bits (d 7) 32 6
  let ncol := bits (d 3) 16 8
  ({ frame := none, adid := adid, tidx := tidx, kb := none
     usable := (d 1).getLsbD 31 && decide (1 ≤ akb) && decide (akb ≤ 32) && decide (1 ≤ ncol) && decide (ncol ≤ 128) &&
       af % 128 == 0 && bf % 128 == 0 && asc % 8 == 0 && bsc % 8 == 0
     rank := 8 * 2 ^ bits (d 1) 20 2, e5m2 := (d 1).getLsbD 27, ncol := ncol, akb := akb, alpha := bits (d 4) 0 32
     af := af, asc := asc }, bf, bsc)

/-- Entry `k` of a packed array of S20 scales, from the word that holds it (02 R63). -/
def s20Of (w : DWord) (k : Nat) : Nat := bits w (20 * (k % 3)) 20

/-- The word of a list of 8 bytes. -/
def word64 (b : List Byte) : DWord := BitVec.ofNat 64 (leNat b)

/-- What a fill reads: an entry without its frame, none where bytes are missing. -/
def State.fillRead (s : State) (k : EngCtx) (m : MInst) (f : AdFill) (b? : Option AdEntry) : EngRes (Option AdEntry) × State :=
  match f.kb, b? with
  | some kb, some b =>
    let cols := (List.range b.rank).map fun c => ((b.af + 128 * (c * b.akb + kb)) % 2 ^ 80, 128)
    let scs := (List.range b.rank).map fun c => ((b.asc + 8 * ((c * b.akb + kb) / 3)) % 2 ^ 80, 8)
    (match s.engReadMany k (cols ++ scs) with
     | (.ok l, s) =>
       (.ok ((wholeBytes l).map fun l =>
         { b with kb := some kb, bytes := (l.take b.rank).flatten
                  scales := ((l.drop b.rank).zipIdx).map fun p => s20Of (word64 p.1) (p.2 * b.akb + kb) }), s)
     | (.miss, s) => (.miss, s)
     | (.wait, s) => (.wait, s))
  | some _, none => (.ok none, s)
  | none, _ =>
    match s.engReadMany k [(m.descAddr f.adid, 64)] with
    | (.ok l, s) =>
      (match wholeBytes l with
       | none => (.ok none, s)
       | some d =>
         let (e, bf, bsc) := descEntry f.adid f.tidx (d.headD [])
         if !e.usable then (.ok (some e), s)
         else
           let cols := (List.range e.ncol).map fun j => ((bf + 64 * j) % 2 ^ 80, e.rank)
           let scs := (List.range ((e.ncol + 2) / 3)).map fun w => ((bsc + 8 * w) % 2 ^ 80, 8)
           match s.engReadMany k (cols ++ scs) with
           | (.ok l, s) =>
             (.ok ((wholeBytes l).map fun l =>
               let ws := (l.drop e.ncol).map word64
               { e with bytes := (l.take e.ncol).flatten
                        scales := (List.range e.ncol).map fun j => s20Of ((ws[j / 3]?).getD 0) j }), s)
           | (.miss, s) => (.miss, s)
           | (.wait, s) => (.wait, s))
    | (.miss, s) => (.miss, s)
    | (.wait, s) => (.wait, s)

/-- A fill that failed (11 R325): rows that wait for its entry go on without their term, and their instruction reports an error. -/
def Core.fillFailed (c : Core) (f : AdFill) (depth : Nat) : Core :=
  { c with minsts := c.minsts.map fun m =>
      if !m.isAd || m.tidx != f.tidx then m
      else
        let rows := (m.defer.filter fun r => m.adid r.1 == f.adid && (c.lacks m r.1 r.2 (m.passLen r.2 depth)).contains f.kb).map (·.1)
        if rows.isEmpty then m else { m with plain := m.plain ++ rows, err := true } }

/-- Bytes from key `lo` upwards take the place of those that stand there. -/
def spliceBytes (m : Sparse Byte) (lo : Nat) (bs : List Byte) : Sparse Byte :=
  m.filter (fun p => decide (p.1 < lo)) ++ ((bs.zipIdx.filter fun p => p.1 != 0).map fun p => (lo + p.2, p.1)) ++
    m.filter fun p => decide (lo + bs.length ≤ p.1)

/-- A FILL WRITES its frame at a window offset: its granules become valid, and what its bytes hold from then on is not part of the
contract (11 R478), so they are free. -/
def State.openFrame (s : State) (u off : Nat) : State :=
  let cr := s.crew u
  let bs := (List.range 16384).map fun k => (Config.freeWord (s.fresh + k)).setWidth 8
  let s := s.modCore cr.core fun c => { c with vault := spliceBytes c.vault (16384 * cr.vbase + off) bs }
  let s := s.setCrew u { cr with gran := (List.range 32).foldl (fun m j => Sparse.set false m (off / 512 + j) true) cr.gran }
  { s with fresh := s.fresh + 16384 }

/-- An entry lands in its frame (11 R319); an instruction accepted after an ADINV does not use the entries of earlier ones. -/
def State.landEntry (s : State) (core : Nat) (m : MInst) (f : AdFill) (e : AdEntry) : State :=
  let c := s.core core
  let lim := ((c.adinv.filter fun a => decide (m.id < a.1) && (a.2 == 0 || a.2 == e.adid)).map (·.1)).min?
  let keep (frame : Option Nat) : List AdEntry := c.adcache.filter fun x => !(frame.isSome && x.frame == frame)
  let drop (x : AdFill) : Bool := x.adid == f.adid && x.tidx == f.tidx && x.kb == f.kb && x.inst == f.inst
  let fills := c.fills.filter fun x => !drop x
  if !e.usable then
    s.setCore core { c with fills := fills, adcache := c.adcache ++ [{ e with lim := lim, used := s.now }] }
  else
    match c.frameFor m with
    | none => s.setCore core { c with fills := c.fills.map fun x => if drop x then { x with room := true } else x }
    | some fr =>
      let off := bits m.adcfg 0 32 + 16384 * fr
      (s.setCore core { c with fills := fills
                               adcache := keep (some fr) ++ [{ e with frame := some fr, off := off, lim := lim, used := s.now }] }).openFrame m.crew off

/-- Is a fill to be tried now: it waits neither for a translation nor for a frame? -/
def AdFill.tries (f : AdFill) : Bool := !f.waits && !f.room

/-- A pass boundary: the fills that wait for a frame are tried again (11 R319). -/
def State.passBoundary (s : State) (core : Nat) : State :=
  if (s.core core).fills.any (·.room) then
    (s.modCore core fun c => { c with fills := c.fills.map fun f => { f with room := false } }).at s.now (.adapterFillComplete core 0)
  else s

/-- The bytes of a fill have been asked for. -/
def State.asked (s : State) (core : Nat) (f : AdFill) (t : Nat) : State :=
  s.modCore core fun c => { c with fills := c.fills.map fun x => if x = f then { x with lands := some t } else x }

/-- ADAPTER_FILL_COMPLETE (11 R319, R323, R325): fill `n` of a core reads its descriptor and factors and lands in a frame. -/
def execAdapterFillComplete (core n : Nat) (s : State) : Host.Outcome State Fault Refusal :=
  let c := s.core core
  match (c.fills.filter AdFill.tries)[n]? with
  | none => .next s
  | some f =>
    let gone := s.setCore core { c with fills := c.fills.filter fun x => x != f }
    -- the fills after it have their turn
    let again (s : State) : State := if (c.fills.filter AdFill.tries).length ≤ 1 then s else s.at (s.now + 1) (.adapterFillComplete core 0)
    match c.minst? f.inst with
    | none => .next (again gone)
    | some m =>
      if (c.entry? m f.adid f.kb).isSome then .next (again gone)
      else
        let k : EngCtx := { core := core, tenant := (s.crew m.crew).tenant, who := .fill core, refused := f.refused }
        match ({ s with extra := 0 } : State).fillRead k m f (c.entry? m f.adid none) with
        | (.ok none, s) =>
          let s := if f.kb.isSome && (c.entry? m f.adid none).isNone then s else s.modCore core fun c => c.fillFailed f (c.depthOf m)
          .next (again (s.modCore core fun c => { c with fills := c.fills.filter fun x => x != f }))
        | (.ok (some e), s') =>
          -- bytes of GDDR7, or of the other tower, take longer (08 R252)
          let t := f.lands.getD (s.now + s'.extra)
          if s.now < t then .next (again (s.asked core f t |>.at t (.adapterFillComplete core n)))
          else
          let s := ({ s' with extra := 0 } : State).landEntry core m f e
          .next (again (s.requestFills core ((s.core core).depthOf m) m))
        | (.miss, s) => .next (again (s.modCore core fun c => { c with fills := c.fills.map fun x => if x = f then { x with waits := true } else x }))
        | (.wait, s) => .next (s.at (s.now + 4) (.adapterFillComplete core n))

end Sys2Proof.Machine
end

