-- ==== Sys2Proof/Machine/Matrix.lean ====
section
/-! DEFINITION. The matrix engine (02 R62 to R73; 07 R216 to R226; 11 R305 to R326): acceptance, passes, layers, sums, MSTAT, and the
token and accumulator words. -/

namespace Sys2Proof.Machine

open Sys2Proof

/-! ## Sums (02 R62, R66 to R70) -/

/-- An S20 scale widened to FP32 (02 R62). -/
def s20Wide (x : Nat) : Nat :=
  let e := x / 4096 % 256
  if e = 0 then 0 else if e = 255 then 0x7FC00000 else e * 2 ^ 23 + x % 4096 * 2 ^ 11

/-- An exact sum of products (02 R69): a NaN with its IV, an infinity, or `v × 2 ^ e`. -/
inductive ESum where
  | nan (iv : Bool)
  | inf (neg : Bool)
  | fin (v e : Int)
  deriving DecidableEq, Repr

/-- The exact sum of products of two lists of values (02 R68, R69; 11 R322). -/
def exactSum (a b : List FNum) : ESum :=
  let ps := List.zipWith FNum.mul a b
  let infs := ps.filterMap fun p => match p with
    | some (.inf n) => some n
    | _ => none
  let iv := (ps.any fun p => p.isNone) || (infs.contains true && infs.contains false)
  if iv || ps.any (fun p => (p.map FNum.isNan).getD false) then .nan iv
  else match infs with
    | n :: _ => .inf n
    | [] =>
      let t := sumTerms (ps.filterMap fun p => match p with
        | some (.fin s m e) => if m = 0 then none else some (s, m, e)
        | _ => none)
      .fin t.1 t.2

/-- A sum times two FP32 scales with one rounding (02 R68, R69; 11 R321): no value is −0.  A scale that is a signalling NaN sets no IV:
02 R53 and R57 could be read to set it, R69 gives a NaN scale no flag (DESIGN CHOICE, log entry 13). -/
def scaledRound (rm : Nat) (p : ESum) (x y : Nat) : Nat × BitVec 7 :=
  let a := fF32.read x
  let b := fF32.read y
  let scale := a.mul b
  match p with
  | .nan iv => (fF32.nan, ivIf iv)
  | .inf n =>
    if a.isNan || b.isNan then (fF32.nan, 0)
    else match scale with
      | none => (fF32.nan, flIV)
      | some (.fin s m _) => if m = 0 then (fF32.nan, flIV) else (fF32.signed (n != s) 0x7F800000, 0)
      | some (.inf s) => (fF32.signed (n != s) 0x7F800000, 0)
      | some (.nan _) => (fF32.nan, 0)
  | .fin v e =>
    if a.isNan || b.isNan then (fF32.nan, 0)
    else match scale with
      | none => (fF32.nan, flIV)
      | some (.inf s) => if v = 0 then (fF32.nan, flIV) else (fF32.signed (decide (v < 0) != s) 0x7F800000, 0)
      | some (.nan _) => (fF32.nan, 0)
      | some (.fin s m k) =>
        if v = 0 ∨ m = 0 then (0, 0)
        else
          let r := fF32.round rm false false (decide (v < 0) != s) (v.natAbs * m) (e + k) false
          (if r.1 = 2 ^ 31 then 0 else r.1, r.2)

/-- x + y in FP32; the engine ignores FTZ (02 R72). -/
def addF32 (rm x y : Nat) : Nat × BitVec 7 := fF32.add rm false false (fF32.read x) (fF32.read y)

/-- Block values folded in their order, each addition rounded (02 R70), with the flags. -/
def foldBlocks (rm : Nat) : List (Nat × BitVec 7) → Nat × BitVec 7
  | [] => (0, 0)
  | v :: r => r.foldl (fun s v => let q := addF32 rm s.1 v.1
                                  (q.1, s.2 ||| v.2 ||| q.2)) v

/-! ## Operands (02 R65 to R67; 11 R311, R312) -/

/-- An operand element as a value, with the planes of a reduced mantissa read as 0 (02 R66). -/
def elemNum (code mant x : Nat) : FNum :=
  match code with
  | 11 => fE4M3.read (x / 2 ^ mant * 2 ^ mant)
  | 12 => fE5M2.read (x / 2 ^ mant * 2 ^ mant)
  | _ => fE2M1.read x

/-- An integer operand element (02 R51, R65). -/
def elemInt (code x : Nat) : Int :=
  match code with
  | 14 => (BitVec.ofNat 4 x).toInt
  | 15 => (BitVec.ofNat 2 x).toInt
  | 16 => 1 - 2 * ((x % 2 : Nat) : Int)
  | _ => (BitVec.ofNat 8 x).toInt

/-- Bytes of a window as the engine reads them; a byte of an SRAM word with an uncorrectable error is a free value. -/
def State.mtxBytes (s : State) (u off n : Nat) : List Byte :=
  let cr := s.crew u
  let bad := (s.core cr.core).badVault
  (List.range n).map fun k =>
    if bad.contains ((16384 * cr.vbase + off + k) / 8) then (Config.freeWord (s.fresh + off + k)).setWidth 8 else s.farByte u (off + k)

/-- The element codes of row-block `(v, kb)` of an operand, those at or above K left out (02 R65, R67; 07 R205). -/
def State.rowBlock (s : State) (u : Nat) (r : Shape) (v kb : Nat) : List Nat :=
  match s.window u r.vsel with
  | none => []
  | some w =>
    let b := ((s.mtxBytes w (r.blockOff v kb) (16 * fmtBits r.vfmt)).map some).toArray
    (List.range (min 128 (r.inner - 128 * kb))).map fun k => (planeElem r.vfmt b k).getD 0

/-- Scale `k` of an operand as FP32 (07 R205; 11 R312). -/
def State.scaleOf (s : State) (u : Nat) (r : Shape) (k : Nat) : Nat :=
  match r.sfmt, s.window u r.vsel with
  | 1, some w => leNat (s.mtxBytes w (r.svbase + 4 * k) 4)
  | 2, some w => s20Wide (s20Of (word64 (s.mtxBytes w (r.svbase + 8 * (k / 3)) 8)) k)
  | _, _ => 0x3F800000

/-- The A element codes of a row and block: from the vault, or from the records of an MMA.Q, which start at block `q`
(07 R221). -/
def State.aCodes (s : State) (m : MInst) (q row kb : Nat) : List Nat :=
  match m.i with
  | .mmaQ .. =>
    let rec1 (h : Nat) : List Nat := (leBytes 64 (((m.staged[2 * ((kb - q) * m.m + row) + h]?).getD 0)).toNat).map (·.toNat)
    (rec1 0 ++ rec1 1).take (m.depthK - 128 * kb)
  | _ => s.rowBlock m.crew m.a row kb

/-- The scale of an A row's block. -/
def State.aScale (s : State) (m : MInst) (row kb : Nat) : Nat :=
  match m.i with
  | .mmaQ .. => 0x3F800000
  | _ => s.scaleOf m.crew m.a (row * m.nkb + kb)

/-- Do the planes that a pass reads of its operands touch an SRAM word with an uncorrectable error (20 R466; 11 R311)? The first offset
that does. -/
def State.badOperand (s : State) (m : MInst) (p : Pass) : Option Nat :=
  let look (r : Shape) (mant : Nat) (rs : List Nat) : List Nat :=
    match s.window m.crew r.vsel with
    | none => []
    | some w =>
      let cr := s.crew w
      let bad := (s.core cr.core).badVault
      if bad.isEmpty then []
      else rs.flatMap fun v => (List.range p.n).flatMap fun j =>
        ((List.range (16 * fmtBits r.vfmt)).drop (16 * mant)).filterMap fun k =>
          if bad.contains ((16384 * cr.vbase + r.blockOff v (p.first + j) + k) / 8) then some (r.blockOff v (p.first + j) + k) else none
  ((if isMma m.i && !(m.i matches .mmaQ ..) then look m.a m.mant p.rows else []) ++ look m.b m.b.mant (List.range m.ncols)).head?

/-! ## The result of a pass -/

/-- The element of an accumulator set. -/
def accKey (t row col : Nat) : Nat := t * 8192 + row * 128 + col

/-- The adapter term's T of a row (11 R321): one value for each column of the A factor, with the flags. -/
def adapterT (m : MInst) (p : Pass) (b : AdEntry) (a : List (List FNum)) (sa : List Nat) : List Nat × BitVec 7 :=
  let f := if b.e5m2 then fE5M2 else fE4M3
  let r := (List.range b.rank).map fun c =>
    foldBlocks m.rm ((List.range p.n).map fun j =>
      match p.ents.find? fun e => e.adid == b.adid && e.kb == some (p.first + j) with
      | none => (0, 0)
      | some e =>
        let col := ((e.bytes.drop (128 * c)).take 128).map fun x => f.read x.toNat
        scaledRound m.rm (exactSum ((a[j]?).getD []) col) ((sa[j]?).getD 0) (s20Wide ((e.scales[c]?).getD 0)))
  (r.map (·.1), r.foldl (fun x y => x ||| y.2) 0)

/-- The adapter term of a column (11 R321). -/
def adapterTerm (m : MInst) (b : AdEntry) (t : List Nat) (j : Nat) : Nat × BitVec 7 :=
  let f := if b.e5m2 then fE5M2 else fE4M3
  let col := ((b.bytes.drop (b.rank * j)).take b.rank).map fun x => f.read x.toNat
  scaledRound m.rm (exactSum (t.map fF32.read) col) b.alpha (s20Wide ((b.scales[j]?).getD 0))

/-- The elements of a block with those at or above K as zero, as the adapter unit reads them (11 R321). -/
def padBlock (l : List FNum) : List FNum := l ++ List.replicate (128 - l.length) (fE4M3.read 0)

/-- A row of a floating pass (02 R68 to R70; 11 R321): its new elements with the flags. -/
def State.floatRow (s : State) (m : MInst) (p : Pass) (bs : Array (List (List FNum))) (row : Nat) : List (Nat × Nat) × BitVec 7 :=
  let c := s.core (s.crew m.crew).core
  let kbs := (List.range p.n).map fun j => p.first + j
  let a := kbs.map fun kb => (s.aCodes m p.first row kb).map (elemNum m.fmt m.mant)
  let sa := (p.sa.lookup row).getD []
  let ad := p.termOf m row
  let t := match ad with
    | some b => adapterT m p b (a.map padBlock) sa
    | none => ([], 0)
  let one (j : Nat) : (Nat × Nat) × BitVec 7 :=
    let b := (bs[j]?).getD []
    let vs := (List.range p.n).map fun k =>
      scaledRound m.rm (exactSum ((a[k]?).getD []) ((b[k]?).getD [])) ((sa[k]?).getD 0) ((p.sb[k]?).getD 0)
    let v := foldBlocks m.rm vs
    let key := accKey m.tok row j
    let x := addF32 m.rm (Sparse.get 0 c.acc key).toNat v.1
    match ad with
    | none => ((key, x.1), v.2 ||| x.2)
    | some e =>
      let y := adapterTerm m e t.1 j
      let z := addF32 m.rm x.1 y.1
      ((key, z.1), v.2 ||| x.2 ||| y.2 ||| z.2)
  let r := (List.range m.ncols).map one
  (r.map (·.1), r.foldl (fun f x => f ||| x.2) t.2)

/-- A row of an integer pass (02 R73). -/
def State.intRow (s : State) (m : MInst) (p : Pass) (bs : Array (List (List Int))) (row : Nat) : List (Nat × Nat) :=
  let c := s.core (s.crew m.crew).core
  let a := (List.range p.n).map fun j => (s.rowBlock m.crew m.a row (p.first + j)).map (elemInt m.fmt)
  (List.range m.ncols).map fun j =>
    let b := (bs[j]?).getD []
    let v : Int := ((List.zipWith (fun x y => (List.zipWith (· * ·) x y).sum) a b)).sum
    let key := accKey m.tok row j
    (key, (BitVec.ofInt 32 ((Sparse.get 0 c.acc key).toInt + v)).toNat)

/-- What a pass writes into the accumulator set, with its flags. -/
def State.passResult (s : State) (m : MInst) (p : Pass) : List (Nat × Nat) × BitVec 7 :=
  let kbs := (List.range p.n).map fun j => p.first + j
  match m.i with
  | .mmaI .. =>
    let bs := ((List.range m.ncols).map fun j => kbs.map fun kb => (s.rowBlock m.crew m.b j kb).map (elemInt m.b.vfmt)).toArray
    (p.rows.flatMap (s.intRow m p bs), 0)
  | _ =>
    let bs := ((List.range m.ncols).map fun j => kbs.map fun kb =>
      (s.rowBlock m.crew m.b j kb).map (elemNum m.b.vfmt m.b.mant)).toArray
    let r := p.rows.map (s.floatRow m p bs)
    (r.flatMap (·.1), r.foldl (fun f x => f ||| x.2) 0)

/-! ## Acceptance (07 R213, R216 to R221; 11 R313, R314) -/

/-- What the engine accepts. -/
structure Accept where
  gang : Nat
  gangs : List Nat
  i : Instr
  x : DWord
  a : Shape
  b : Shape
  rm : Nat
  ord : Bool
  cp : Nat := 0
  err : Bool := false
  after : List Nat := []

/-- The token of a matrix word. -/
def mmaTok : Instr → Nat
  | .mma t _ _ => t.val
  | .mmaI t _ _ => t.val
  | .mmaAd t _ _ _ => t.val
  | .mmaQ t _ _ _ => t.val
  | .mclr t => t.val
  | _ => 0

/-- The ADIDs of an MMA.AD, read through MTX (07 R220). -/
def State.readAdids (s : State) (m : MInst) : List Nat :=
  match s.window m.crew (bits m.sv 32 8) with
  | none => List.replicate 64 0
  | some w => (List.range 64).map fun k => leNat (s.mtxBytes w (bits m.sv 0 32 + 2 * k) 2)

/-- THE ENGINE ACCEPTS an instruction, with copies of what it names. -/
def State.accept (s : State) (k : Accept) : State :=
  let x := s.gang k.gang
  let cr := s.crew x.crew
  let id := (s.core x.core).nextInst
  let q := k.i matches .mmaQ ..
  let m : MInst :=
    { id := id, i := k.i, tok := mmaTok k.i, gangs := k.gangs, crew := x.crew, a := k.a, b := k.b, rm := k.rm, ord := k.ord
      gang := k.gang, after := k.after, cp := k.cp, err := k.err, sv := k.x, adtab := cr.adtab, adcfg := cr.adcfg
      m := if q then bits k.x 0 7 else k.a.outer
      fmt := if q then (if k.x.getLsbD 7 then 12 else 11) else k.a.vfmt
      mant := if q then bits k.x 8 2 else k.a.mant, depth := 3 }
  let m := if m.isAd && k.after.isEmpty then { m with adids := s.readAdids m } else m
  let s := s.modCore x.core fun c => { c with minsts := c.minsts ++ [m], nextInst := id + 1 }
  let reader (o : Op) : Op :=
    if (o.i matches .rdsr ..) && o.y == 2 && k.cp != 0 && o.x == BitVec.ofNat 64 k.cp then { o with x := BitVec.ofNat 64 id, y := 0 } else o
  let s := k.gangs.foldl (fun s g => s.modGang g fun y => { y with mid := id, mtx := y.mtx + 1, ops := y.ops.map reader }) s
  match k.i with
  | .mmaQ _ qa _ _ =>
    let n := 2 * m.m * m.nkb
    let st := (s.gang k.gang).qst qa.val
    if st.b.kind = 1 ∨ st.b.kind = 3 then
      s.modGang k.gang fun y =>
        let t := y.nextTag
        { y.setQ qa.val { st with waits := st.waits ++ [{ tag := t, slice := 0, lanes := 0, peek := false }] } with
          ops := y.ops ++ [{ tag := t, pc := 0, slot := 0, i := k.i, lanes := 0, x := BitVec.ofNat 64 id, y := BitVec.ofNat 64 n }]
          nextTag := t + 1 }
    else s.modCore x.core fun c => c.modMinst id fun m => { m with cut := true, err := true }
  | _ => s

/-- The fences of a gang that a matrix instruction's reads wait for (06 R177). -/
def Gang.fencesFor (x : Gang) (ad : Bool) : List Nat :=
  (x.ops.filter fun o => match o.i with
    | .fenceX _ _ q => q == .mtx || (ad && q == .adp)
    | _ => false).map (·.tag)

/-- An MMA-family word issues: it is attached to the copy parts of its packet that wait for a follow-on, or accepted. -/
def State.issueMma (s : State) (c : Cursor) (i : Instr) (x : DWord) (a b : Shape) : State :=
  let g := s.gang c.gang
  let act := !(s.lanes c).isEmpty
  match c.parts with
  | [] =>
    if !act then s
    else s.accept { gang := c.gang, gangs := [c.gang], i := i, x := x, a := a, b := b, rm := modeRm g.mode, ord := modeOrd g.mode
                    after := g.fencesFor (i matches .mmaAd ..) }
  | ps =>
    let s := ps.foldl (fun s p => s.modCopy p.1 fun cp =>
      { cp with parts := cp.parts.zipIdx.map fun q =>
          if q.2 = p.2 then (if act then { q.1 with follow := some { i := i, x := x, a := a, b := b } } else { q.1 with wants := false }) else q.1 }) s
    match s.cur with
    | some k => { s with cur := some { k with parts := [] } }
    | none => s

/-- The shape record of an H register that a gang's crew holds. -/
def State.shapeOf (s : State) (c : Cursor) (h : HReg) : Shape := (s.crew (s.gang c.gang).crew).shape h.val

/-- MMA (07 R217). -/
def execMma (t : TReg) (ha hb : HReg) (s : State) : Host.Outcome State Fault Refusal :=
  s.runWord (.mma t ha hb) fun c => s.issueMma c (.mma t ha hb) 0 (s.shapeOf c ha) (s.shapeOf c hb)

/-- MMA.I (07 R217; 02 R73). -/
def execMmaI (t : TReg) (ha hb : HReg) (s : State) : Host.Outcome State Fault Refusal :=
  s.runWord (.mmaI t ha hb) fun c => s.issueMma c (.mmaI t ha hb) 0 (s.shapeOf c ha) (s.shapeOf c hb)

/-- MMA.AD (07 R220). -/
def execMmaAd (t : TReg) (ha hb : HReg) (sv : SReg) (s : State) : Host.Outcome State Fault Refusal :=
  s.runWord (.mmaAd t ha hb sv) fun c =>
    s.issueMma c (.mmaAd t ha hb sv) ((s.gang c.gang).sreg sv.val) (s.shapeOf c ha) (s.shapeOf c hb)

/-- MMA.Q (07 R221). -/
def execMmaQ (t : TReg) (qa : QReg) (hb : HReg) (dsc : Src) (s : State) : Host.Outcome State Fault Refusal :=
  s.runWord (.mmaQ t qa hb dsc) fun c => s.issueMma c (.mmaQ t qa hb dsc) (s.readO c dsc) {} (s.shapeOf c hb)

/-- FOLLOW_ON_ISSUE (07 R213): the attached word of the completed copy's first part that carries one; it waits for that
word's own issue, and while the engine is full. -/
def execFollowOnIssue (key : Nat) (s : State) : Host.Outcome State Fault Refusal :=
  match s.copy? key with
  | none => .next s
  | some cp =>
    if !cp.moved || !(s.crew cp.crew).here || (s.crew cp.crew).saving != 0 then .next s
    else
      match cp.parts.find? (·.wants) with
      | none => .next (s.dropCopy key)
      | some p =>
        match p.follow with
        | none =>
          if (s.gang p.gang).slices.any fun k => k.live then .next (s.at (s.now + 4) (.followOnIssue key))
          else .next ((s.dropCopy key).retestToks (s.crew cp.crew).core)
        | some f =>
          if 8 ≤ (s.core (s.crew cp.crew).core).minsts.length then .next (s.at (s.now + 4) (.followOnIssue key))
          else
            let s := s.accept { gang := p.gang, gangs := (cp.parts.map (·.gang)).dedup, i := f.i, x := f.x, a := f.a, b := f.b, rm := p.rm
                                ord := p.ord, cp := key, err := cp.err }
            .next (s.dropCopy key)

/-! ## Layers (11 R308, R309) -/

/-- Is a layer failed? -/
def Layer.isFailed : Layer → Bool
  | .failed => true
  | .active | .skip _ => false

/-- What a layer does by its own limit at a pass boundary (11 R308). -/
def stepLayer (now n : Nat) (k : LayerLimit) (l : Layer) : Layer :=
  let temp := Config.layerTemp n
  let cur := Config.layerCurrent n
  match l with
  | .active => if k.temp < temp ∨ k.current < cur then .skip now else .active
  | .skip t => if t + 16384 ≤ now ∧ temp + k.hystTemp < k.temp ∧ cur + k.hystCurrent < k.current then .active else .skip t
  | .failed => .failed

/-- The limits of a core's layers. -/
def State.limitOf (s : State) (core layer : Nat) : LayerLimit := (s.life.limits[4 * core + layer]?).getD {}

/-- The layers at a pass boundary, and whether one stays active over its limit (11 R309). -/
def stepLayers (now fresh : Nat) (lims : Nat → LayerLimit) (ls : List Layer) : List Layer × Bool :=
  let next := ls.zipIdx.map fun p => stepLayer now (fresh + p.2) (lims p.2) p.1
  if next.any fun l => l == .active then (next, false)
  else
    let keep : Option Nat := match (ls.zipIdx.find? fun p => p.1 == .active) with
      | some p => some p.2
      | none => (ls.zipIdx.find? fun p => !Layer.isFailed p.1).map (·.2)
    (next.zipIdx.map fun p => if keep == some p.2 then Layer.active else p.1, keep.isSome)

/-- The active layers. -/
def Core.active (c : Core) : List Nat := (c.layers.zipIdx.filter fun p => p.1 == .active).map (·.2)

/-! ## Passes (11 R306, R307, R313, R323, R324) -/

/-- What an instruction can do at a pass boundary. -/
inductive Turn where
  /-- MCLR, or every layer failed -/
  | clear | failed
  /-- reads its ADIDs -/
  | adids
  /-- its last pass has ended, and matrix stepping has let it go on (07 R233) -/
  | over
  /-- asks for entries that its deferred rows lack (11 R323, R326) -/
  | refill
  /-- rows of the main sweep that lack an entry, and those that run -/
  | main (q : Nat) (rows miss : List Nat)
  | replay (q : Nat) (rows : List Nat)
  deriving DecidableEq, Repr

/-- Has an instruction no block left for any row? -/
def MInst.over (m : MInst) : Bool := m.defer.isEmpty && (m.swept || decide (m.nkb ≤ m.next))

/-- The turn of an instruction, none where it can run nothing now.  With every layer failed it ends whatever it waits for (11 R310). -/
def State.turnOf (s : State) (c : Core) (m : MInst) : Option Turn :=
  let x := s.gang m.gang
  let cr := s.crew m.crew
  let d := c.depthOf m
  if m.ends.isSome || (c.minsts.takeWhile fun k => k.id != m.id).any (fun k => k.tok == m.tok) || !cr.here || cr.aside || cr.saving != 0 ||
      cr.cancelled then none
  else if c.layers.all Layer.isFailed && !(m.i matches .mclr _) then some .failed
  else if (m.paused && x.slices.any (·.live)) || m.after.any (fun t => x.ops.any fun o => o.tag == t) then none
  else if m.i matches .mclr _ then some .clear
  else if m.isAd && m.adids.isEmpty then some .adids
  else if m.next < m.nkb ∧ !m.swept then
    let n := m.passLen m.next d
    let rows := (List.range m.m).filter fun r => !(m.defer.any fun p => p.1 == r)
    let miss := rows.filter fun r => !(c.lacks m r m.next n).isEmpty
    if (m.i matches .mmaQ ..) && !m.cut && decide (m.staged.length < 2 * m.m * n) then none
    else some (.main m.next (rows.filter fun r => !miss.contains r) miss)
  else
    let ok := m.frontRows.filter fun p => (c.lacks m p.1 p.2 (m.passLen p.2 d)).isEmpty
    match ok with
    | [] => if m.over then some .over else if (c.unasked m d).isEmpty then none else some .refill
    | p :: _ => some (.replay p.2 (ok.map (·.1)))

/-- The oldest instruction that can run now (11 R313). -/
def State.nextTurn (s : State) (c : Core) : Option (MInst × Turn) :=
  if c.pass.isSome then none else c.minsts.findSome? fun m => (s.turnOf c m).map fun t => (m, t)

/-- Cycles of a pass (11 R307, R309). -/
def passCycles (m : MInst) (a : Nat) (kept : Bool) : Nat :=
  let cb := ((m.m + 31) / 32) * ((m.ncols + 63) / 64) * 16 * fmtBits m.b.vfmt
  let r := if m.ord then (if a = 3 then 1 else if a = 2 then 2 else 3) else 1
  cb * r * (if kept then 2 else 1)

/-- A pass starts. -/
def State.beginPass (s : State) (core : Nat) (m : MInst) (q : Nat) (rows : List Nat) (replay kept : Bool) : State :=
  let c := s.core core
  let n := m.passLen q (c.depthOf m)
  let (d, s) := s.popLag
  let due := s.now + passCycles m c.active.length kept + d
  let ents := c.passEntries m rows q n
  let kbs := (List.range n).map (q + ·)
  let p : Pass := { inst := m.id, first := q, n := n, act := c.active, rows := rows, replay := replay, due := due, ents := ents
                    sa := rows.map fun r => (r, kbs.map (s.aScale m r)), sb := kbs.map (s.scaleOf m.crew m.b) }
  let s := s.modCore core fun c =>
    { c with pass := some p, adcache := c.adcache.map fun e => if ents.contains e then { e with used := s.now } else e }
  (s.requestFills core (c.depthOf m) m).at due (.passEnd core)

/-- The instruction has run its last pass, or none: it completes 40 cycles later, or at once (11 R307, R310). -/
def State.finishInst (s : State) (core id n : Nat) : State :=
  (s.modCore core fun c => c.modMinst id fun m => { m with ends := some (s.now + n) }).later n (.matrixComplete core id)

/-- With every layer failed an instruction completes at once (11 R310): an error, and no pass to account for; an MMA.Q takes no record. -/
def State.failInst (s : State) (core : Nat) (m : MInst) : State :=
  let s := s.modCore core fun c => c.modMinst m.id fun m => { m with err := true, passes := 0, depth := 0, layers := 0 }
  let mine := (s.gang m.gang).ops.filter fun o => isMma o.i && o.x == BitVec.ofNat 64 m.id
  let s := mine.foldl (fun s o => (s.modGang m.gang fun x =>
    { x with q := x.q.map fun r => (r.1, { r.2 with waits := r.2.waits.filter fun w => w.tag != o.tag }) }).dropOp m.gang o.tag) s
  s.finishInst core m.id 0

/-- Zeroes an accumulator set (07 R224). -/
def Core.clearSet (c : Core) (t : Nat) : Core := { c with acc := c.acc.filter fun p => p.1 / 8192 != t }

/-- PASS_START (11 R308, R309, R313, R323): layer states change, and the oldest instruction that can run takes its turn. -/
def execPassStart (core : Nat) (s : State) : Host.Outcome State Fault Refusal :=
  if (s.nextTurn (s.core core)).isNone then .next s
  else
    let (ls, kept) := stepLayers s.now s.fresh (s.limitOf core) (s.core core).layers
    let s := { s.modCore core fun c => { c with layers := ls } with fresh := s.fresh + 3 }
    match s.nextTurn (s.core core) with
    | none => .next s
    | some (m, t) =>
      match t with
      | .clear => .next ((s.modCore core fun c => c.clearSet m.tok).finishInst core m.id 0)
      | .failed => .next (s.failInst core m)
      | .over => .next (s.finishInst core m.id 40)
      | .refill => .next (s.requestFills core ((s.core core).depthOf m) m)
      | .adids => .next (s.modCore core fun c => c.modMinst m.id fun k => { k with adids := s.readAdids m })
      | .main q rows miss =>
        let m' : MInst := { m with defer := m.defer ++ miss.map fun r => (r, q)
                                   everDef := m.everDef ++ miss.filter fun r => !m.everDef.contains r
                                   swept := rows.isEmpty }
        let s := s.modCore core fun c => c.modMinst m.id fun _ => m'
        if rows.isEmpty then .next (s.requestFills core ((s.core core).depthOf m) m')
        else .next (s.beginPass core m' q rows false kept)
      | .replay q rows => .next (s.beginPass core m q rows true kept)

/-- AFLAGS of the flags (01 R26): IV, OF, UF, IX. -/
def aflagsOf (f : BitVec 7) : BitVec 4 :=
  BitVec.ofNat 4 ((if f &&& flIV = 0 then 0 else 1) + (if f &&& flOF = 0 then 0 else 2) + (if f &&& flUF = 0 then 0 else 4) +
      (if f &&& flIX = 0 then 0 else 8))

/-- The accounting of MSTAT over a pass that reached the accumulator (11 R315). -/
def MInst.account (m : MInst) (p : Pass) (fl : BitVec 7) : MInst :=
  let a := p.act.length
  { m with
    passes := min 255 (m.passes + 1)
    depth := min m.depth a
    layers := Nat.land m.layers ((p.act.map fun l => 2 ^ (2 - l)).sum)
    mixed := m.mixed || m.active1.any fun b => decide (b ≠ a)
    active1 := some a
    ordok := m.ordok && p.first % 3 == 0 && p.n == min 3 (m.nkb - p.first)
    aflags := m.aflags ||| aflagsOf fl }

/-- The progress of the rows of a pass. -/
def MInst.advance (m : MInst) (p : Pass) : MInst :=
  let q := p.first + p.n
  if p.replay then
    { m with defer := (m.defer.map fun r => if p.rows.contains r.1 then (r.1, q) else r).filter fun r => decide (r.2 < m.nkb) }
  else { m with next := q, staged := if m.i matches .mmaQ .. then m.staged.drop (2 * m.m * p.n) else m.staged }

/-- PASS_END (11 R306, R315, R321; 02 R62 to R73): the sums of the pass reach the accumulator, all of them or none. -/
def execPassEnd (core : Nat) (s : State) : Host.Outcome State Fault Refusal :=
  let c := s.core core
  match c.pass with
  | none => .next s
  | some p =>
    if s.now < p.due then .next s
    else
      match c.minst? p.inst with
      | none => .next (s.setCore core { c with pass := none })
      | some m =>
        let (ws, fl) := s.passResult m p
        let bad := s.badOperand m p
        let lost := p.rows.any fun r => m.isAd && m.adid r != 0 && (p.termOf m r).isNone
        let m' := (m.account p fl).advance p
        let m' := { m' with err := m'.err || lost || bad.isSome }
        let s := s.setCore core { c with pass := none, acc := ws.foldl (fun a w => Sparse.set 0 a w.1 (BitVec.ofNat 32 w.2)) c.acc }
        let s := s.modCore core fun c => c.modMinst m.id fun _ => m'
        let s := match bad with
          | some off => { s.errorRecord 1 (coreSrc core) (some (s.crew m.crew).tenant) off 0 with fresh := s.fresh + 2 ^ 32 }
          | none => { s with fresh := s.fresh + 1 }
        let s := (s.requestFills core ((s.core core).depthOf m') m').passBoundary core
        if (s.ten (s.crew m.crew).tenant).dbgctl.getLsbD 0 then
          let s := s.modCore core fun c => c.modMinst m.id fun k => { k with paused := true }
          .next (s.modGang m.gang fun x => { x with mstep := true, stopNext := x.stopNext || x.parked, parked := false })
        else if m'.over then .next (s.finishInst core m.id 40)
        else .next s

/-- Does a cluster group reserve resources of a core, which freezes its layers (15 R382)? -/
def State.frozen (s : State) (core : Nat) : Bool :=
  let t := s.tower (core / 48)
  t.groups.any fun g => g.2.reserved.any fun k => bits (Sparse.get ({} : SlotE) t.slots k).b0 10 6 == core % 48

/-- A layer fails: a pass in which it works is discarded to be repeated, and a record is written (11 R308, R310; 02 R70). -/
def State.dropLayer (s : State) (core layer : Nat) : State :=
  let c := s.core core
  if (c.layers[layer]?).getD .failed = .failed then s
  else
    let c := { c with layers := c.layers.set layer .failed
                      pass := c.pass.filter fun p => !p.act.contains layer }
    ((s.setCore core c).passBoundary core).errorRecord 4 (coreSrc core) none 0 layer

/-- LAYER_FAIL (11 R310; 02 R70; 20 R470): the layer fails, and the firmware retires it once no reservation freezes the core's layer status
(15 R382). -/
def execLayerFail (core layer : Nat) (s : State) : Host.Outcome State Fault Refusal :=
  if 96 ≤ core ∨ 3 ≤ layer then .next s
  else
    let s := s.dropLayer core layer
    if s.life.layers.contains (core * 4 + layer) then .next s
    else if s.frozen core then .next (s.at (s.now + 1) (.layerFail core layer))
    else
      .next (s.retireLayer (core * 4 + layer))

/-! ## MMA.Q's records (07 R221; 11 R313) -/

/-- The gang operation that takes the records of an MMA.Q, with its Q register. -/
def State.qTake (s : State) (m : MInst) : Option (Op × Nat) :=
  match m.i with
  | .mmaQ _ qa _ _ => ((s.gang m.gang).ops.find? fun o => isMma o.i && o.x == BitVec.ofNat 64 m.id).map fun o => (o, qa.val)
  | _ => none

/-- Can an MMA.Q move its next record into the staging buffer of its set, of 24 KiB or 384 records?  It begins once every earlier
instruction on the set has taken all its records (DEDUCED, log entry 14: else the buffer could fill with records that wait for others). -/
def State.canStage (s : State) (m : MInst) : Bool :=
  match s.qTake m with
  | none => false
  | some (o, q) =>
    let st := (s.gang m.gang).qst q
    (st.waits.head?.any fun w => w.tag == o.tag) && (st.recs.head?.any fun r => decide (r.due ≤ s.now)) && !st.aside &&
      (let onSet := ((s.core (s.crew m.crew).core).minsts.filter fun k => k.tok == m.tok)
       decide ((onSet.map fun k => k.staged.length).sum < 384) &&
         (onSet.takeWhile fun k => k.id != m.id).all fun k => (s.qTake k).isNone) && (s.crew m.crew).here

/-- STAGING_RECORD_MOVE (11 R313): one record moves from the queue into the staging buffer; after its last record the takes behind it
are served. -/
def execStagingRecordMove (core mi : Nat) (s : State) : Host.Outcome State Fault Refusal :=
  match (s.core core).minst? mi with
  | none => .next s
  | some m =>
    if !s.canStage m then .next s
    else
      match s.qTake m with
      | none => .next s
      | some (o, q) =>
        let st := (s.gang m.gang).qst q
        match st.recs with
        | [] => .next s
        | r :: rs =>
          let last := decide (o.y.toNat ≤ o.acks + 1)
          let s := s.modCore core fun c => c.modMinst mi fun k => { k with staged := k.staged ++ [r.bits] }
          let s := s.modGang m.gang fun x => x.setQ q { st with recs := rs, waits := if last then st.waits.drop 1 else st.waits }
          if last then .next (s.dropOp m.gang o.tag) else .next (s.modOp m.gang o.tag fun o => { o with acks := o.acks + 1 })

/-! ## Completion (01 R26, R27; 11 R315) -/

/-- MSTAT of an instruction that completes.  With no pass run 11 R310 gives DEPTH, LAYERS and PASSES; ORDOK is 1 when ORD is 1 (02 R71), and 0
otherwise (DESIGN CHOICE, log entry 15: 02 R71 speaks of the passes that were run). -/
def MInst.mstat (m : MInst) : DWord :=
  let none_ := decide (m.passes = 0)
  pack [(0, if none_ then 0 else m.depth), (2, if none_ then 0 else m.layers), (5, if m.ord then 1 else 0),
        (6, if (if none_ then m.ord else m.ordok) then 1 else 0), (7, if m.mixed then 1 else 0), (8, m.passes), (16, min 64 m.everDef.length),
        (24, m.aflags.toNat), (28, if m.err then 1 else 0), (29, if m.intr then 1 else 0)]

/-- FLAGS bits of AFLAGS. -/
def flagsOfA (a : BitVec 4) : BitVec 7 :=
  (if a.getLsbD 0 then flIV else 0) ||| (if a.getLsbD 1 then flOF else 0) ||| (if a.getLsbD 2 then flUF else 0) |||
    (if a.getLsbD 3 then flIX else 0)

/-- A gang receives the MSTAT of an instruction that completes: FLAGS, MSTAT where it is the last that the gang issued, and the RDSRs
that wait for it (01 R25 to R27). -/
def State.giveMstat (s : State) (g : Nat) (m : MInst) : State :=
  if !(s.gangs.any fun p => p.1 == g) then s
  else
    let s := s.modGang g fun x =>
      { x.addFlags (flagsOfA m.aflags) with mtx := x.mtx - 1, mstat := if x.mid = m.id then m.mstat else x.mstat }
    let reads := (s.gang g).ops.filter fun o => (o.i matches .rdsr ..) && o.x == BitVec.ofNat 64 m.id && o.y == 0
    reads.foldl (fun s o => match o.i with
      | .rdsr d _ => s.modGang g fun x => { x with arr := x.arr ++ [(s.now + 1, o.tag, [.s d.val m.mstat])] }
      | _ => s) s

/-- Is anything on an accumulator set accepted or attached and not complete (07 R213, R222)? -/
def State.setBusy (s : State) (core t : Nat) : Bool :=
  ((s.core core).minsts.any fun m => m.tok == t) ||
    s.crews.any fun p => p.2.here && p.2.core == core && p.2.copies.any fun cp => cp.attached.any fun f => mmaTok f.i == t

/-- MATRIX_COMPLETE (11 R307, R315; 07 R222, R226): MSTAT is formed, entries that waited for it go, and a MACQ on the set is tested. -/
def execMatrixComplete (core mi : Nat) (s : State) : Host.Outcome State Fault Refusal :=
  let c := s.core core
  match c.minst? mi with
  | none => .next s
  | some m =>
    match m.ends with
    | none => .next s
    | some e =>
      if s.now < e then .next s
      else
        let left := c.minsts.filter fun k => k.id != mi
        let past (l : Nat) : Bool := left.all fun k => decide (l ≤ k.id)
        let c := { c with minsts := left, adinv := c.adinv.filter fun a => !past a.1
                          adcache := c.adcache.filter fun e => !(e.lim.any past) }
        let s := m.gangs.foldl (fun s g => s.giveMstat g m) (s.setCore core c)
        match c.tok m.tok with
        | .transfer g _ => .next (s.at s.now (.macqComplete g (Fin.ofNat 4 m.tok)))
        | .engine | .held _ => .next s

/-! ## Tokens and accumulators (07 R222 to R224) -/

/-- Sets a token. -/
def Core.setTok (c : Core) (t : Nat) (k : TokSt) : Core := { c with toks := c.toks.set t k }

/-- MACQ (07 R222): TRANSFER at issue, the token pending in the gang. -/
def execMacq (t : TReg) (s : State) : Host.Outcome State Fault Refusal :=
  s.runWord (.macq t) fun c =>
    let x := s.gang c.gang
    let tag := x.nextTag
    let s := s.addOp c.gang (fun n => { tag := n, pc := c.pc, slot := c.slot, i := .macq t, lanes := BitVec.allOnes 64, logged := true })
      [.t t.val] (BitVec.allOnes 64)
    (s.modCore x.core fun k => k.setTok t.val (.transfer c.gang tag)).at (s.now + 1) (.macqComplete c.gang t)

/-- MACQ_COMPLETE (07 R222; 11 R326): HELD once every instruction on the set has completed, with its replays. -/
def execMacqComplete (g : Nat) (t : TReg) (s : State) : Host.Outcome State Fault Refusal :=
  let x := s.gang g
  match (s.core x.core).tok t.val with
  | .transfer h tag =>
    if h ≠ g ∨ s.setBusy x.core t.val then .next s
    else
      match s.op? g tag with
      | none => .next (s.modCore x.core fun k => k.setTok t.val (.held g))
      | some o =>
        if !x.here then .next s
        else if x.behindFault o then .next (s.at (s.now + 64) (.macqComplete g t))
        else
          let s := (s.deliver g tag (BitVec.allOnes 64) []).dropOp g tag
          .next (s.modCore x.core fun k => k.setTok t.val (.held g))
  | .engine | .held _ => .next s

/-- MREL (07 R222). -/
def execMrel (t : TReg) (s : State) : Host.Outcome State Fault Refusal :=
  s.runWord (.mrel t) fun c => s.modCore (s.gang c.gang).core fun k => k.setTok t.val .engine

/-- The element that lane `l` moves in row `k` of four (07 R223). -/
def accAt (t : Nat) (pos : DWord) (l k : Nat) : Nat := accKey t ((bits pos 0 6 + k) % 64) ((bits pos 8 7 + l) % 128)

/-- MLDA (07 R223): the set is read at issue; the bits arrive later. -/
def execMlda (d : VReg) (t : TReg) (pos : Src) (s : State) : Host.Outcome State Fault Refusal :=
  s.runWord (.mlda d t pos) fun c =>
    let ls := s.lanes c
    if ls.isEmpty then s
    else
      let x := s.gang c.gang
      let p := s.readO c pos
      let acc := (s.core x.core).acc
      let ws := (List.range 4).map fun k => Write.v (d.val + k) (ls.map fun l => (l, Sparse.get 0 acc (accAt t.val p l k)))
      let (n, s) := s.popLag
      let tag := x.nextTag
      let s := s.addOp c.gang (fun n => { tag := n, pc := c.pc, slot := c.slot, i := .mlda d t pos, lanes := laneBits ls, logged := true })
        (vGroup 4 d.val) (laneBits ls)
      s.modGang c.gang fun x => { x with arr := x.arr ++ [(s.now + 8 + n, tag, ws)] }

/-- MSTA (07 R223). -/
def execMsta (vs : VReg) (t : TReg) (pos : Src) (s : State) : Host.Outcome State Fault Refusal :=
  s.runWord (.msta vs t pos) fun c =>
    let x := s.gang c.gang
    let p := s.readO c pos
    let ws := (s.lanes c).flatMap fun l => (List.range 4).map fun k => (accAt t.val p l k, x.vreg (vs.val + k) l)
    s.modCore x.core fun k => { k with acc := ws.foldl (fun a w => Sparse.set 0 a w.1 w.2) k.acc }

/-- MCLR (07 R224): at issue under HELD, queued as a matrix instruction under ENGINE. -/
def execMclr (t : TReg) (s : State) : Host.Outcome State Fault Refusal :=
  s.runWord (.mclr t) fun c =>
    let x := s.gang c.gang
    if ((s.core x.core).tok t.val).isEngine then
      s.accept { gang := c.gang, gangs := [], i := .mclr t, x := 0, a := {}, b := {}, rm := 0, ord := false }
    else s.modCore x.core fun k => k.clearSet t.val

/-- ADINV (07 R226). -/
def execAdinv (id : Src) (s : State) : Host.Outcome State Fault Refusal :=
  s.runWord (.adinv id) fun c =>
    if (s.lanes c).isEmpty then s
    else s.dropAdapters (s.gang c.gang).crew (bits (s.readO c id) 0 12)

end Sys2Proof.Machine
end

