-- ==== Sys2Proof/Machine/Arrival.lean ====
section
/-! DEFINITION. Variable-latency results and operations of a gang (01 R41, R45 to R48): VARIABLE_RESULT_ARRIVAL delivers a result that
has been formed, or lets the gang's operations go on. -/

namespace Sys2Proof.Machine

open Sys2Proof

/-- Words whose result comes in bounded time whatever the rest of the device does (01 R477), and which a data fault before them holds (01 R46). -/
def formsAtIssue : Instr → Bool
  | .shape .. | .cpstat .. | .islstat .. | .getinfo .. | .rdsr .. | .qdepth .. | .mlda .. => true
  | _ => false

/-- Is the result of operation `tag` held behind a data fault? -/
def Gang.resultHeld (x : Gang) (tag : Nat) : Bool :=
  match x.ops.find? fun o => o.tag == tag with
  | none => false
  | some o => formsAtIssue o.i && x.behindFault o

/-- The first result that arrives now. -/
def Gang.arrival (x : Gang) (now : Nat) : Option (Nat × Nat × List Write) :=
  x.arr.find? fun e => decide (e.1 ≤ now) && !x.resultHeld e.2.1

/-- May an operation go on now: a memory or towpath word with lanes to translate or perform, a fence, an arrival, a trace entry? -/
def Op.moves (o : Op) (now : Nat) : Bool :=
  decide (o.due ≤ now) &&
    (if isMemWord o.i then (o.acc.any fun a => a.st == .xlat || a.st == .ready) || o.acc.all fun a => a.st == .done
     else if isVaultWord o.i then (o.acc.any fun a => a.st == .xlat) || o.acc.all fun a => a.st == .done
     else isFence o.i || o.waiting)

/-- The first operation of a gang that goes on now. -/
def Gang.mover (x : Gang) (now : Nat) : Option Op := if x.here then x.ops.find? fun o => o.moves now else none

/-- The lanes that a result's writes fill (01 R41): those of a V register, else the whole register. -/
def writesLanes (ws : List Write) : DWord :=
  let ls := ws.flatMap fun w => match w with
    | .v _ vals => vals.map (·.1)
    | .s _ _ | .a _ _ | .k _ _ | .exec _ | .mode _ | .flags _ | .k7 _ | .vault _ _ _ | .h _ _ _ => []
  if ls.isEmpty then BitVec.allOnes 64 else laneBits ls

/-- The results of QDEPTH, CPSTAT and ISLSTAT, taken when the word is performed (06 R196; 07 R215, R229). -/
def State.performStatus (s : State) (g : Nat) (i : Instr) (x : DWord) : State × List Write :=
  match i with
  | .qdepth d q => (s, [.s d.val (BitVec.ofNat 64 (((s.gang g).qst q.val).depth s.now))])
  | .islstat d _ => (s, [.s d.val (s.islStat (s.gang g).core x.toNat)])
  | .cpstat d h =>
    let u := (s.gang g).crew
    ((s.takeCpErr u h.val).seeCopies g h.val, [.s d.val (s.cpStatus u h.val)])
  | _ => (s, [])

/-- The writes of a result that arrives: those that were formed, or those of a status word that is performed now. -/
def State.formed (s : State) (g : Nat) (e : Nat × Nat × List Write) : State × List Write :=
  match s.op? g e.2.1 with
  | some o => if e.2.2.isEmpty then s.performStatus g o.i o.x else (s, e.2.2)
  | none => (s, e.2.2)

/-- A result arrives; its operation is over once nothing more is owed by it, and an arrival whose release is not complete goes on without its log
entry (06 R164). -/
def State.deliverResult (s : State) (g : Nat) (e : Nat × Nat × List Write) : State :=
  let tag := e.2.1
  let s := s.modGang g fun x => { x with arr := x.arr.erase e }
  let (s, ws) := s.formed g e
  let s := s.deliver g tag (writesLanes ws) ws
  let x := s.gang g
  let more := (x.arr.any fun k => k.2.1 == tag) || x.q.any fun p => p.2.waits.any fun w => w.tag == tag
  match s.op? g tag with
  | none => s
  | some o =>
    if more || isMemWord o.i || isVaultWord o.i then s
    else if o.releasing then s.modOp g tag fun o => { o with logged := false }
    else s.dropOp g tag

/-- An operation goes on. -/
def State.moveOp (s : State) (g : Nat) (o : Op) : State :=
  if isMemWord o.i then s.pumpMem g o.tag
  else if isVaultWord o.i then (if o.acc.all fun a => a.st == .done then s.dropOp g o.tag else s.pumpTow g o)
  else if isFence o.i then s.pumpFence g o
  else s.pumpArrival g o

/-- VARIABLE_RESULT_ARRIVAL (01 R41, R45): a result arrives in its lanes, or an operation of the gang goes on. -/
def execVariableResultArrival (g : Nat) (s : State) : Host.Outcome State Fault Refusal :=
  let x := s.gang g
  match x.arrival s.now with
  | some e => .next (s.deliverResult g e)
  | none =>
    match x.mover s.now with
    | some o => .next (s.moveOp g o)
    | none => .next s

/-- A Q register of a gang whose first take can be served now (06 R195). -/
def State.servable (s : State) (g : Nat) (x : Gang) : Option Nat :=
  if !x.here then none
  else ((x.q.filter fun p => !p.2.waits.isEmpty && !p.2.recs.isEmpty && !p.2.aside).find? fun p => (s.serveOne g p.1 0).isSome).map (·.1)

end Sys2Proof.Machine
end

