-- ==== Sys2Proof/Machine/Verify.lean ====
section
/-! DEFINITION. The firmware verifier of protocol tables (17 R428): the checks of one entry, and the search of a model of one line that one home
and three agents share, in which every agent event may occur in any state and messages travel by 10 R281. -/

namespace Sys2Proof.Machine

open Sys2Proof

/-! ## Checks of one entry, as (state, message, entry) -/

/-- Rule 1 for one entry: NEXT in its row's range, and RESP a code of the receiver. -/
def tabDefined (r : Nat × Nat × Nat) : Bool :=
  (r.1 / 8 == entNext r.2.2 / 8) && (!entRv r.2.2 || (if r.1 < 8 then decide (16 ≤ entResp r.2.2) else decide (3 ≤ entResp r.2.2) && decide (entResp r.2.2 ≤ 15)))

/-- Rule 2 for a table with MULTIW: stores are sent as WRT, and a WRT is broadcast. -/
def tabWriters (r : Nat × Nat × Nat) : Bool :=
  (!(decide (r.1 < 8) && r.2.1 == mST) || (entRv r.2.2 && entResp r.2.2 == mWRT)) && (!(decide (8 ≤ r.1) && r.2.1 == mWRT) || entAct r.2.2 14)

/-- Rule 3 for one entry: no STALL for responses. -/
def tabStall (r : Nat × Nat × Nat) : Bool :=
  !(entAct r.2.2 10 && (decide (26 ≤ r.2.1) || (decide (r.1 < 8) && (r.2.1 == mDATAS || r.2.1 == mDATAM))))

/-- Rule 4 for one entry: an agent row has no action of homes; WAIT not in state 12, and REL only there.  Every action bit has a meaning in a home
row (10 R279), so none there is agent-only. -/
def tabActions (r : Nat × Nat × Nat) : Bool :=
  if r.1 < 8 then [7, 8, 9, 11, 14, 15].all fun k => !entAct r.2.2 k
  else (!entAct r.2.2 8 || r.1 != 12) && (!entAct r.2.2 9 || r.1 == 12)

/-! ## The model -/

/-- An agent of the model: its state, its request channel to the home and the forward channel to it, oldest first; a forward names a requester. -/
structure VAgent where
  st : Nat := 0
  reqs : List Nat := []
  fwds : List (Nat × Nat) := []
  deriving DecidableEq, Repr

/-- The home of the model: the directory entry of the line, a deferred entry with its requester, and the requester of a forward under way. -/
structure VHome where
  st : Nat := 8
  owner : Option Nat := none
  sharers : List Nat := []
  acks : Nat := 0
  deferred : Option (Nat × Nat) := none
  fwd : Option Nat := none
  deriving DecidableEq, Repr

/-- The model: its responses in flight have no order, and stand sorted: code and agent, which sent it (26 to 31) or receives it. -/
structure VLine where
  home : VHome := {}
  agents : List VAgent := [{}, {}, {}]
  rsps : List (Nat × Nat) := []
  deriving DecidableEq, Repr

/-- What a message or an event does to the model: it waits, it breaks a rule of R428, or it is consumed. -/
inductive VRes where
  | stay
  | bad (rule : Nat)
  | go (x : VLine)
  deriving DecidableEq, Repr

def VRes.line : VRes → Option VLine
  | .go x => some x
  | .stay | .bad _ => none

/-- The rule broken, 0 for none. -/
def VRes.rule : VRes → Nat
  | .bad n => n
  | .stay | .go _ => 0

def VLine.agent (x : VLine) (a : Nat) : VAgent := (x.agents[a]?).getD {}
def VLine.setAgent (x : VLine) (a : Nat) (v : VAgent) : VLine := { x with agents := x.agents.set a v }

/-- Sends: a response, and a forward to an agent for a requester. -/
def VLine.respond (x : VLine) (code a : Nat) : VLine := { x with rsps := x.rsps.orderedInsert (fun p q => 4 * p.1 + p.2 ≤ 4 * q.1 + q.2) (code, a) }
def VLine.forward (x : VLine) (code a req : Nat) : VLine := x.setAgent a { x.agent a with fwds := (x.agent a).fwds ++ [(code, req)] }

/-- The entry of a pair. -/
def vEntry (es : List Nat) (st m : Nat) : Nat := (es[32 * st + m]?).getD entError

/-- Is the entry of a reachable pair defined (rule 1)? -/
def vGood (st m e : Nat) : Bool := !entErr e && tabDefined (st, m, e)

/-- An agent acts by its row: on an event, or on a message that names a requester. -/
def VLine.agentActs (es : List Nat) (x : VLine) (a m : Nat) (req : Option Nat) : VRes :=
  let v := x.agent a
  let e := vEntry es v.st m
  if !vGood v.st m e then .bad 1
  else if entAct e 10 then .stay
  else if entAct e 0 && req.isNone then .bad 1
  else
    let y := match req with
      | some r => if entAct e 0 then x.respond (if entAct e 2 then mDATAM else mDATAS) r else x
      | none => x
    let v := { v with st := entNext e }
    if !entRv e then .go (y.setAgent a v)
    else if 26 ≤ entResp e then .go ((y.setAgent a v).respond (entResp e) a)
    else if v.reqs.length < 2 then .go (y.setAgent a { v with reqs := v.reqs ++ [entResp e] })
    else .stay

/-- The home applies an entry for a requester (10 R279): the actions in ascending bit order, the message last. -/
def VLine.homeActs (x : VLine) (e req : Nat) : VRes :=
  let h := x.home
  let others (l : List Nat) := l.filter fun n => n != req
  let sh := if entAct e 2 then (others h.sharers).orderedInsert (· ≤ ·) req else h.sharers
  let sh := if entAct e 3 then others sh else sh
  let (own, sh) := if entAct e 4 then (some req, others sh) else (h.owner, sh)
  let own := if entAct e 5 then none else own
  let out := if entAct e 6 then others sh else []
  let sh := if entAct e 6 then sh.filter fun n => n == req else sh
  let st := if entNext e = 9 ∧ sh.isEmpty then 8 else entNext e
  let h := { h with st := st, owner := own, sharers := sh, acks := if entAct e 6 then out.length else h.acks }
  let x := out.foldl (fun x n => x.forward mINV n req) { x with home := h }
  let x := if entAct e 14 then sh.foldl (fun x n => x.forward mUPDATE n req) x else x
  if !entRv e then .go x
  else if entAct e 7 then
    match own with
    | some o => if h.fwd.isSome then .bad 3 else .go ({ x with home := { h with fwd := some req } }.forward (entResp e) o req)
    | none => .bad 1
  else .go (x.forward (entResp e) req req)

/-- The home takes a message of an agent: its class (10 R280), the forward's requester that waits (10 R281), WAIT and REL (10 R279). -/
def VLine.homeTakes (es : List Nat) (x : VLine) (a m : Nat) : VRes :=
  let h := x.home
  let m := if m = mUPGN ∨ m = mUPGO ∨ m = mUPGS then (if h.owner = some a then mUPGO else if h.sharers.contains a then mUPGS else mUPGN)
    else if m = mWBMX ∨ m = mWBMO then (if h.owner = some a then mWBMO else mWBMX)
    else if m = mINVACK ∨ m = mINVACKL then (if h.acks = 1 then mINVACKL else mINVACK)
    else m
  let e := vEntry es h.st m
  let e := if !entErr e && entAct e 11 then vEntry es h.st mGETX else e
  if decide (m < 26) && (h.fwd == some a || x.agents.any fun v => decide (4 ≤ v.fwds.length)) then .stay
  else if !vGood h.st m e then .bad 1
  else if entAct e 10 then .stay
  else
    let req := if m = mFWDACK ∨ m = mFWDACKX then h.fwd.getD a else a
    let h := if m = mFWDACK ∨ m = mFWDACKX then { h with fwd := none } else h
    let h := if m = mINVACK ∨ m = mINVACKL then { h with acks := h.acks - 1 } else h
    let x := { x with home := h }
    if entAct e 9 then
      match h.deferred with
      | some (d, r) => ({ x with home := { h with deferred := none } } : VLine).homeActs d r
      | none => .go x
    else if entAct e 8 then
      -- a busy state entered again while its acknowledgements are out
      if h.deferred.isSome then .bad 3
      else
        let out := if entAct e 6 then h.sharers.filter fun n => n != req else []
        let d := e - 2 ^ 8 - (if entAct e 6 then 2 ^ 6 else 0)
        let h := { h with acks := out.length, sharers := if entAct e 6 then h.sharers.filter fun n => n == req else h.sharers }
        if out.isEmpty then ({ x with home := h } : VLine).homeActs d req
        else .go (out.foldl (fun x n => x.forward mINV n req) { x with home := { h with deferred := some (d, req), st := 12 } })
    else x.homeActs e req

/-- Every agent event, in any state. -/
def VLine.events (es : List Nat) (x : VLine) : List VRes :=
  (List.range 3).flatMap fun a => [mLD, mST, mEVICT].map fun m => x.agentActs es a m none

/-- Every message that its channel may deliver next. -/
def VLine.moves (es : List Nat) (x : VLine) : List VRes :=
  ((List.range 3).flatMap fun a =>
    (match (x.agent a).reqs with
     | m :: rest => [(x.setAgent a { x.agent a with reqs := rest }).homeTakes es a m]
     | [] => []) ++
    match (x.agent a).fwds with
    | p :: rest => [(x.setAgent a { x.agent a with fwds := rest }).agentActs es a p.1 (some p.2)]
    | [] => []) ++
  x.rsps.dedup.map fun p =>
    let y := { x with rsps := x.rsps.erase p }
    if 26 ≤ p.1 then y.homeTakes es p.2 p.1 else y.agentActs es p.2 p.1 none

/-- Is nothing in flight? -/
def VLine.idle (x : VLine) : Bool := x.rsps.isEmpty && x.agents.all fun v => v.reqs.isEmpty && v.fwds.isEmpty

/-- Does one more message, whichever it is, lead into states of a list, where nothing in flight is left waiting for ever? -/
def VLine.leads (es : List Nat) (done : List VLine) (x : VLine) : Bool :=
  let rs := x.moves es
  rs.any (· != .stay) && (rs.filterMap VRes.line).all fun y => done.contains y

/-- Rule 3: of `rest`, the states from which no `n` further messages are sure to consume all that is in flight, with `done` those which have. -/
def undrained (es : List Nat) : Nat → List VLine → List VLine → List VLine
  | 0, _, rest => rest
  | n + 1, done, rest => undrained es n (rest.filter (VLine.leads es done) ++ done) (rest.filter fun x => !x.leads es done)

/-- Rule 2: how many agents may write their line without a message? -/
def VLine.writers (es : List Nat) (x : VLine) : Nat :=
  (x.agents.filter fun v => let e := vEntry es v.st mST; !entErr e && entAct e 3 && !entRv e).length

/-- The lower of two rules that are broken, 0 for none. -/
def lowerRule (a b : Nat) : Nat := if a = 0 then b else if b = 0 then a else min a b

/-- The rules that a state of the model, and what leaves it, break. -/
def VLine.broken (es : List Nat) (multi : Bool) (x : VLine) : Nat :=
  let r := ((x.events es ++ x.moves es).map VRes.rule).foldl lowerRule 0
  if !multi && decide (1 < x.writers es) then lowerRule r 2 else r

/-- The reachable states, with `fuel` of them at most: the lowest rule that one breaks, 0 for none; none where the search is not over. -/
def verifySearch (es : List Nat) (multi : Bool) : Nat → List VLine → List VLine → Nat → Option Nat
  | 0, _, _, _ => none
  | _ + 1, [], seen, worst =>
    let (idle, rest) := seen.partition VLine.idle
    some (if (undrained es 64 idle rest).isEmpty then worst else lowerRule worst 3)
  | n + 1, x :: todo, seen, worst =>
    let new := (((x.events es ++ x.moves es).filterMap VRes.line).filter fun y => !seen.contains y).dedup
    verifySearch es multi n (todo ++ new) (new ++ seen) (lowerRule worst (x.broken es multi))

/-- The lowest of rules 1 to 3 that the model of a table breaks, 0 for none.  An agent has at most two requests under way and the home takes no request
while an agent has four messages to take, so that the model is finite; a table whose model has more than 2^20 states keeps an open verdict (log entry 59). -/
def modelBroken (es : List Nat) (multi : Bool) : Nat :=
  (verifySearch es multi (2 ^ 20) [{}] [{}] 0).getD (Config.tableModelBad ((if multi then 1 else 0) :: es) % 4)

end Sys2Proof.Machine
end

