-- ==== Sys2Proof/Machine/HostConfig.lean ====
section
/-! DEFINITION. The configuration space of the host-link function and its component registers in BAR4 (19 R440 to R442, R448, R451; 20 R459, R460).
The spec names what is implemented; the places of the registers are PRESUMED from PCI Express 6.0 and CXL 3.1 (log entry 53).  Every register
that is not listed reads as zero and ignores writes. -/

namespace Sys2Proof.Machine

open Sys2Proof

/-- The DVSEC header of CXL: vendor 0x1E98, revision, length; and its identifier with the low half of the next word. -/
def dvsecHead (len : Nat) : Nat := 0x1E98 + 2 ^ 16 * 3 + 2 ^ 20 * len

/-- Memory_Active (20 R459, R460): set by the last stage of the boot. -/
def State.memActive (s : State) : Bool := s.life.booted

/-- A 32-bit word of configuration space. -/
def State.cfgRead (s : State) (k : Nat) : Word :=
  let c := s.priv.cfg
  let bit (b : Bool) (n : Nat) : Nat := if b then 2 ^ n else 0
  BitVec.ofNat 32 (
    if k = 0x00 then Config.vendorId.toNat + 0x8400 * 2 ^ 16
    else if k = 0x04 then c.command.toNat + 2 ^ 20
    else if k = 0x08 then 0x120000 * 2 ^ 8
    else if k = 0x34 then 0x40
    -- MSI-X: 256 vectors, table at 0 and pending bits at 0x2000 of BAR2 (19 R442)
    else if k = 0x40 then 0x11 + 2 ^ 16 * 255 + bit c.msixMask 30 + bit c.msixOn 31
    else if k = 0x44 then 2
    else if k = 0x48 then 0x2000 + 2
    -- the CXL Device DVSEC (19 R440): Cache, IO and Mem Capable, HDM_Count 1, Viral_Capable; Memory_Info_Valid and Memory_Active
    else if k = 0x100 then 0x23 + 2 ^ 16 + 2 ^ 20 * 0x140
    else if k = 0x104 then dvsecHead 0x3C
    else if k = 0x108 then 2 ^ 16 * (1 + 2 + 4 + 2 ^ 4 + 2 ^ 14)
    else if k = 0x10C then c.cxl.toNat
    else if k = 0x11C then (if s.memActive then 3 else 0)
    -- the Flex Bus Port and Register Locator DVSECs: the component registers are at 0 of BAR4
    else if k = 0x140 then 0x23 + 2 ^ 16 + 2 ^ 20 * 0x160
    else if k = 0x144 then dvsecHead 0x20
    else if k = 0x148 then 7
    else if k = 0x160 then 0x23 + 2 ^ 16 + 2 ^ 20 * 0x180
    else if k = 0x164 then dvsecHead 0x14
    else if k = 0x168 then 8
    else if k = 0x16C then 4 + 2 ^ 8
    -- the Page Request Interface: 512 outstanding requests (19 R451); PASID; DOE
    else if k = 0x180 then 0x13 + 2 ^ 16 + 2 ^ 20 * 0x190
    else if k = 0x184 then bit c.priOn 0 + 2 ^ 24
    else if k = 0x188 then 512
    else if k = 0x18C then c.priAlloc.toNat
    else if k = 0x190 then 0x1B + 2 ^ 16 + 2 ^ 20 * 0x1A0
    else if k = 0x194 then 2 ^ 8 * 20 + bit c.pasidOn 16
    else if k = 0x1A0 then 0x2E + 2 ^ 16
    else 0)

/-- A write of a 32-bit word of configuration space. -/
def State.cfgWrite (s : State) (k : Nat) (x : Word) : State :=
  let c := s.priv.cfg
  let put (c : HostCfg) : State := { s with priv := { s.priv with cfg := c } }
  if k = 0x04 then put { c with command := x &&& 0x406 }
  else if k = 0x40 then (put { c with msixOn := x.getLsbD 31, msixMask := x.getLsbD 30 }).sendPending
  else if k = 0x10C then put { c with cxl := x &&& 0x4005 }
  else if k = 0x184 then put { c with priOn := x.getLsbD 0 }
  else if k = 0x18C then put { c with priAlloc := x }
  else if k = 0x194 then put { c with pasidOn := x.getLsbD 16 }
  else s

/-- A 32-bit word of BAR4: the CXL capability header with the HDM decoder capability at 0x1200, of one decoder in HDM-DB mode. -/
def State.compRead (s : State) (k : Nat) : Word :=
  let c := s.priv.cfg
  BitVec.ofNat 32 (
    if k = 0x1000 then 1 + 2 ^ 16 + 2 ^ 20 + 2 ^ 24
    else if k = 0x1004 then 5 + 2 ^ 16 * 3 + 2 ^ 20 * 0x200
    else if k = 0x1204 then c.hdmOn.toNat
    else if k = 0x1210 then bits c.hdmBase 0 32
    else if k = 0x1214 then bits c.hdmBase 32 32
    else if k = 0x1218 then bits c.hdmSize 0 32
    else if k = 0x121C then bits c.hdmSize 32 32
    else if k = 0x1220 then c.hdmCtl.toNat
    else 0)

/-- Half `h` of a 64-bit register is written, its low 28 bits reserved. -/
def putHalf (w : DWord) (h : Nat) (x : Word) : DWord :=
  (if h = 0 then (w &&& 0xFFFFFFFF00000000) ||| x.setWidth 64 else (w &&& 0xFFFFFFFF) ||| (x.setWidth 64 <<< 32)) &&& ~~~0xFFFFFFF

/-- A write of a 32-bit word of BAR4; a decoder that is committed does not change, and Commit sets Committed. -/
def State.compWrite (s : State) (k : Nat) (x : Word) : State :=
  let c := s.priv.cfg
  let put (c : HostCfg) : State := { s with priv := { s.priv with cfg := c } }
  let free := !c.hdmCtl.getLsbD 10
  if k = 0x1204 then put { c with hdmOn := x &&& 3 }
  else if k = 0x1210 ∧ free then put { c with hdmBase := putHalf c.hdmBase 0 x }
  else if k = 0x1214 ∧ free then put { c with hdmBase := putHalf c.hdmBase 1 x }
  else if k = 0x1218 ∧ free then put { c with hdmSize := putHalf c.hdmSize 0 x }
  else if k = 0x121C ∧ free then put { c with hdmSize := putHalf c.hdmSize 1 x }
  else if k = 0x1220 then put { c with hdmCtl := if x.getLsbD 9 then (x &&& 0x3FF) ||| 0x400 else x &&& 0x1FF }
  else s

end Sys2Proof.Machine
end

