-- ==== Sys2Proof/Machine/Ecdsa.lean ====
section
/-! DEFINITION. ECDSA on brainpoolP384r1 with SHA-384 (17 R424; 20 R459, R463): the curve of RFC 5639, which 20 R459 names, and the check of a
signature (PRESUMED from RFC 5639 and FIPS 186, log entry 52). -/

namespace Sys2Proof.Machine

open Sys2Proof

/-! ## The curve -/

/-- The prime of the field, the coefficients A and B, the order of the base point, and the base point. -/
def ecP : Nat := 0x8CB91E82A3386D280F5D6F7E50E641DF152F7109ED5456B412B1DA197FB71123ACD3A729901D1A71874700133107EC53
def ecA : Nat := 0x7BC382C63D8C150C3C72080ACE05AFA0C2BEA28E4FB22787139165EFBA91F90F8AA5814A503AD4EB04A8C7DD22CE2826
def ecB : Nat := 0x04A8C7DD22CE28268B39B55416F0447C2FB77DE107DCD2A62E880EA53EEB62D57CB4390295DBC9943AB78696FA504C11
def ecQ : Nat := 0x8CB91E82A3386D280F5D6F7E50E641DF152F7109ED5456B31F166E6CAC0425A7CF3AB6AF6B7FC3103B883202E9046565
def ecG : Nat × Nat :=
  (0x1D1C64F068CF45FFA2A63A81B7C13F6B8847A3E77EF14FE3DB7FCAFE0CBD10E8E826E03436D646AAEF87B2E247D4AF1E,
   0x8ABE1D7520F9C2A45CB1EB8E95CFD55262B70B29FEEC5864E19C054FF99129280E4646217791811142820341263C5315)

/-- Is a point on the curve? -/
def ecOn (x y : Nat) : Bool := decide (y * y % ecP = (x * x * x + ecA * x + ecB) % ecP)

/-! ## Arithmetic -/

/-- b^e modulo m, by the `n` low bits of e. -/
def powMod (m : Nat) : Nat → Nat → Nat → Nat
  | 0, _, _ => 1 % m
  | n + 1, b, e =>
    let r := powMod m n (b * b % m) (e / 2)
    if e % 2 = 1 then b * r % m else r

/-- The inverse modulo a prime of 384 bits. -/
def invMod (m x : Nat) : Nat := powMod m 384 (x % m) (m - 2)

/-- The sum of two points; none is the point at infinity. -/
def ecAdd (p q : Option (Nat × Nat)) : Option (Nat × Nat) :=
  match p, q with
  | none, q => q
  | p, none => p
  | some (x1, y1), some (x2, y2) =>
    if x1 = x2 ∧ (y1 + y2) % ecP = 0 then none
    else
      let l := if x1 = x2 then (3 * x1 * x1 + ecA) * invMod ecP (2 * y1) % ecP
        else (y2 + ecP - y1) * invMod ecP (x2 + ecP - x1) % ecP
      let x := (l * l + 2 * ecP - x1 - x2) % ecP
      some (x, (l * (x1 + ecP - x) + ecP - y1) % ecP)

/-- A multiple of a point, by the `n` low bits of the factor. -/
def ecMul : Nat → Nat → Option (Nat × Nat) → Option (Nat × Nat)
  | 0, _, _ => none
  | n + 1, k, p =>
    let r := ecMul n (k / 2) (ecAdd p p)
    if k % 2 = 1 then ecAdd p r else r

/-! ## Signatures (17 R424) -/

/-- Bytes as a number, most significant byte first. -/
def beNat (b : List Byte) : Nat := leNat b.reverse

/-- The check of a signature r, s over a digest, under a public key. -/
def ecdsaGood (key : Nat × Nat) (h r s : Nat) : Bool :=
  decide (1 ≤ r) && decide (r < ecQ) && decide (1 ≤ s) && decide (s < ecQ) && ecOn key.1 key.2 &&
    (let w := invMod ecQ s
     match ecAdd (ecMul 384 (h * w % ecQ) (some ecG)) (ecMul 384 (r * w % ecQ) (some key)) with
     | none => false
     | some p => p.1 % ecQ == r)

/-- Do 96 bytes, r then s, sign a message under a key? -/
def signedBy (key : Nat × Nat) (msg sig : List Byte) : Bool :=
  sig.length == 96 && ecdsaGood key (beNat (sha384 msg)) (beNat (sig.take 48)) (beNat (sig.drop 48))

/-- The signature of a container whose signature part begins at an offset (17 R424, R427), under the platform key. -/
def containerSigned (b : List Byte) (sigoff : Nat) : Bool := signedBy Config.platformKey (b.take sigoff) ((b.drop sigoff).take 96)

end Sys2Proof.Machine
end

