-- ==== Sys2Proof/Machine/Image.lean ====
section
/-! DEFINITION. Island images (12 R332 to R337, R343; 17 R423 to R425): the grid, cell words, routes, static timing, and the container with
its checks. -/

namespace Sys2Proof.Machine

open Sys2Proof

/-! ## Cells and their words (12 R332, R333) -/

/-- Columns of a grid, and its cells. -/
def gridW (wide : Bool) : Nat := if wide then 8 else 4
def gridN (wide : Bool) : Nat := if wide then 64 else 16

/-- The kind of a cell by its position: 0 FP, 1 LUT, 2 DOT, 3 SEQ (12 R332). -/
def cellKind (wide : Bool) (k : Nat) : Nat :=
  if wide then ([3, 0, 1, 0, 1, 0, 2, 3][k % 8]?).getD 0 else ([3, 0, 1, 2][k % 4]?).getD 0

/-- Bits of a cell word. -/
def cw (w : BitVec 128) (lo n : Nat) : Nat := w.toNat / 2 ^ lo % 2 ^ n
def cellEn (w : BitVec 128) : Bool := w.getLsbD 125
def cellOpc (w : BitVec 128) : Nat := cw w 116 4
def cellFmt (w : BitVec 128) : Nat := cw w 112 4
def cellRm (w : BitVec 128) : Nat := cw w 109 3
def cellSat (w : BitVec 128) : Bool := w.getLsbD 108
def cellP (w : BitVec 128) : Nat := cw w 0 32

/-- Does an operation of a kind exist, and take the format (12 R334)? -/
def cellOpOk (kind opc fmt : Nat) : Bool :=
  if opc = 0 then true
  else match kind with
    | 0 => decide (opc ≤ 9) && decide (fmt ≤ 1)
    | 1 => decide (opc ≤ 11) &&
        (match opc with
         | 1 | 7 | 8 => fmt == 0 || fmt == 4 || fmt == 5
         | 10 | 11 => fmt == 4 || fmt == 5
         | _ => true)
    | 2 => opc == 1 && (fmt == 2 || fmt == 3)
    | _ => decide (opc ≤ 4)

/-- The parameter of an operation is valid (12 R334, R335). -/
def cellParamOk (wide : Bool) (kind opc fmt p : Nat) : Bool :=
  match kind, opc with
  | 1, 2 => decide (p % 8 ≤ 5) || decide (fmt ≤ 3)
  | 1, 9 => decide (p % 16 ≤ 5)
  | 3, 0 => true
  | 3, o =>
    p % 4 != 3 && (!wide || o == 1 || o == 3) && ((o == 3 || o == 4) || decide (16 ≤ p / 256 % 256))
  | _, _ => true

/-- Is a cell word valid at its position (12 R333)? -/
def cellOk (wide : Bool) (k : Nat) (w : BitVec 128) : Bool :=
  cw w 126 2 == cellKind wide k && decide (cellFmt w ≤ 5) && decide (cellRm w ≤ 4) && cellOpOk (cellKind wide k) (cellOpc w) (cellFmt w) &&
    cellParamOk wide (cellKind wide k) (cellOpc w) (cellFmt w) (cellP w)

/-- Latency and interval of a cell (12 R334). -/
def cellLat (kind : Nat) (w : BitVec 128) : Nat :=
  if cellOpc w = 0 then 1
  else match kind with
    | 0 => 6
    | 1 => 2
    | 2 => 5
    | _ => if cellOpc w ≤ 2 then cellP w / 256 % 256 else 1
def cellIvl (kind : Nat) (w : BitVec 128) : Nat := if kind = 0 ∧ cellOpc w ≠ 0 then 2 else 1

/-! ## Routes and static timing (12 R336, R337) -/

/-- A route: source, destination, port. -/
structure Route where
  src : Nat
  dst : Nat
  port : Nat
  deriving DecidableEq, Repr

/-- The routes in use of an image. -/
def Image.live (m : Image) : List Route :=
  (m.routes.filter fun r => decide (2 ^ 31 ≤ r)).map fun r => { src := r / 2 ^ 24 % 128, dst := r / 2 ^ 17 % 128, port := r / 2 ^ 15 % 4 }

/-- Is an end of a route a cell of the grid, or a stream? -/
def endOk (wide : Bool) (e : Nat) : Bool := decide (e < gridN wide) || (decide (64 ≤ e) && decide (e < 72))

/-- Steps from one number to another. -/
def between (a b : Nat) : List (Nat × Nat) :=
  if a ≤ b then (List.range (b - a)).map fun k => (a + k, a + k + 1) else (List.range (a - b)).map fun k => (a - k, a - k - 1)

/-- The directed links of a route between cells: along the row, then along the column. -/
def Route.links (wide : Bool) (r : Route) : List (Nat × Nat) :=
  let w := gridW wide
  if 64 ≤ r.src ∨ 64 ≤ r.dst then []
  else
    (between (r.src % w) (r.dst % w)).map (fun p => (r.src / w * w + p.1, r.src / w * w + p.2)) ++
      (between (r.src / w) (r.dst / w)).map fun p => (p.1 * w + r.dst % w, p.2 * w + r.dst % w)

/-- Hops of a route; an edge hop takes one. -/
def Route.hops (wide : Bool) (r : Route) : Nat := if 64 ≤ r.src ∨ 64 ≤ r.dst then 1 else (r.links wide).length

/-- The limits of routes (12 R336). -/
def Image.routesOk (m : Image) : Bool :=
  let rs := m.live
  let w := gridW m.wide
  rs.all (fun r => endOk m.wide r.src && endOk m.wide r.dst && (decide (r.src < 64) || (decide (r.dst < 64) && r.dst % w == 0)) &&
    (decide (r.dst < 64) || (decide (r.src < 64) && r.src % w == w - 1))) &&
  ((rs.filter fun r => decide (r.dst < 64)).map fun r => (r.dst, r.port)).Nodup &&
  (let ls := rs.flatMap (Route.links m.wide)
   ls.all fun l => decide ((ls.filter fun k => k == l).length ≤ 2)) &&
  (List.range 8).all fun k =>
    (Nat.testBit m.inmask k == rs.any fun r => r.src == 64 + k) && (Nat.testBit m.outmask k == rs.any fun r => r.dst == 64 + k)

/-- A cell of an image. -/
def Image.cell (m : Image) (k : Nat) : BitVec 128 := (m.cells[k]?).getD 0

/-- The time at which a route's source gives its value. -/
def Image.srcTime (m : Image) (ts : List (Option Nat)) (r : Route) : Option Nat :=
  if 64 ≤ r.src then some 0
  else ((ts[r.src]?).getD none).map fun t => t + cellLat (cellKind m.wide r.src) (m.cell r.src) + cw (m.cell r.src) 120 5

/-- One round of arrival times: a cell is known once all that drives it is, and arrives at one time. -/
def Image.timeRound (m : Image) (ts : List (Option Nat)) : List (Option Nat) :=
  (List.range (gridN m.wide)).map fun k =>
    match (ts[k]?).getD none with
    | some t => some t
    | none =>
      let ins := (m.live.filter fun r => r.dst == k).map fun r => (m.srcTime ts r).map fun t => t + r.hops m.wide
      match ins with
      | [] => some 0
      | a :: rest => if a.isSome && rest.all (fun b => b == a) then a else none

/-- Arrival times after `n` rounds. -/
def Image.times (m : Image) : Nat → List (Option Nat)
  | 0 => []
  | n + 1 => m.timeRound (m.times n)

/-- Static timing (12 R337). -/
def Image.timingOk (m : Image) : Bool :=
  let ts := m.times (gridN m.wide + 1)
  ts.all Option.isSome && (m.live.filter fun r => decide (64 ≤ r.dst)).all (fun r => (m.srcTime ts r).map (· + r.hops m.wide) == some m.lat) &&
  (List.range (gridN m.wide)).all fun k => !cellEn (m.cell k) || decide (cellIvl (cellKind m.wide k) (m.cell k) ≤ m.ii)

/-! ## Containers (17 R423 to R425) -/

/-- An unsigned field of `n` bytes. -/
def fieldAt (b : List Byte) (off n : Nat) : Nat := leNat ((b.drop off).take n)

/-- Parts of a container (offset, length) lie within it and do not overlap. -/
def partsOk (size : Nat) (ps : List (Nat × Nat)) : Bool :=
  ps.all (fun p => p.1 % 16 == 0 && decide (p.1 + p.2 ≤ size)) &&
    (List.range ps.length).all fun i => (List.range i).all fun j => !overlap ((ps[i]?).getD (0, 0)) ((ps[j]?).getD (0, 0))

/-- The image of a container, none where check 1 refuses it. -/
def parseImage (b : List Byte) : Option Image :=
  let g0 := fieldAt b 0 8
  let wide := Nat.testBit g0 23
  let sigoff := fieldAt b 40 4
  let size := fieldAt b 28 4
  let nr := fieldAt b 26 2
  let nl := fieldAt b 24 2
  let celloff := fieldAt b 36 4
  let routeoff := fieldAt b 32 4
  let lutoff := fieldAt b 44 4
  if g0 / 2 ^ 32 ≠ 0x1C7A5E01 ∨ g0 / 2 ^ 24 % 256 ≠ 1 ∨ size ≠ sigoff + 96 ∨ b.length < size then none
  else if (if wide then 256 else 64) < nr ∨ gridN wide < nl then none
  else if !partsOk size [(0, 128), (celloff, 16 * gridN wide), (routeoff, 4 * nr), (lutoff, 1040 * nl), (sigoff, 96)] then none
  else
    some
      { imgid := BitVec.ofNat 32 (fieldAt b 12 4), cls := fieldAt b 1 1, lat := fieldAt b 10 2, ii := fieldAt b 0 1, wide := wide
        inmask := fieldAt b 9 1, outmask := fieldAt b 8 1, pair := (List.range 8).map fun k => fieldAt b (16 + k) 1
        cells := (List.range (gridN wide)).map fun k => BitVec.ofNat 128 (fieldAt b (celloff + 16 * k) 16)
        routes := (List.range nr).map fun k => fieldAt b (routeoff + 4 * k) 4
        luts := (List.range nl).map fun k =>
          (fieldAt b (lutoff + 1040 * k) 4, (List.range 256).map fun j => BitVec.ofNat 32 (fieldAt b (lutoff + 1040 * k + 16 + 4 * j) 4)) }

/-- Checks 4 to 9 (17 R425), with their numbers. -/
def Image.checks (m : Image) (wide : Bool) : List (Nat × Bool) :=
  let n := gridN wide
  let luts := (List.range n).filter fun k => cellKind wide k == 1 && cellEn (m.cell k) && cellOpc (m.cell k) == 1
  [(4, decide (1 ≤ m.cls) && decide (m.cls ≤ 3) && decide (1 ≤ m.lat) && decide (1 ≤ m.ii) && decide (m.ii ≤ 16) && m.imgid != 0 && m.wide == wide),
   (5, match m.cls with
    | 1 => m.inmask == 3 && m.outmask == 3 && m.pair.take 2 == [0, 1]
    | 2 => m.inmask == 1 && m.outmask == 1
    | _ => (List.range 8).all fun k => !Nat.testBit m.outmask k ||
       (decide ((m.pair[k]?).getD 255 < 8) && Nat.testBit m.inmask ((m.pair[k]?).getD 255))),
   (6, (List.range n).all fun k => cellOk wide k (m.cell k)), (7, m.routesOk), (8, m.timingOk),
   (9, m.luts.length == luts.length && luts.all fun k => (m.luts.filter fun l => l.1 == k).length == 1)]

/-- The management core verifies a container for an island (17 R425): the image, or the first check that fails. -/
def checkImage (b : List Byte) (wide : Bool) : Except Nat Image :=
  match parseImage b with
  | none => .error 1
  | some m =>
    if !containerSigned b (fieldAt b 40 4) then .error 2
    else if fieldAt b 52 4 < Config.isvn 0 then .error 3
    else match (m.checks wide).find? fun c => !c.2 with
      | some c => .error c.1
      | none => .ok m

/-- The image of a container that passes every check. -/
def verifyImage (b : List Byte) (wide : Bool) : Option Image :=
  match checkImage b wide with
  | .error _ => none
  | .ok m => some m

end Sys2Proof.Machine
end

