-- ==== Sys2Proof/Machine/Cell.lean ====
section
/-! DEFINITION. What the cells of a loadable island image compute (12 R334, R335, R341): operations on beats, sequencer accesses, and one
record through the fabric. -/

namespace Sys2Proof.Machine

open Sys2Proof

/-- A 512-bit beat. -/
abbrev Beat := BitVec 512

/-- The element format of a cell (12 R333). -/
def islFmt : Nat → Fmt
  | 0 => .f32
  | 1 => .f16
  | 2 => .e4m3
  | 3 => .e5m2
  | 4 => .s32
  | _ => .u32

/-- Bits of an element. -/
def islBits (f : Nat) : Nat := (Fmt.int (islFmt f)).1

/-- The elements of a beat. -/
def beatElems (w : Nat) (b : Beat) : List Nat := (List.range (512 / w)).map fun k => b.toNat / 2 ^ (w * k) % 2 ^ w
/-- A beat of elements; those that do not fit are dropped. -/
def elemsBeat (w : Nat) (l : List Nat) : Beat :=
  BitVec.ofNat 512 (((l.take (512 / w)).zipIdx.map fun p => p.1 % 2 ^ w * 2 ^ (w * p.2)).sum)

/-- Element by element. -/
def beatMap2 (w : Nat) (f : Nat → Nat → Nat) (a b : Beat) : Beat := elemsBeat w (List.zipWith f (beatElems w a) (beatElems w b))

/-- The sign of every float element of a port inverted (12 R333). -/
def negBeat (fmt : Nat) (on : Bool) (b : Beat) : Beat :=
  if on && decide (fmt ≤ 3) then elemsBeat (islBits fmt) ((beatElems (islBits fmt) b).map (modCode (islBits fmt) true false)) else b

/-- FLOOR of a code (12 R334). -/
def floorCode (f : FFmt) (sat : Bool) (c : Nat) : Nat :=
  match f.read c with
  | .nan _ => f.nan
  | .inf n => (if sat then f.infinite true n else f.infinite false n).1
  | .fin neg m e =>
    if m = 0 ∨ 0 ≤ e then c
    else
      let n := (roundAt 3 neg m e false 0).1
      (f.round 0 false false neg n 0 false).1

/-- An FP operation on elements (12 R334). -/
def fpOp (f : FFmt) (opc rm : Nat) (sat : Bool) (k0 k1 a b c : Nat) : Nat :=
  let x := f.read a
  match opc with
  | 1 => (f.add rm sat false x (f.read b)).1
  | 2 => (f.mul rm sat false x (f.read b)).1
  | 3 => (f.fma rm sat false x (f.read b) (f.read c)).1
  | 4 => (f.minMax false sat a b).1
  | 5 => (f.minMax true sat a b).1
  | 6 => (f.mul rm sat false x (f.read k0)).1
  | 7 => (f.fma rm sat false x (f.read k0) (f.read k1)).1
  | 8 => floorCode f sat a
  | _ => (f.add rm sat false x (f.read (floorCode f false a)).flip).1

/-- The condition of a LUT cell's CMP on two elements. -/
def cellCmp (fmt cc a b : Nat) : Bool :=
  match Cond.ofCode cc with
  | none => false
  | some c =>
    match Fmt.float (islFmt fmt) with
    | some f => (fcmpNum c (f.read a) (f.read b)).1
    | none =>
      let x : Int := if fmt = 4 then sgn32 a else a
      let y : Int := if fmt = 4 then sgn32 b else b
      match c with
      | .eq => decide (x = y)
      | .ne => decide (x ≠ y)
      | .lt => decide (x < y)
      | .le => decide (x ≤ y)
      | .gt => decide (y < x)
      | .ge => decide (y ≤ x)
      | .ord | .unord => false

/-- A LUT cell (12 R334). -/
def lutOp (w : BitVec 128) (lut : List Word) (a b c : Beat) : Beat :=
  let fmt := cellFmt w
  let n := islBits fmt
  let p := cellP w
  match cellOpc w with
  | 1 => elemsBeat 32 ((beatElems 32 a).map fun x => ((lut[x / 256 ^ (p % 4) % 256]?).getD 0).toNat)
  | 2 => beatMap2 n (fun x y => if cellCmp fmt (p % 8) x y then 2 ^ n - 1 else 0) a b
  | 3 => elemsBeat n (List.zipWith (fun s q => if s % (if fmt ≤ 3 then 2 ^ (n - 1) else 2 ^ n) = 0 then q.2 else q.1) (beatElems n c) (List.zip (beatElems n a) (beatElems n b)))
  | 4 => a &&& b
  | 5 => a ||| b
  | 6 => a ^^^ b
  | 7 => elemsBeat 32 ((beatElems 32 a).map fun x => x * 2 ^ (p % 32))
  | 8 => elemsBeat 32 ((beatElems 32 a).map fun x => x / 2 ^ (p % 32))
  | 9 => elemsBeat (islBits (p % 16)) ((beatElems n a).map fun x => (cvtCode (islFmt fmt) (islFmt (p % 16)) (cellRm w) (cellSat w) false x).1)
  | 10 => beatMap2 32 (fun x y => x + y) a b
  | _ => elemsBeat 32 ((beatElems 32 a).map fun x => x * cw w 64 32)

/-- DOT8 (12 R334). -/
def dotOp (w : BitVec 128) (a b c : Beat) : Beat :=
  let fa := if cellFmt w = 2 then fE4M3 else fE5M2
  let fb := if cellP w % 2 = 0 then fE4M3 else fE5M2
  let x := beatElems 8 a
  let y := beatElems 8 b
  let z := beatElems 32 c
  let one (g : Nat) : Nat :=
    let ps := (List.range 8).map fun k => (fa.read ((x[8 * g + k]?).getD 0)).mul (fb.read ((y[8 * g + k]?).getD 0))
    let r := (fF32.total (cellRm w) false (ps ++ [some (fF32.read ((z[g]?).getD 0))]) false).1
    if cellSat w then (match fF32.read r with
      | .inf n => (fF32.infinite true n).1
      | .nan _ | .fin _ _ _ => r) else r
  elemsBeat 32 ((List.range 8).map one)

/-- SAT on the float elements of a beat that passes unchanged (12 R333): an infinity becomes the largest finite number (02 R58). -/
def satBeat (fmt : Nat) (on : Bool) (b : Beat) : Beat :=
  match on, Fmt.float (islFmt fmt) with
  | true, some f => elemsBeat (islBits fmt) ((beatElems (islBits fmt) b).map fun c => match f.read c with
      | .inf n => (f.infinite true n).1
      | .nan _ => f.nan
      | .fin _ _ _ => c)
  | _, _ => b

/-- A cell that makes no access; NEG acts on the float elements of the operations whose result is in a float format, and SAT on their results
(12 R333). -/
def cellOut (kind : Nat) (w : BitVec 128) (lut : List Word) (p : List Beat) : Beat :=
  let raw (k : Nat) : Beat := (p[k]?).getD 0
  let neg (k fmt : Nat) : Beat := negBeat fmt (w.getLsbD (104 + k)) (raw k)
  let port (k : Nat) : Beat := neg k (cellFmt w)
  if !cellEn w then 0
  else if cellOpc w = 0 then satBeat (cellFmt w) (cellSat w) (port 0)
  else match kind with
    | 0 =>
      let f := if cellFmt w = 0 then fF32 else fF16
      let n := islBits (cellFmt w)
      elemsBeat n ((List.zip (beatElems n (port 0)) (List.zip (beatElems n (port 1)) (beatElems n (port 2)))).map fun q =>
        fpOp f (cellOpc w) (cellRm w) (cellSat w) (cw w 64 32 % 2 ^ n) (cw w 32 32 % 2 ^ n) q.1 q.2.1 q.2.2)
    | 1 =>
      let sel := cellOpc w == 3
      let cvt := cellOpc w == 9 && decide (cellP w % 16 ≤ 3)
      let out := lutOp w lut (if sel || cvt then port 0 else raw 0) (if sel then port 1 else raw 1) (raw 2)
      if sel then satBeat (cellFmt w) (cellSat w) out else out
    | _ => dotOp w (neg 0 2) (neg 1 2) (neg 2 0)

/-! ## Sequencers (12 R335, R341) -/

/-- The record whose accesses an island makes: its crew, its tag, and the island's context. -/
structure SeqCtx where
  k : EngCtx
  crew : Nat
  tag : Word

/-- Bytes of an element of a sequencer. -/
def seqSize (w : BitVec 128) : Nat := 4 * 2 ^ (cellP w % 4)

/-- One element's access: an address in memory or an offset of the crew's window; none where it is out of bounds. -/
def State.seqAddr (s : State) (c : SeqCtx) (w : BitVec 128) (vault : Bool) (off : Nat) : Option Nat :=
  let cr := s.crew c.crew
  let size := seqSize w
  if vault then
    let a := cw w 32 32 + off
    if a % size ≠ 0 ∨ s.outside c.crew 0 (a, size) then none else some a
  else
    let t := cw w 64 8
    match cr.patch[t]?, cr.patch[t + 1]? with
    | some lo, some hi =>
      let b := hi.toNat * 2 ^ 32 + lo.toNat
      let a := (b + off + if cellP w / 4 % 2 = 1 then c.tag.toNat * 64 else 0) % 2 ^ 80
      if a % size = 0 then some a else none
    | _, _ => none

/-- What a cell's accesses have come to: the elements done, whether ERR is latched, and for those left whether a translation (true) or a line
is awaited. -/
structure SeqRes where
  vals : List Nat
  err : Bool := false
  await : Option Bool := none

/-- Loads the elements of a beat, as far as they can be read now. -/
def State.seqLoad (s : State) (c : SeqCtx) (w : BitVec 128) (vault : Bool) : List Nat → SeqRes → SeqRes × State
  | [], q => (q, s)
  | off :: r, q =>
    match s.seqAddr c w vault off with
    | none => s.seqLoad c w vault r { q with vals := q.vals ++ [0], err := true }
    | some a =>
      if vault then
        let b := s.vaultSrc c.crew a (seqSize w)
        if b.all Option.isSome then s.seqLoad c w vault r { q with vals := q.vals ++ [leNat (b.filterMap id)] }
        else (s.errorRecord 1 (coreSrc c.k.core) (some c.k.tenant) a 0).seqLoad c w vault r { q with vals := q.vals ++ [0], err := true }
      else
        match s.engRead c.k a (seqSize w) with
        | (.ok (b, e), s) => s.seqLoad c w vault r { q with vals := q.vals ++ [leNat (b.map fun x => x.getD 0)], err := q.err || e }
        | (.miss, s) => ({ q with await := some true }, s)
        | (.wait, s) => ({ q with await := some false }, s)

/-- Stores the elements of a beat, offset and value, as far as they can be written now. -/
def State.seqStore (s : State) (c : SeqCtx) (w : BitVec 128) (vault : Bool) : List (Nat × Nat) → SeqRes → SeqRes × State
  | [], q => (q, s)
  | (off, v) :: r, q =>
    match s.seqAddr c w vault off with
    | none => s.seqStore c w vault r { q with vals := q.vals ++ [v], err := true }
    | some a =>
      let bs := leBytes (seqSize w) v
      if vault then
        (s.vaultStore c.crew (bs.zipIdx.map fun p => (a + p.2, p.1))).seqStore c w vault r { q with vals := q.vals ++ [v] }
      else
        match s.engWrite c.k a (bs.map some) with
        | (.ok e, s) => s.seqStore c w vault r { q with vals := q.vals ++ [v], err := q.err || e }
        | (.miss, s) => ({ q with await := some true }, s)
        | (.wait, s) => ({ q with await := some false }, s)

/-- A sequencer cell goes on with its accesses: the elements in `done` are behind it.  LOAD, LOADV; STORE, STOREV. -/
def State.seqCell (s : State) (c : SeqCtx) (w : BitVec 128) (p : List Beat) (done : List Nat) : SeqRes × State :=
  let port (k : Nat) : Beat := (p[k]?).getD 0
  let n := 64 / seqSize w
  let offs (b : Beat) : List Nat := (beatElems 32 b).take n
  match cellOpc w with
  | 1 => s.seqLoad c w false ((offs (port 0)).drop done.length) { vals := done }
  | 2 => s.seqLoad c w true ((offs (port 0)).drop done.length) { vals := done }
  | 3 => s.seqStore c w false ((List.zip (offs (port 1)) (beatElems (8 * seqSize w) (port 0))).drop done.length) { vals := done }
  | _ => s.seqStore c w true ((List.zip (offs (port 1)) (beatElems (8 * seqSize w) (port 0))).drop done.length) { vals := done }

/-! ## A record through the fabric -/

/-- Is a cell a sequencer that makes accesses; and a load among them? -/
def Image.accesses (m : Image) (k : Nat) : Bool := cellKind m.wide k == 3 && cellEn (m.cell k) && cellOpc (m.cell k) != 0
def Image.loads (m : Image) (k : Nat) : Bool := m.accesses k && decide (cellOpc (m.cell k) ≤ 2)

/-- The cells that the records of a stream drive, after `n` steps along the routes. -/
def Image.reach (m : Image) (stream : Nat) : Nat → List Nat
  | 0 => []
  | n + 1 =>
    let l := m.reach stream n
    (List.range (gridN m.wide)).filter fun k => m.live.any fun q => q.dst == k && (q.src == 64 + stream || l.contains q.src)

/-- Does a cell see a beat for a record of a stream: the stream drives it, or no stream does?  DEDUCED (log entry 23): a sequencer that only other
streams drive makes no access for the record. -/
def Image.sees (m : Image) (stream k : Nat) : Bool :=
  let n := gridN m.wide
  (m.reach stream n).contains k || !((List.range 8).any fun t => (m.reach t n).contains k)

/-- The sequencers that make accesses for a record of a stream, with the times at which they see it, in order of time (12 R337). -/
def Image.seqs (m : Image) (stream : Nat) : List (Nat × Nat) :=
  let ts := m.times (gridN m.wide + 1)
  orderBy (fun a b => decide (a.1 ≤ b.1)) ((List.range (gridN m.wide)).filterMap fun k =>
    if m.accesses k && m.sees stream k then some (((ts[k]?).getD none).getD 0, k) else none)

/-- The value that a route carries: an input stream's record, or a cell's output once it is known. -/
def routeVal (outs : List (Option Beat)) (stream : Nat) (r : Beat) (src : Nat) : Option Beat :=
  if 64 ≤ src then some (if src = 64 + stream then r else 0) else (outs[src]?).getD none

/-- The ports of a cell, if all that drives them is known. -/
def Image.ports (m : Image) (outs : List (Option Beat)) (stream : Nat) (r : Beat) (k : Nat) : Option (List Beat) :=
  let ps := (List.range 4).map fun p =>
    match m.live.find? fun q => q.dst == k && q.port == p with
    | none => some 0
    | some q => routeVal outs stream r q.src
  if ps.all Option.isSome then some (ps.filterMap id) else none

/-- The output of a cell whose ports are known; that of a sequencer once its accesses are done. -/
def Image.cellVal (m : Image) (stream : Nat) (vals : List (Nat × Beat × Nat)) (k : Nat) (ps : List Beat) : Option Beat :=
  if !m.accesses k then some (cellOut (cellKind m.wide k) (m.cell k) ((m.luts.lookup k).getD []) ps)
  else if m.sees stream k then (vals.lookup k).map (·.1)
  else some 0

/-- What is known of the cells' outputs for a record after `n` rounds. -/
def Image.fabric (m : Image) (stream : Nat) (r : Beat) (vals : List (Nat × Beat × Nat)) : Nat → List (Option Beat)
  | 0 => List.replicate (gridN m.wide) none
  | n + 1 =>
    let o := m.fabric stream r vals n
    (List.range (gridN m.wide)).map fun k => match (o[k]?).getD none with
      | some b => some b
      | none => (m.ports o stream r k).bind fun ps => m.cellVal stream vals k ps

/-- The output records of a record through a loadable image: one on each output stream paired with its input stream, and on stream 0 in
class 2 (12 R347). -/
def Image.outputs (m : Image) (stream : Nat) (r : Beat) (vals : List (Nat × Beat × Nat)) : List (Nat × Beat) :=
  let o := m.fabric stream r vals (gridN m.wide)
  ((List.range 8).filter fun k => Nat.testBit m.outmask k && (m.cls == 2 || (m.pair[k]?).getD 255 == stream)).map fun k =>
    (k, (match m.live.find? fun q => q.dst == 64 + k with
      | none => 0
      | some q => (routeVal o stream r q.src).getD 0))

end Sys2Proof.Machine
end

