-- ==== Sys2Proof/Machine/Texture.lean ====
section
/-! DEFINITION. The standard images of I0 and W0 (12 R348 to R351): the texture filter and the rasteriser. -/

namespace Sys2Proof.Machine

open Sys2Proof

/-! ## FP32 in RNE -/

def add32 (x y : Nat) : Nat := (fF32.add 0 false false (fF32.read x) (fF32.read y)).1
def sub32 (x y : Nat) : Nat := (fF32.add 0 false false (fF32.read x) (fF32.read y).flip).1
def mul32 (x y : Nat) : Nat := (fF32.mul 0 false false (fF32.read x) (fF32.read y)).1
def fma32 (x y z : Nat) : Nat := (fF32.fma 0 false false (fF32.read x) (fF32.read y) (fF32.read z)).1
/-- A natural number as FP32. -/
def nat32 (n : Nat) : Nat := (cvtIF fF32 0 false n).1
/-- A rational number rounded once. -/
def ratio32 (p : Int) (q : Nat) : Nat :=
  if p = 0 ∨ q = 0 then 0
  else
    let m := p.natAbs * 2 ^ 96 / q
    (fF32.round 0 false false (decide (p < 0)) m (-96) (decide (p.natAbs * 2 ^ 96 % q ≠ 0))).1
/-- The integral value at or below a finite FP32 value. -/
def floorInt (c : Nat) : Int :=
  match fF32.read c with
  | .fin neg m e =>
    let n := (roundAt 3 neg m e false 0).1
    if neg then -(n : Int) else n
  | .nan _ | .inf _ => 0
def isFinite (c : Nat) : Bool :=
  match fF32.read c with
  | .fin _ _ _ => true
  | .nan _ | .inf _ => false

/-! ## The texture filter (12 R348, R349) -/

/-- A texture descriptor. -/
structure TexDesc where
  base : Nat
  bilinear : Bool
  clamp : Bool
  fmt : Nat
  mips : Nat
  w : Nat
  h : Nat

/-- A descriptor from its words; none where it is invalid (12 R348). -/
def texDesc (e0 e1 : DWord) : Option TexDesc :=
  let base := bits e1 0 16 * 2 ^ 64 + e0.toNat
  if 2 ≤ bits e1 52 2 ∨ 3 ≤ bits e1 48 4 ∨ base % 128 ≠ 0 then none
  else some { base := base, bilinear := e1.getLsbD 54, clamp := bits e1 52 2 == 1, fmt := bits e1 48 4, mips := bits e1 44 4
              w := bits e1 16 14 + 1, h := bits e1 30 14 + 1 }

/-- Bytes of a texel. -/
def TexDesc.size (d : TexDesc) : Nat := 4 * 2 ^ d.fmt

/-- Width and height of a level. -/
def TexDesc.wm (d : TexDesc) (m : Nat) : Nat := max 1 (d.w / 2 ^ m)
def TexDesc.hm (d : TexDesc) (m : Nat) : Nat := max 1 (d.h / 2 ^ m)

/-- Offset of a level. -/
def TexDesc.level (d : TexDesc) : Nat → Nat
  | 0 => 0
  | m + 1 => (d.level m + d.wm m * d.hm m * d.size + 127) / 128 * 128

/-- A coordinate brought into the level. -/
def TexDesc.wrap (d : TexDesc) (i : Int) (n : Nat) : Nat :=
  if d.clamp then (min (max i 0) (n - 1)).toNat else (i % (n : Int)).toNat

/-- The address of a texel. -/
def TexDesc.texel (d : TexDesc) (m : Nat) (x y : Int) : Nat :=
  (d.base + d.level m + (d.wrap y (d.hm m) * d.wm m + d.wrap x (d.wm m)) * d.size) % 2 ^ 80

/-- A channel of a texel's bytes. -/
def TexDesc.channel (d : TexDesc) (b : List Byte) (c : Nat) : Nat :=
  match d.fmt with
  | 0 => ratio32 ((b[c]?).getD 0).toNat 255
  | 1 => (cvtFF fF16 fF32 0 false false (leNat ((b.drop (2 * c)).take 2))).1
  | _ => leNat ((b.drop (4 * c)).take 4)

/-- The level that LOD selects. -/
def texLevel (lod mips : Nat) : Nat :=
  match fF32.read lod with
  | .nan _ => 0
  | .inf n => if n then 0 else mips
  | .fin neg m e => if neg then 0 else min mips (roundAt 0 false m e false 0).1

/-- U × wm − 0.5, with NaN, infinite and overflowing coordinates read as 0. -/
def texCoord (u w : Nat) : Nat :=
  let u := if isFinite u then u else 0
  let x := sub32 (mul32 u (nat32 w)) 0x3F000000
  if isFinite x then x else 0xBF000000

/-- Reads texels; missing bytes are zero and latch ERR. -/
def State.texels (s : State) (c : SeqCtx) (size : Nat) : List Nat → EngRes (List (List Byte) × Bool) × State
  | [] => (.ok ([], false), s)
  | a :: r =>
    match s.engRead c.k a size with
    | (.ok (b, e), s) =>
      (match s.texels c size r with
       | (.ok (l, f), s) => (.ok ((b.map fun x => x.getD 0) :: l, e || f), s)
       | (.miss, s) => (.miss, s)
       | (.wait, s) => (.wait, s))
    | (.miss, s) => (.miss, s)
    | (.wait, s) => (.wait, s)

/-- One lane of a request with its descriptor: 128 bits of the output stream. -/
def State.texSample (s : State) (c : SeqCtx) (foot : Bool) (d : TexDesc) (u v lod : Nat) : EngRes (Nat × Bool) × State :=
  let m := texLevel lod d.mips
  let x := texCoord u (d.wm m)
  let y := texCoord v (d.hm m)
  let x0 := floorInt x
  let y0 := floorInt y
  -- x0 + 1 and y0 + 1 are FP32 sums too (12 R349)
  let x1 := floorInt (add32 (floorCode fF32 false x) 0x3F800000)
  let y1 := floorInt (add32 (floorCode fF32 false y) 0x3F800000)
  let fx := sub32 x (floorCode fF32 false x)
  let fy := sub32 y (floorCode fF32 false y)
  let taps : List (Int × Int) :=
    if foot || d.bilinear then [(x0, y0), (x1, y0), (x0, y1), (x1, y1)]
    else [(floorInt (add32 x 0x3F000000), floorInt (add32 y 0x3F000000))]
  match s.texels c d.size (taps.map fun t => d.texel m t.1 t.2) with
  | (.ok (ts, e), s) =>
    let ch (k i : Nat) : Nat := d.channel ((ts[k]?).getD []) i
    if foot then
      let b := (List.range 16).map fun n => (cvtFF fF32 fE4M3 0 true false (ch (n / 4) (n % 4))).1 * 256 ^ n
      (.ok (b.sum, e), s)
    else
      let one (i : Nat) : Nat :=
        if d.bilinear then
          let gx := sub32 0x3F800000 fx
          let gy := sub32 0x3F800000 fy
          fma32 (ch 3 i) (mul32 fx fy) (fma32 (ch 2 i) (mul32 gx fy) (fma32 (ch 1 i) (mul32 fx gy) (mul32 (ch 0 i) (mul32 gx gy))))
        else ch 0 i
      (.ok (((List.range 4).map fun i => one i * 2 ^ (32 * i)).sum, e), s)
  | (.miss, s) => (.miss, s)
  | (.wait, s) => (.wait, s)

/-- A lane of a request: its descriptor is read from the table that the tag's patch slots name (12 R348). -/
def State.texLane (s : State) (c : SeqCtx) (foot : Bool) (q : Nat) : EngRes (Nat × Bool) × State :=
  let cr := s.crew c.crew
  let t := c.tag.toNat % 256
  match cr.patch[t]?, cr.patch[t + 1]? with
  | some lo, some hi =>
    let a := (hi.toNat * 2 ^ 32 + lo.toNat + 32 * (q / 2 ^ 96 % 2 ^ 16)) % 2 ^ 80
    (match s.engRead c.k a 16 with
     | (.ok (b, e), s) =>
       let b := b.map fun x => x.getD 0
       (match texDesc (word64 (b.take 8)) (word64 (b.drop 8)) with
        | none => (.ok (0, true), s)
        | some d =>
          match s.texSample c foot d (q % 2 ^ 32) (q / 2 ^ 32 % 2 ^ 32) (q / 2 ^ 64 % 2 ^ 32) with
          | (.ok (v, f), s) => (.ok (v, e || f), s)
          | (.miss, s) => (.miss, s)
          | (.wait, s) => (.wait, s))
     | (.miss, s) => (.miss, s)
     | (.wait, s) => (.wait, s))
  | _, _ => (.ok (0, true), s)

/-- The lanes of a request record. -/
def State.texLanes (s : State) (c : SeqCtx) (foot : Bool) (r : Beat) : List Nat → EngRes (Nat × Bool) × State
  | [] => (.ok (0, false), s)
  | l :: ls =>
    match s.texLane c foot (r.toNat / 2 ^ (128 * l) % 2 ^ 128) with
    | (.ok (v, e), s) =>
      (match s.texLanes c foot r ls with
       | (.ok (w, f), s) => (.ok (v * 2 ^ (128 * l) + w, e || f), s)
       | (.miss, s) => (.miss, s)
       | (.wait, s) => (.wait, s))
    | (.miss, s) => (.miss, s)
    | (.wait, s) => (.wait, s)

/-- The standard texture filter on a record of a stream (12 R349). -/
def State.runTex (s : State) (c : SeqCtx) (stream : Nat) (r : Beat) : EngRes (List (Nat × Beat) × Bool) × State :=
  match s.texLanes c (stream == 1) r [0, 1, 2, 3] with
  | (.ok (v, e), s) => (.ok ([(stream, BitVec.ofNat 512 v)], e), s)
  | (.miss, s) => (.miss, s)
  | (.wait, s) => (.wait, s)

/-! ## The rasteriser (12 R350, R351) -/

/-- A coordinate snapped to a multiple of 2^−8; none where it is NaN or lies outside [−16,384, 16,384]. -/
def snap (c : Nat) : Option Int :=
  match fF32.read c with
  | .nan _ | .inf _ => none
  | .fin neg m e =>
    let n := (roundAt 0 neg m e false (-8)).1
    let v : Int := if neg then -(n : Int) else n
    if v < -(16384 * 256) ∨ 16384 * 256 < v then none else some v

/-- A point in units of 2^−8. -/
abbrev Pt := Int × Int

/-- The edge function of the edge from `a` to `b` at `p`. -/
def edgeFn (a b p : Pt) : Int := (b.1 - a.1) * (p.2 - a.2) - (b.2 - a.2) * (p.1 - a.1)

/-- Is the centre `p` inside the edge, or on a left or top edge; `sg` is the sign of the area. -/
def edgeIn (sg : Int) (a b p : Pt) : Bool :=
  let e := sg * edgeFn a b p
  let dx := -(sg * (b.2 - a.2))
  let dy := sg * (b.1 - a.1)
  decide (0 < e) || (decide (e = 0) && (decide (0 < dx) || (decide (dx = 0) && decide (0 < dy))))

/-- A snapped triangle with its depths and scissor. -/
structure Tri where
  p0 : Pt
  p1 : Pt
  p2 : Pt
  z0 : Nat
  z1 : Nat
  z2 : Nat
  area : Int
  xmin : Nat
  xmax : Nat
  ymin : Nat
  ymax : Nat

/-- The centre of a pixel. -/
def centre (x y : Nat) : Pt := ((256 * x + 128 : Nat), (256 * y + 128 : Nat))

/-- Is a pixel covered? -/
def Tri.covers (t : Tri) (x y : Nat) : Bool :=
  let p := centre x y
  let sg : Int := if 0 < t.area then 1 else -1
  decide (t.xmin ≤ x) && decide (x ≤ t.xmax) && decide (t.ymin ≤ y) && decide (y ≤ t.ymax) &&
    edgeIn sg t.p0 t.p1 p && edgeIn sg t.p1 t.p2 p && edgeIn sg t.p2 t.p0 p

/-- The 128 bits of a pixel of a quad. -/
def Tri.pixel (t : Tri) (x y : Nat) : Nat :=
  let p := centre x y
  let sg : Int := if 0 < t.area then 1 else -1
  let b1 := ratio32 (sg * edgeFn t.p2 t.p0 p) t.area.natAbs
  let b2 := ratio32 (sg * edgeFn t.p0 t.p1 p) t.area.natAbs
  let z := add32 (add32 t.z0 (mul32 b1 (sub32 t.z1 t.z0))) (mul32 b2 (sub32 t.z2 t.z0))
  b2 * 2 ^ 96 + b1 * 2 ^ 64 + z * 2 ^ 32 + (if t.covers x y then 2 ^ 28 else 0) + y % 2 ^ 14 * 2 ^ 14 + x % 2 ^ 14

/-- Even numbers of a range. -/
def evens (lo hi : Nat) : List Nat := if hi < lo then [] else (List.range ((hi - lo / 2 * 2) / 2 + 1)).map fun k => lo / 2 * 2 + 2 * k

/-- The quads with a covered pixel in row-major order, within the scissored bounding box. -/
def Tri.quads (t : Tri) : List (Nat × Nat) :=
  let lo (a b c : Int) (m : Nat) : Nat := max m ((min a (min b c)).toNat / 256)
  let hi (a b c : Int) (m : Nat) : Nat := min m ((max a (max b c)).toNat / 256)
  (evens (lo t.p0.2 t.p1.2 t.p2.2 t.ymin) (hi t.p0.2 t.p1.2 t.p2.2 t.ymax)).flatMap fun y =>
    ((evens (lo t.p0.1 t.p1.1 t.p2.1 t.xmin) (hi t.p0.1 t.p1.1 t.p2.1 t.xmax)).filter fun x =>
      (List.range 4).any fun i => t.covers (x + i % 2) (y + i / 2)).map fun x => (x, y)

/-- A triangle record; none where it produces the single empty record. -/
def triOf (r : Beat) : Option Tri :=
  let n := r.toNat
  let f (lane k : Nat) : Nat := n / 2 ^ (128 * lane + 32 * k) % 2 ^ 32
  let sc (k : Nat) : Nat := n / 2 ^ (384 + 16 * k) % 2 ^ 16
  match snap (f 0 0), snap (f 0 1), snap (f 1 0), snap (f 1 1), snap (f 2 0), snap (f 2 1) with
  | some x0, some y0, some x1, some y1, some x2, some y2 =>
    let area := edgeFn (x0, y0) (x1, y1) (x2, y2)
    if area = 0 ∨ (0 < area ∧ f 0 3 % 2 = 1) ∨ (area < 0 ∧ f 0 3 / 2 % 2 = 1) then none
    else some { p0 := (x0, y0), p1 := (x1, y1), p2 := (x2, y2), z0 := f 0 2, z1 := f 1 2, z2 := f 2 2, area := area
                xmin := sc 0, ymin := sc 1, xmax := min 16383 (sc 2), ymax := min 16383 (sc 3) }
  | _, _, _, _, _, _ => none

/-- A quad record. -/
def Tri.record (t : Tri) (last : Bool) (q : Nat × Nat) : Beat :=
  BitVec.ofNat 512 (((List.range 4).map fun i =>
    (t.pixel (q.1 + i % 2) (q.2 + i / 2) + if last then 2 ^ 29 else 0) * 2 ^ (128 * i)).sum)

/-- The single record of a triangle that covers nothing: LAST in every lane. -/
def emptyQuad : Beat := BitVec.ofNat 512 (((List.range 4).map fun i => 2 ^ (128 * i + 29)).sum)

/-- The standard rasteriser (12 R351). -/
def rasterise (r : Beat) : List Beat :=
  match triOf r with
  | none => [emptyQuad]
  | some t =>
    match t.quads with
    | [] => [emptyQuad]
    | qs => qs.zipIdx.map fun q => t.record (q.2 + 1 == qs.length) q.1

end Sys2Proof.Machine
end

