-- ==== Sys2Proof/Machine/Islands.lean ====
section
/-! DEFINITION. Records in islands and island images (12 R338 to R345; 18 R436): entry, departure, arrivals in tide groups, I1 loads. -/

namespace Sys2Proof.Machine

open Sys2Proof

/-! ## Islands and their time -/

/-- An island's number in the rows that act on it: core × 8 + ISEL; a wide island is named through core 0 of its tower. -/
def islKey (core isel : Nat) : Nat := (if isel < 4 then core else core / 48 * 48) * 8 + isel
def islCore (k : Nat) : Nat := k / 8
def islSel (k : Nat) : Nat := k % 8

/-- An island by its number. -/
def State.isl (s : State) (k : Nat) : Island := s.island (islCore k) (islSel k)
def State.setIsl (s : State) (k : Nat) (x : Island) : State := s.setIsland (islCore k) (islSel k) x

/-- The island cycle: core cycles without those stalled (12 R338). -/
def Island.time (i : Island) (now : Nat) : Nat := i.stallFrom.getD now - i.stalled
/-- The island stalls. -/
def Island.stall (i : Island) (now : Nat) : Island := { i with stallFrom := some (i.stallFrom.getD now) }
/-- A stall is over. -/
def Island.run (i : Island) (now : Nat) : Island :=
  match i.stallFrom with
  | none => i
  | some f => { i with stallFrom := none, stalled := i.stalled + (now - f) }

/-- Cycles between an island and a queue (12 R339). -/
def islTrip (isel : Nat) : Nat := if isel < 4 then 4 else 20

/-! ## Entry (12 R331, R339) -/

/-- The records that could enter an island now: gang, Q register, stream. -/
def State.entrants (s : State) (k : Nat) : List (Nat × Nat × Nat) :=
  let wide := 4 ≤ islSel k
  (s.gangs.filter fun p => if wide then p.2.core / 48 == islCore k / 48 else p.2.core == islCore k).flatMap fun p =>
    (p.2.q.filter fun q => q.2.b.kind == 2 && q.2.b.isel == islSel k && !q.2.aside && q.2.recs.head?.any fun r => decide (r.due ≤ s.now)).map
      fun q => (p.1, q.1, q.2.b.stream)

/-- The record that enters: by stream number in a core island; in a wide island from the first core port at or after the pointer. -/
def State.entrant (s : State) (k : Nat) : Option (Nat × Nat × Nat) :=
  let i := s.isl k
  let port (g : Nat) : Nat := ((s.gang g).core % 48 + 48 - i.rr) % 48
  let rank (e : Nat × Nat × Nat) : Nat := if 4 ≤ islSel k then port e.1 * 8 + e.2.2 else e.2.2
  match s.entrants k with
  | [] => none
  | e :: r => some (r.foldl (fun b x => if rank x < rank b then x else b) e)

/-- May a record enter now? -/
def State.canEnter (s : State) (k : Nat) : Bool :=
  let i := s.isl k
  i.img.isSome && i.loading.isNone && i.stallFrom.isNone && decide (i.nextEntry ≤ s.now) && (s.entrant k).isSome

/-- ISLAND_RECORD_ENTRY (12 R331, R339). -/
def execIslandRecordEntry (k : Nat) (s : State) : Host.Outcome State Fault Refusal :=
  if !s.canEnter k then .next s
  else
    match s.entrant k with
    | none => .next s
    | some (g, q, stream) =>
      let x := s.gang g
      let st := x.qst q
      match st.recs with
      | [] => .next s
      | r :: rs =>
        let i := s.isl k
        let ii := (i.img.map (·.ii)).getD 1
        let (d, s) := s.popLag
        let rec_ : IslRec := { stream := stream, bits := r.bits, tag := r.tag, mark := r.mark, gang := g, core := x.core, tenant := x.tenant
                               entered := i.time s.now, after := r.after, readAt := i.time s.now + min d ((i.img.map (·.lat)).getD 0) }
        let s := s.modGang g fun x => x.setQ q { st with recs := rs }
        .next (s.setIsl k { i with inside := i.inside ++ [rec_], nextEntry := s.now + ii, rr := (x.core % 48 + 1) % 48 })

/-! ## Departure (12 R338, R340 to R342; 18 R436) -/

/-- The crew that pushed a record. -/
def IslRec.crew (r : IslRec) : Nat := r.gang / 16

/-- The Q register of the pushing crew that is bound to an output stream, on the core of the push. -/
def State.outQueue (s : State) (isel : Nat) (r : IslRec) (stream : Nat) : Option (Nat × Nat) :=
  s.gangs.findSome? fun p =>
    if p.2.crew == r.crew && p.2.core == r.core then
      (p.2.q.find? fun q => q.2.b.kind == 1 && q.2.b.isel == isel && q.2.b.stream == stream).map fun q => (p.1, q.1)
    else none

/-- The context of a record's accesses. -/
def State.islCtx (s : State) (k : Nat) (r : IslRec) : SeqCtx :=
  { k := { core := r.core, tenant := r.tenant, who := .island (islCore k) (islSel k), refused := (s.isl k).refused }
    crew := r.crew, tag := r.tag }

/-- THE ARRIVAL of an island in its tide group for a marked record (12 R342). -/
def State.islArrive (s : State) (k : Nat) (r : IslRec) : State :=
  match (s.isl k).group with
  | none => s
  | some n =>
    if (s.tide n).tenant = some r.tenant then
      (s.tideArrive n (.island (islCore k) (islSel k)) [{ who := { who := .island (islSel k), core := islCore k }, scope := .device, pts := (s.isl k).pts, vc := [] }]).2
    else s

/-- The first record of an island, when its departure is due. -/
def State.leaving (s : State) (k : Nat) : Option (Image × IslRec) :=
  let i := s.isl k
  match i.img, i.inside with
  | some m, r :: _ => if r.entered + m.lat ≤ i.time s.now ∧ i.nextExit ≤ s.now then some (m, r) else none
  | _, _ => none

/-- The next sequencer of a record that has accesses to make, with the time at which it sees the record. -/
def Image.nextSeq (m : Image) (r : IslRec) : Option (Nat × Nat) := (m.seqs r.stream).find? fun q => !(r.vals.any fun v => v.1 == q.2)

/-- Are a record's accesses free to be made: every FENCE.X that orders them is complete (12 R340)? -/
def State.unfenced (s : State) (r : IslRec) : Bool := r.after.all fun p => (s.op? p.1 p.2).isNone

/-- The work that a record has at an island time: a sequencer's accesses, or none for the reads of the standard texture filter, whose moment
between entry and departure 12 R349 leaves open (DESIGN CHOICE, log entry 39: one moment for all reads of a record). -/
def State.workOf (s : State) (m : Image) (now : Nat) (r : IslRec) : Option (Option Nat) :=
  if r.formed || !s.unfenced r then none
  else if m = texImage then (if r.readAt ≤ now then some none else none)
  else match m.nextSeq r with
    | none => none
    | some q => if r.entered + q.1 ≤ now then some (some q.2) else none

/-- The record of an island with work to do now: its place, itself and the cell. -/
def State.islWork (s : State) (k : Nat) : Option (Nat × IslRec × Option Nat) :=
  let i := s.isl k
  match i.img with
  | none => none
  | some m =>
    if i.waits || decide (s.now < i.retry) then none
    else i.inside.zipIdx.findSome? fun p => (s.workOf m (i.time s.now) p.1).map fun c => (p.2, p.1, c)

/-- Has a load of a record not arrived within its LEAD (12 R335, R338)? -/
def Image.late (m : Image) (now time : Nat) (r : IslRec) : Bool :=
  (m.seqs r.stream).any fun q => m.loads q.2 && decide (r.entered + q.1 + cellLat 3 (m.cell q.2) ≤ time) &&
    !(r.vals.any fun v => v.1 == q.2 && decide (v.2.2 ≤ now))

/-- Are a record's outputs known, or can they be formed now? -/
def State.canForm (s : State) (m : Image) (r : IslRec) : Bool :=
  r.formed || (m != texImage && (m.nextSeq r).isNone && r.vals.all fun v => decide (v.2.2 ≤ s.now))

/-- Has the queue of a record's next output room, or is the output discarded? -/
def State.outFits (s : State) (isel : Nat) (r : IslRec) : Bool :=
  match r.outs with
  | [] => true
  | o :: _ => match s.outQueue isel r o.1 with
    | none => true
    | some (g, q) => decide (0 < ((s.gang g).qst q).outRoom)

/-- Does an access of an island wait for a page request (12 R338; 16 R397)?  A walk alone stalls nothing. -/
def State.islFault (s : State) (k : Nat) : Bool :=
  (s.isl k).waits && (s.tower (islCore k / 48)).preqs.any fun q => q.who.any fun w => w.1 == .island (islCore k) (islSel k)

/-- Does an island stall now (12 R338): for a translation fault, for a load past its LEAD, for accesses that its first record must have made before
it leaves, or for room? -/
def State.stalls (s : State) (k : Nat) : Bool :=
  let i := s.isl k
  s.islFault k || (match i.img with
    | none => false
    | some m => i.inside.any fun r => m.late s.now (i.time s.now) r) ||
  match s.leaving k with
  | none => false
  | some (m, r) => !s.canForm m r || !s.outFits (islSel k) r

/-- Does a record of an island have something to do now, or does a stall begin or end? -/
def State.canLeave (s : State) (k : Nat) : Bool :=
  let i := s.isl k
  !i.inside.isEmpty && (s.stalls k != i.stallFrom.isSome || (s.islWork k).isSome ||
    match s.leaving k with
    | none => false
    | some (m, r) => s.canForm m r && s.outFits (islSel k) r)

/-- The record at a place of an island changes. -/
def Island.setRec (i : Island) (n : Nat) (r : IslRec) : Island := { i with inside := i.inside.set n r }

/-- A sequencer of a record makes its accesses, as far as it can now; a load's data arrive at a time of their own.  One that must wait for a recall tries
again after 4 cycles (DESIGN CHOICE, log entry 32). -/
def State.seqWork (s : State) (k : Nat) (m : Image) (n : Nat) (r : IslRec) (cell : Nat) : State :=
  let ps := (m.ports (m.fabric r.stream r.bits r.vals (gridN m.wide)) r.stream r.bits cell).getD []
  let w := m.cell cell
  let (q, s) := s.seqCell (s.islCtx k r) w ps ((r.part.map (·.2)).getD [])
  let i := s.isl k
  let i := { i with err := i.err || q.err }
  match q.await with
  | none =>
    let (d, s) := if m.loads cell then s.popLag else (0, s)
    let out : Beat := if m.loads cell then elemsBeat (8 * seqSize w) q.vals else (ps[0]?).getD 0
    s.setIsl k ({ i with refused := [] }.setRec n { r with part := none, vals := r.vals ++ [(cell, out, s.now + d)] })
  | some miss =>
    let i := i.setRec n { r with part := some (cell, q.vals) }
    s.setIsl k (if miss then { i with waits := true } else { i with retry := s.now + 4 })

/-- The standard texture filter reads for a record and forms its output. -/
def State.texWork (s : State) (k n : Nat) (r : IslRec) : State :=
  match s.runTex (s.islCtx k r) r.stream r.bits with
  | (.ok (os, e), s) =>
    let i := s.isl k
    s.setIsl k ({ i with err := i.err || e, refused := [] }.setRec n { r with outs := os, formed := true })
  | (.miss, s) => s.setIsl k { (s.isl k) with waits := true }
  | (.wait, s) => s.setIsl k { (s.isl k) with retry := s.now + 4 }

/-- What a record whose accesses are done produces: by the standard rasteriser, or by the cells of an image. -/
def Image.results (m : Image) (r : IslRec) : List (Nat × Beat) :=
  if m = rastImage then (rasterise r.bits).map fun b => (0, b) else m.outputs r.stream r.bits r.vals

/-- The first record of an island goes on leaving: its outputs are formed, one of them leaves, or it is done and, if marked, arrives. -/
def State.leaveOne (s : State) (k : Nat) (m : Image) (r : IslRec) : State :=
  let i := s.isl k
  if !r.formed then s.setIsl k (i.setRec 0 { r with outs := m.results r, formed := true })
  else
    match r.outs with
    | [] =>
      let s := s.setIsl k { i with inside := i.inside.drop 1 }
      if r.mark then s.islArrive k r else s
    | o :: os =>
      let next := if m = rastImage then s.now + 1 else i.nextExit
      let t := s.setIsl k { (i.setRec 0 { r with outs := os }) with nextExit := next }
      match s.outQueue (islSel k) r o.1 with
      | none => t
      | some (g, q) =>
        t.modGang g fun x => x.setQ q { x.qst q with recs := (x.qst q).recs ++ [{ bits := o.2, due := s.now + islTrip (islSel k) }] }

/-- ISLAND_RECORD_EXIT (12 R335, R338, R340 to R342; 18 R436): a record's way to its departure.  A stall begins or ends; else the accesses that
are due are made; else the first record goes on leaving. -/
def execIslandRecordExit (k : Nat) (s : State) : Host.Outcome State Fault Refusal :=
  if !s.canLeave k then .next s
  else
    let i := s.isl k
    if s.stalls k != i.stallFrom.isSome then .next (s.setIsl k (if s.stalls k then i.stall s.now else i.run s.now))
    else
      match s.islWork k, i.img with
      | some (n, r, some cell), some m => .next (s.seqWork k m n r cell)
      | some (n, r, none), _ => .next (s.texWork k n r)
      | none, _ => match s.leaving k with
        | none => .next s
        | some (m, r) => .next (s.leaveOne k m r)
      | some (_, _, some _), none => .next s

/-! ## Images (12 R344) -/

/-- Is a Q register of a core bound to its I1?  The bindings with which a crew has been restored, whose first packet waits for the load, do not
count (16 R408). -/
def State.boundI1 (s : State) (c : Nat) : Bool :=
  s.gangs.any fun p => p.2.core == c && !((s.core c).borrow && (s.crew p.2.crew).rt) && !(s.crew p.2.crew).imgWait && p.2.q.any fun q => (q.2.b.kind == 1 || q.2.b.kind == 2) && q.2.b.isel == 1 && !q.2.aside

/-- A crew of a core that wants another image than the one loaded, with that image: in a borrow an RT crew, whose push waits for it, and else a
crew whose first packet waits for it. -/
def State.imgWanted (s : State) (c : Nat) : Option (Nat × Image) :=
  let l := s.crews.filter fun p => p.2.here && p.2.core == c && (if (s.core c).borrow then p.2.rt else p.2.imgWait)
  l.findSome? fun p => match (s.launch p.2.lent).img with
    | none => none
    | some m => if (s.core c).i1.img = some m then none else some (p.1, m)

/-- May an image load start on a core's I1: no register bound to it, and in a borrow no victim's record inside it? -/
def State.mayLoad (s : State) (c : Nat) : Bool :=
  (s.core c).i1.loading.isNone && !s.boundI1 c && (s.imgWanted c).isSome &&
    (!(s.core c).borrow || (s.core c).i1.inside.isEmpty)

/-- I1_IMAGE_LOAD (12 R344): at most 84,000 cycles. -/
def execI1ImageLoad (c : Nat) (s : State) : Host.Outcome State Fault Refusal :=
  if !s.mayLoad c then .next s
  else
    match s.imgWanted c with
    | none => .next s
    | some (_, m) =>
      let (d, s) := s.popLag
      let t := s.now + min 84000 (8400 + d)
      let keep (k : Core) : Option Image := if k.borrow && k.lentImg.isNone then k.i1.img else k.lentImg
      .next ((s.modCore c fun k => { k with i1 := { k.i1 with loading := some (t, m) }, lentImg := keep k }).at t (.i1ImageLoadComplete c))

/-- The Q registers of a core bound to its I1 are bound anew (12 R344), but those with which a crew that waits for the load has been restored. -/
def State.rebindI1 (s : State) (c : Nat) : State :=
  let l := (s.gangs.filter fun p => p.2.core == c && p.2.here && !(s.crew p.2.crew).imgWait).flatMap fun p =>
    (p.2.q.filter fun q => (q.2.b.kind == 1 || q.2.b.kind == 2) && q.2.b.isel == 1 && !q.2.aside).map fun q => (p.1, q.1, q.2.b)
  l.foldl (fun s x => s.rebind x.1 x.2.1 x.2.2) s

/-- I1_IMAGE_LOAD_COMPLETE (12 R344): ERR is clear, and the crews that name the image go on.  An ordinary load discards what is inside, and
what is in the queues bound to the island. -/
def execI1ImageLoadComplete (c : Nat) (s : State) : Host.Outcome State Fault Refusal :=
  match (s.core c).i1.loading with
  | none => .next s
  | some (t, m) =>
    if s.now < t then .next s
    else
      let s := s.modCore c fun k => { k with i1 := { img := some m, group := k.i1.group, pts := k.i1.pts } }
      let s := if (s.core c).borrow then s else s.rebindI1 c
      .next { s with crews := s.crews.map fun p =>
        if p.2.core = c ∧ (s.launch p.2.lent).img = some m then (p.1, { p.2 with imgWait := false }) else p }

end Sys2Proof.Machine
end

