-- ==== Sys2Proof/Machine/Paging.lean ====
section
/-! DEFINITION. Page-table walks and page requests (16 R389 to R397, R475; 19 R451): what a walk gives to those that wait for it, and what
the host's answer does. -/

namespace Sys2Proof.Machine

open Sys2Proof

/-! ## Those that wait -/

/-- The lanes of an operation that wait for, or are held by, a page. -/
def Op.pageLanes (o : Op) (vp : Nat) (st : LaneSt) : List Nat :=
  (o.acc.filter fun a => a.st == st && a.addr / 8192 == vp).map (·.lane)

/-- An operation's lanes on a page translate again; a data fault of theirs is over, and the gang leaves its stop when it has no other
(01 R47; 16 R394, R396).  A held operation of a gang that is set aside stays held (16 R402). -/
def State.retryOp (s : State) (g tag vp : Nat) : State :=
  match s.op? g tag with
  | none => s
  | some o =>
    let mine (a : LaneAcc) : Bool := a.addr / 8192 == vp && (a.st == .walking || (a.st == .held && !(s.gang g).aside && o.fault == some .page && o.held.getLsbD a.lane))
    let held := o.held &&& ~~~laneBits ((o.acc.filter mine).map (·.lane))
    let s := s.modOp g tag fun o =>
      { (if o.fault = some .page then o.nextFault held else o) with
        acc := o.acc.map fun a => if mine a then { a with st := .xlat } else a, due := s.now, refused := false }
    let x := s.gang g
    if !x.faulted then s
    else if x.ops.any fun o => o.fault.isSome then
      if x.stop = some .fault then (s.modGang g fun x => { x with stop := none }).stopPoint g (addrPc x.tpc) x.resume else s
    else if x.stop = some .fault then s.leaveStop g
    else s

/-- The held operations of a gang that goes on re-issue where their page requests have been answered (01 R47; 16 R402, R405, R408). -/
def State.retryHeld (s : State) (g : Nat) : State :=
  (s.gang g).ops.foldl (fun s o =>
    let asks (vp : Nat) : Bool := (s.tower ((s.gang g).core / 48)).preqs.any fun q => q.vpage == vp && q.who.any fun w => w.1 == .gang g o.tag
    if o.fault = some .page ∧ !o.refused then
      ((o.acc.filter fun a => a.st == .held && o.held.getLsbD a.lane).map (·.addr / 8192)).dedup.foldl (fun s vp =>
        if asks vp then s else s.retryOp g o.tag vp) s
    else s) s

/-- What waits for a translation tries again. -/
def State.wakeX (s : State) (vp : Nat) (w : XWho) : State :=
  match w with
  | .gang g tag => s.retryOp g tag vp
  | .fetch g => if (s.gang g).slices.isEmpty then s else s.modGang g fun x => { x with fetchWait := false }
  | .copy u id =>
    (match s.copy? (copyKey u id) with
     | none => s
     | some _ => (s.modCopy (copyKey u id) fun c => { c with waits := false }).at s.now (.copyComplete (copyKey u id)))
  | .fill c =>
    (s.modCore c fun k => { k with fills := k.fills.map fun f => { f with waits := false } }).at s.now (.adapterFillComplete c 0)
  | .island c i => s.setIsland c i { (s.island c i) with waits := false }
  | .launch _ => s

/-- A fetch of the packet at `va` that fails for good: the gang stops before the packet with a CAUSE and TMASK 0 (16 R396, R475). -/
def State.fetchStop (s : State) (g va cause : Nat) : State :=
  let x := s.gang g
  let pc := addrPc (BitVec.ofNat 80 va)
  if x.slices.isEmpty then s
  else
    let s := s.modGang g fun x => { x with fetchWait := false, fetchRefused := none }
    if x.faulted then s.stopPoint g pc none else s.stopGang g ({ cause := cause } : Trap).tstat 0 pc none

/-- A fetch fault that is refused (16 R396); for a crew that is out, it is handled after its restore (R399). -/
def State.fetchRefusal (s : State) (g va : Nat) : State :=
  let x := s.gang g
  if x.slices.isEmpty then s
  else if !x.here then s.modGang g fun x => { x with fetchRefused := some va }
  else if (s.ten x.tenant).fctl1.getLsbD 16 then s.fetchStop g va 10
  else s.askCancel (s.crew x.crew).lent 3

/-- A page is refused to an engine: it is not tried again, and the engine goes on (16 R397). -/
def State.denyEngine (s : State) (vp : Nat) (w : XWho) : State :=
  match w with
  | .copy u id => (s.modCopy (copyKey u id) fun c => { c with refused := vp :: c.refused }).wakeX vp w
  | .fill c =>
    (s.modCore c fun k => { k with fills := k.fills.map fun f => if f.waits then { f with refused := vp :: f.refused } else f }).wakeX vp w
  | .island c i => (s.setIsland c i { (s.island c i) with refused := vp :: (s.island c i).refused }).wakeX vp w
  | .gang _ _ | .fetch _ | .launch _ => s

/-- The tower's engines as the SRC of an error record (20 R468). -/
def engineSrc (tower : Nat) : Nat := 128 * tower + 50

/-- A page request is refused to one that waits for it (16 R396, R397). -/
def State.refuseX (s : State) (tower tenant vp : Nat) (w : XWho × Nat × Nat) : State :=
  match w.1 with
  | .gang g tag =>
    (match s.op? g tag with
     | none => s
     | some _ => if (s.gang g).here then s.pageRefused g tag else s.modOp g tag fun o => { o with refused := true })
  | .fetch g => s.fetchRefusal g w.2.2
  | .copy _ _ | .fill _ | .island _ _ => (s.errorRecord 10 (engineSrc tower) (some tenant) w.2.2 0).denyEngine vp w.1
  | .launch _ => s

/-- A walk that met an uncorrectable error, for one that waits for it with address `va` (16 R475). -/
def State.badX (s : State) (vp : Nat) (w : XWho) (va : Nat) : State :=
  match w with
  | .gang g tag =>
    (match s.op? g tag with
     | none => s
     | some o =>
       let ls := o.pageLanes vp .walking
       if memKind o.i = .pref then
         s.modOp g tag fun o => { o with acc := o.acc.map fun a => if ls.contains a.lane then { a with st := .done } else a }
       else if ls.isEmpty then s
       else s.dataFault g tag .uncorrectable (laneBits ls))
  | .fetch g => s.fetchStop g va 15
  | .copy _ _ | .fill _ | .island _ _ => s.denyEngine vp w
  | .launch _ => s

/-! ## Walks (16 R389 to R394, R475) -/

/-- The message of a new page request of a tower (16 R394; 19 R451): each request is its own group, and Last is set. -/
def State.pageMsg (s : State) (t : Tower) (tenant vp need : Nat) : PageMsg :=
  { pasid := (s.ten tenant).pasid.toNat, addr := vp * 8192, r := need % 2 == 1, w := need / 2 % 2 == 1, x := need / 4 % 2 == 1
    group := ((List.range (t.preqs.length + 1)).find? fun k => !(t.preqs.any fun q => q.msg.group == k)).getD 0 }

/-- A translation failure: prefetch lanes are dropped (06 R168), a memory word takes a data fault, and whoever waits goes on the page
request of the page, which is sent where the tower has none (16 R394). -/
def State.failX (s : State) (tower tenant vp : Nat) (w : XWho × Nat × Nat) : State :=
  let ask (s : State) : State := s.modTower tower fun t =>
    let same (q : Walk) : Bool := q.tenant == tenant && q.vpage == vp
    if t.preqs.any same then
      { t with preqs := t.preqs.map fun q => (if same q && !q.who.contains w then { q with who := q.who ++ [w] } else q) }
    else { t with preqs := t.preqs ++ [{ tenant := tenant, vpage := vp, who := [w], msg := s.pageMsg t tenant vp w.2.1 }] }
  match w.1 with
  | .gang g tag =>
    (match s.op? g tag with
     | none => s
     | some o =>
       let ls := o.pageLanes vp .walking
       if memKind o.i = .pref then
         s.modOp g tag fun o => { o with acc := o.acc.map fun a => if ls.contains a.lane then { a with st := .done } else a }
       else if ls.isEmpty then s
       else (ask s).dataFault g tag .page (laneBits ls))
  | .fetch _ | .copy _ _ | .fill _ | .island _ _ => ask s
  | .launch _ => s

/-- The table entries of a walk that the page-walk cache takes (16 R392). -/
def cacheEntries (tenant va : Nat) (l : List (Nat × Nat × DWord)) : List (Nat × Nat × Nat × DWord) :=
  (l.filter fun e => e.1 != 0 && !e.2.2.getLsbD 1).map fun e => (tenant, e.1, va / 2 ^ (levelBits e.1).1, e.2.2)

/-- A walk is due. -/
def Walk.ready (w : Walk) (now : Nat) : Bool := w.due.any fun d => decide (d ≤ now)

/-- PAGE_WALK (16 R389 to R394, R475): a walk ends, whose entries have been read as non-caching reads at their homes.
Which entry a full L2 TLB or walk cache drops is DESIGN CHOICE (log entry 42). -/
def execPageWalk (tower n : Nat) (s : State) : Host.Outcome State Fault Refusal :=
  match (s.tower tower).walks[n]? with
  | none => .next s
  | some w =>
    if !w.ready s.now then .next s
    else
      let va := w.vpage * 8192
      let (res, path) := s.walkTree tower w.tenant va
      let (ok, s) := s.allReady (.engine tower) (2 + 8 * tower) 0 false (path.map fun e => (some e.2.1, 8))
      if !ok then
        .next (s.modTower tower fun t => { t with walks := t.walks.set n { w with due := some (s.now + 4) } })
      else
        let s := (s.modTower tower fun t => { t with walks := t.walks.eraseIdx n }).startWalks tower
        match res with
        | .bad a => .next (w.who.foldl (fun s x => s.badX w.vpage x.1 x.2.2) (s.errorRecord 2 (homeSrc (homeOf a)) (some w.tenant) a (homeOf a)))
        | .fail => .next (w.who.foldl (fun s x => s.failX tower w.tenant w.vpage x) s)
        | .ok e =>
          let s := s.modTower tower fun t =>
            { t with l2tlb := l2Put t.l2tlb e
                     pwc := ((cacheEntries w.tenant va path) ++ t.pwc.filter fun f => !(cacheEntries w.tenant va path).contains f).take
                       Config.walkCache }
          .next (w.who.foldl (fun s x => if e.allows x.2.1 then s.wakeX w.vpage x.1 else s.failX tower w.tenant w.vpage x) s)

/-! ## Page requests (16 R394 to R397; 19 R451) -/

/-- The crew of what waits. -/
def XWho.crewOf : XWho → Option Nat
  | .gang g _ => some (g / 16)
  | .fetch g => some (g / 16)
  | .copy _ _ | .fill _ | .island _ _ | .launch _ => none

/-- A crew that is swapped out, or on its way out, is dispatchable again once its page request is answered (16 R408, R414); one that a vacate
has named waits for the vacate's end. -/
def State.answered (s : State) (w : XWho) : State :=
  match XWho.crewOf w with
  | none => s
  | some u => if s.crews.any fun p => p.1 == u && p.2.saving == 1 then s.modCrew u fun c => { c with dispatchable := true } else s

/-- A page request of a tower is refused. -/
def State.refuseReq (s : State) (tower : Nat) (q : Walk) : State :=
  q.who.foldl (fun s w => (s.answered w.1).refuseX tower q.tenant q.vpage w) s

/-- PAGE_RESPONSE (16 R394 to R397, R399; 19 R451): Success makes what waits walk again; any other response refuses the request, and a
Response Failure every request.  Requests beyond the 256 that a tower may have outstanding are not yet sent. -/
def execPageResponse (tower n : Nat) (ans : PageAnswer) (s : State) : Host.Outcome State Fault Refusal :=
  match (s.tower tower).preqs[n]? with
  | none => .next s
  | some q =>
    if Config.pageReqs ≤ n then .next s
    else
      match ans with
      | .success =>
        let s := s.modTower tower fun t => { t with preqs := t.preqs.eraseIdx n }
        .next (q.who.foldl (fun s w => (s.answered w.1).wakeX q.vpage w.1) s)
      | .invalidRequest => .next ((s.modTower tower fun t => { t with preqs := t.preqs.eraseIdx n }).refuseReq tower q)
      | .responseFailure =>
        let (f, s) := s.free
        let all (t : Nat) : List Walk := (s.tower t).preqs.take Config.pageReqs
        let cut (s : State) (t : Nat) : State := s.modTower t fun x => { x with preqs := x.preqs.drop Config.pageReqs }
        let p0 := all 0
        let p1 := all 1
        let s := p0.foldl (fun s q => s.refuseReq 0 q) (cut (cut s 0) 1)
        .next ((p1.foldl (fun s q => s.refuseReq 1 q) s).errorRecord (f.toNat % 256) 49 (some q.tenant) 0 0)

end Sys2Proof.Machine
end

