-- ==== Sys2Proof/Machine/Mgmt.lean ====
section
/-! DEFINITION. Memory accesses of the management core and the scheduler (15 R364, R366, R479; 19 R441).  A write is a non-caching request
(10 R285): it is performed at once where its line is free, and otherwise waits at its home; the writes are performed in the order in which
they are made.  An act that reads waits until every line that it reads is ready: free, and recalled from its owner. -/

namespace Sys2Proof.Machine

open Sys2Proof

/-- The last write of the management core, of those not performed, that covers a byte. -/
def State.mgmtOver (s : State) (pa : Nat) : Option Msg :=
  (s.mgmtPending.filter fun m => m.line == pa / 128 && m.mask.getLsbD (pa % 128)).foldl (fun b m => match b with
    | none => some m
    | some x => if x.tag < m.tag then some m else some x) none

/-- A byte as a read of the management core returns it. -/
def State.mgmtByte (s : State) (pa : Nat) : Byte :=
  match s.mgmtOver pa with
  | some m => byteAt m.data (pa % 128)
  | none => s.byte pa

/-- Are some physical bytes ready for a read of the management core (10 R283, R285)?  Their lines are asked for where they are not. -/
def State.mgmtReady (s : State) (ps : List (Nat × Nat)) : Bool × State :=
  s.allReady .mgmt 9 0 false ((ps.flatMap fun p => piecesOf p.1 p.2).filterMap fun p => if s.isDevice p.1 then some (some p.1, p.2) else none)

/-- Bytes at a physical address; none where one of them is not in the address map or is uncorrectable. -/
def State.mgmtRead (s : State) (pa n : Nat) : Option (List Byte) :=
  let ks := (List.range n).map (pa + ·)
  if ks.all fun a => (s.isDevice a && !s.life.badMem.contains (a / 64)) || isHost a then some (ks.map s.mgmtByte) else none

/-- May a write of the management core be performed at once: nothing waits for its line, and no earlier one waits? -/
def State.mgmtFree (s : State) (ln : Nat) : Bool :=
  s.mgmtPending.isEmpty && !((s.home (lineHome ln)).stalled.any fun m => m.line == ln) && decide (max (s.hline ln).freeAt (s.hline ln).hold ≤ s.now) &&
    (s.readyFor ln).isEmpty && s.kind (s.range ln).slot != .through && (s.home (lineHome ln)).chg.isNone

/-- THE MANAGEMENT CORE WRITES masked bytes of a line (10 R285), which carry the releases `rs` (09 R273); a frozen line refuses them. -/
def State.mgmtLine (s : State) (ln : Nat) (data : List Byte) (mask : BitVec 128) (rs : List Rel) : State :=
  let rels := if rs.isEmpty then [] else ((List.range 128).filter fun k => mask.getLsbD k).map fun k => (k, rs)
  let pts := (rs.map (·.pts)).max?.getD 0
  let later (s : State) : State := s.mgmtSend ln data mask rels pts
  if !s.mgmtFree ln then later s
  else
    match (s.setHline ln { (s.hline ln) with freeAt := s.now + 1 }).ncLine ln (some (mask, data, rels)) pts with
    | (.wait, s) => later s
    | (_, s) => s

/-- THE MANAGEMENT CORE WRITES bytes at a physical address; bytes outside the address map are not written (19 R441). -/
def State.mgmtWrite (s : State) (pa : Nat) (d : List Byte) (rs : List Rel := []) : State :=
  let ok := d.zipIdx.filterMap fun p => if s.isDevice (pa + p.2) || isHost (pa + p.2) then some (pa + p.2, p.1) else none
  let s := (ok.filter fun p => isHost p.1).foldl (fun s p => s.setByte p.1 p.2) s
  let dev := ok.filter fun p => !isHost p.1
  ((dev.map fun p => p.1 / 128).dedup).foldl (fun s ln =>
    let here := dev.filter fun p => p.1 / 128 == ln
    s.mgmtLine ln ((List.range 128).map fun k => (here.lookup (128 * ln + k)).getD 0)
      (here.foldl (fun m p => m ||| (1#128 <<< (p.1 % 128))) 0) rs) s

/-- Writes a 64-bit word. -/
def State.mgmtWord (s : State) (pa : Nat) (w : DWord) (rs : List Rel := []) : State := s.mgmtWrite pa (leBytes 8 w.toNat) rs

/-! ## Virtual addresses of a tenant (15 R479) -/

/-- The translation of an address by the scheduler, which sends no page request. -/
def State.mgmtXlate (s : State) (tower tenant va need : Nat) : Option Nat :=
  match s.xlate2 tower tenant va need with
  | some pa => some pa
  | none => match s.walk tower tenant va need with
    | .ok e => some (e.pa va)
    | .fail => none
    | .bad _ => none

/-- The physical pieces of a virtual range; none where a page fails translation. -/
def State.mgmtPieces (s : State) (tower tenant va need n : Nat) : Option (List (Nat × Nat)) :=
  let l := (piecesOf va n).map fun p => (s.mgmtXlate tower tenant p.1 need).map fun a => (a, p.2)
  if l.all Option.isSome then some (l.filterMap id) else none

/-- Are the entries of a tenant's page tables for a range, and its bytes, ready for a read of the management core? -/
def State.tenReady (s : State) (tenant va n : Nat) : Bool × State :=
  let path := (piecesOf va n).flatMap fun p => (s.walkTree 0 tenant p.1).2.map fun e => (e.2.1, 8)
  match s.mgmtReady path.dedup with
  | (true, s) => s.mgmtReady ((s.mgmtPieces 0 tenant va needR n).getD [])
  | q => q

/-- Bytes at a virtual address of a tenant. -/
def State.tenRead (s : State) (tenant va n : Nat) : Option (List Byte) :=
  match s.mgmtPieces 0 tenant va needR n with
  | none => none
  | some l =>
    let bs := l.map fun p => s.mgmtRead p.1 p.2
    if bs.all Option.isSome then some (bs.filterMap id).flatten else none

/-- Writes bytes at a virtual address of a tenant; false where it fails translation. -/
def State.tenWrite (s : State) (tenant va : Nat) (d : List Byte) (rs : List Rel := []) : Bool × State :=
  match s.mgmtPieces 0 tenant va needW d.length with
  | none => (false, s)
  | some l =>
    (true, (l.foldl (fun (q : State × List Byte) p => (q.1.mgmtWrite p.1 (q.2.take p.2) rs, q.2.drop p.2)) (s, d)).1)

end Sys2Proof.Machine
end

