-- ==== Sys2Proof/Machine/Work.lean ====
section
/-! DEFINITION. Levels of work, their counters and their cancels (15 R362 to R364, R373, R384 to R386), completion of launches and retirement
of crews. -/

namespace Sys2Proof.Machine

open Sys2Proof

/-! ## Launch records (15 R369) -/

/-- A word of a launch record. -/
def Launch.w (la : Launch) (k : Nat) : DWord := (la.words[k]?).getD 0
/-- Crews of the launch's grid. -/
def Launch.total (la : Launch) : Nat := bits (la.w 6) 16 16 * bits (la.w 6) 32 16 * bits (la.w 6) 48 16
/-- An 80-bit address of a record: a word, and 16 bits of L1. -/
def Launch.va (la : Launch) (k hi : Nat) : Nat := (la.w k).toNat + 2 ^ 64 * bits (la.w 1) hi 16
def Launch.code (la : Launch) : Nat := la.va 0 0
def Launch.patchVa (la : Launch) : Nat := la.va 2 48
def Launch.crecVa (la : Launch) : Nat := la.va 3 32
def Launch.imageVa (la : Launch) : Nat := la.va 4 16
def Launch.vsz (la : Launch) : Nat := bits (la.w 5) 56 8
def Launch.npatch (la : Launch) : Nat := bits (la.w 5) 47 9
def Launch.tok (la : Launch) : Bool := (la.w 5).getLsbD 46
def Launch.minl (la : Launch) : Nat := bits (la.w 5) 44 2
def Launch.ngangs (la : Launch) : Nat := bits (la.w 5) 40 4 + 1
def Launch.nvd (la : Launch) : Nat := bits (la.w 5) 36 4
def Launch.width (la : Launch) : Nat := if bits (la.w 5) 34 2 = 0 then 16 else if bits (la.w 5) 34 2 = 1 then 32 else 64
def Launch.cw (la : Launch) : Nat := bits (la.w 5) 30 2
def Launch.ch (la : Launch) : Nat := bits (la.w 5) 32 2
/-- Bits of L7. -/
def Launch.flag (la : Launch) (k : Nat) : Bool := (la.w 7).getLsbD k

/-! ## Queues and levels -/

def State.queue (s : State) (t q : Nat) : Queue := Sparse.get {} (s.ten t).queues q
def State.modQueue (s : State) (t q : Nat) (f : Queue → Queue) : State :=
  s.modTen t fun x => { x with queues := Sparse.set {} x.queues q (f (Sparse.get {} x.queues q)) }

/-- Steps from record index `a` to `b`. -/
def idxDist (a b : Nat) : Nat := (b + 2 ^ 32 - a % 2 ^ 32) % 2 ^ 32

/-- A level of a queue. -/
def Queue.level (x : Queue) (kind first : Nat) : Option Level := x.levels.find? fun l => l.kind == kind && l.first == first
/-- Changes a level. -/
def State.modLevel (s : State) (t q kind first : Nat) (f : Level → Level) : State :=
  s.modQueue t q fun x => { x with levels := x.levels.map fun l => if l.kind = kind ∧ l.first = first then f l else l }

/-- Unfinished launches of a graph, in record order. -/
def State.nodesOf (s : State) (t q graph : Nat) : List (Nat × Launch) :=
  orderBy (fun a b => decide (idxDist graph a.2.n ≤ idxDist graph b.2.n))
    (s.lents.filter fun p => p.2.used && !p.2.finished && p.2.tenant == t && p.2.queue == q && p.2.graph == graph)

/-! ## Counters (15 R363, R365) -/

/-- STATE of a counter. -/
def Level.state (l : Level) : Nat := if l.cause ≠ 0 then 3 else if l.fin then 2 else if l.closed then 1 else 0

/-- SEQ of a level: its oldest unfinished member; with none, the members so far. -/
def State.levelSeq (s : State) (t q : Nat) (l : Level) : Nat :=
  let open_ := if l.kind = 1 then (s.nodesOf t q l.first).map fun p => idxDist l.first p.2.n
    else ((s.queue t q).levels.filter fun m => m.kind + 1 == l.kind && m.up == l.first && !m.fin).map (·.idx)
  open_.min?.getD l.members

/-- The counter of a level (15 R363); in state DONE or CANCELLED it never changes again. -/
def State.levelWord (s : State) (t q : Nat) (l : Level) : DWord :=
  if l.fin then l.word else pack [(62, l.state), (56, l.cause), (32, s.levelSeq t q l % 2 ^ 24), (0, l.unfin)]

/-- The level in its final state with SEQ `seq`: CANCELLED with its CAUSE, or DONE. -/
def Level.final (l : Level) (cause seq : Nat) : Level :=
  { l with fin := true, unfin := 0, cause := cause, word := pack [(62, if cause = 0 then 2 else 3), (56, cause), (32, seq % 2 ^ 24)] }

/-- The member of a level that its block shows: the oldest unfinished, else the last. -/
def Queue.shown (x : Queue) (kind up : Nat) : Option Level :=
  let l := x.levels.filter fun m => m.kind == kind && m.up == up
  match l.find? fun m => !m.fin with
  | some m => some m
  | none => l.getLast?

/-- The base of the completion blocks: bits [79:6] (19 R443). -/
def Tenant.carea (x : Tenant) : Nat := x.carea0.toNat / 64 * 64 + 2 ^ 64 * bits x.carea1 48 16

/-- What releases bring, together. -/
def knowAll (rs : List Rel) : Know := rs.foldl (fun k r => k.join { pts := r.pts, vc := r.vc }) {}

/-- Has a launch ended, or the graph that it belongs to? -/
def State.ended (s : State) (la : Launch) : Bool := la.finished || ((s.queue la.tenant la.queue).level 1 la.graph).any (·.fin)

/-- The cancelled launches of a level whose crews have not all retired. -/
def State.draining (s : State) (t q : Nat) (l : Level) : List Nat :=
  (s.lents.filter fun p => p.2.used && s.ended p.2 && p.2.tenant == t && p.2.queue == q && decide (idxDist l.first p.2.n < l.recs) &&
    s.crews.any fun c => c.2.lent == p.1).map (·.1)

/-- The values of a job slot's counters that wait for no crew are written, in their order, each as a release at HOST scope of the accesses of the
crews that it counts (15 R364). -/
def State.payJob (s : State) (t j : Nat) : State :=
  let x := Sparse.get ({} : Job) (s.ten t).jobs j
  let now := x.owed.takeWhile fun e => e.2.2.2.1.isEmpty
  let s := s.modTen t fun k => { k with jobs := Sparse.set {} k.jobs j { x with owed := x.owed.drop now.length } }
  now.foldl (fun s e => s.mgmtWrite ((s.ten t).carea + 64 * j)
    (leBytes 8 e.1.toNat ++ leBytes 8 e.2.1.toNat ++ leBytes 8 e.2.2.1.toNat ++ List.replicate 40 0) [mgmtRel .host e.2.2.2.2]) s

/-- The completion block of a job is written if a counter of it has changed (15 R364, R365), once the crews that it counts have retired. -/
def State.postJob (s : State) (t q : Nat) (l : Level) : State :=
  match l.slot with
  | none => s
  | some j =>
    let x := s.queue t q
    let old := Sparse.get ({} : Job) (s.ten t).jobs j
    let ph := x.shown 2 l.first
    let g := ph.bind fun p => x.shown 1 p.first
    let new : Job := { old with
      job := s.levelWord t q l, phase := (ph.map (s.levelWord t q)).getD old.phase, graph := (g.map (s.levelWord t q)).getD old.graph }
    if new = old then s
    else
      let e := (new.job, new.phase, new.graph, s.draining t q l, l.know)
      (s.modTen t fun k => { k with jobs := Sparse.set {} k.jobs j { new with owed := old.owed ++ [e] } }).payJob t j

/-- The completion blocks of a queue's jobs. -/
def State.post (s : State) (t q : Nat) : State :=
  ((s.queue t q).levels.filter fun l => l.kind == 3).foldl (fun s l => s.postJob t q l) s

/-- Levels that are closed and final leave the list; a job's slot is free again (15 R370). -/
def State.prune (s : State) (t q : Nat) : State :=
  let gone := (s.queue t q).levels.filter fun l => l.closed && l.fin
  let s := s.modQueue t q fun x => { x with levels := x.levels.filter fun l => !(l.closed && l.fin) }
  (gone.filter fun l => l.kind == 3).foldl (fun s l => match l.slot with
    | none => s
    | some j => s.modTen t fun k => { k with jobs := Sparse.set {} k.jobs j { (Sparse.get ({} : Job) k.jobs j) with queue := none } }) s

/-- A level counts one unfinished member less. -/
def State.lessOne (s : State) (t q kind first : Nat) : State :=
  (s.modLevel t q kind first fun l => if l.fin then l else { l with unfin := l.unfin - 1 }).post t q

/-- Is a level complete now? -/
def State.isDone (s : State) (t q kind first : Nat) : Bool :=
  match (s.queue t q).level kind first with
  | none => false
  | some l => l.closed && l.unfin == 0 && !l.fin

/-- A level becomes DONE. -/
def State.markDone (s : State) (t q kind first : Nat) : State :=
  (s.modLevel t q kind first fun l => l.final 0 (s.levelSeq t q l)).post t q

/-- A job that is complete becomes DONE. -/
def State.checkJob (s : State) (t q first : Nat) : State := if s.isDone t q 3 first then s.markDone t q 3 first else s

/-- A phase that is complete becomes DONE, and is a finished member of its job. -/
def State.checkPhase (s : State) (t q first : Nat) : State :=
  if s.isDone t q 2 first then
    let up := ((s.queue t q).level 2 first).map (·.up)
    let s := s.markDone t q 2 first
    match up with
    | none => s
    | some j => (s.lessOne t q 3 j).checkJob t q j
  else s

/-- The releases of earlier graphs that a graph's launches acquire (15 R376); OVERLAP gives no ordering (R375). -/
def Queue.relsFor (x : Queue) (g : Level) : List Rel :=
  (x.rels.filter fun r => (g.prev == some r.1 && !g.overlap) || g.prevPhase == some r.2.1).flatMap fun r => r.2.2

/-- The releases of a graph's completed launches; where one is cancelled, or the graph is, also those that it would have passed on (09 R273). -/
def Level.rels (x : Queue) (l : Level) : List Rel :=
  ((l.ends.filter fun e => !e.2.1).flatMap fun e => e.2.2) ++ if l.cause ≠ 0 ∨ l.ends.any fun e => e.2.1 then x.relsFor l else []

/-- A graph ends: launches that follow it acquire its releases (15 R376). -/
def Queue.passOn (x : Queue) (l : Level) : Queue := { x with rels := x.rels ++ [(l.first, l.up, (l.rels x).foldl addRel [])] }

/-- A graph that is complete becomes DONE, and is a finished member of its phase; later graphs may acquire its releases. -/
def State.checkGraph (s : State) (t q first : Nat) : State :=
  if s.isDone t q 1 first then
    match (s.queue t q).level 1 first with
    | none => s
    | some l =>
      let s := s.markDone t q 1 first
      let s := s.modQueue t q fun x => x.passOn l
      (s.lessOne t q 2 l.up).checkPhase t q l.up
  else s

/-! ## Launches -/

/-- The counter of a launch (15 R363). -/
def Launch.word (la : Launch) (state : Nat) : DWord :=
  pack [(62, state), (56, la.cancel), (32, la.disp % 2 ^ 24), (0, if state = 3 then 0 else la.total - la.retired)]

/-- The launch counter is written to CREC, where the record asks for it (15 R363, R373, R479), as a release at HOST scope of the accesses of the
crews that it counts (R364). -/
def State.writeCrec (s : State) (la : Launch) (state : Nat) : State :=
  if !la.flag 8 then s
  else
    match s.tenWrite la.tenant la.crecVa (leBytes 8 (la.word state).toNat) [mgmtRel .host (knowAll la.out)] with
    | (true, s) => s
    | (false, s) => s.errorRecord 11 51 (some la.tenant) la.crecVa 2

/-- The launch counter has changed and is not final: the spec does not say whether such a value is written to CREC too (log entry 22), which a free
value decides. -/
def State.crecMid (s : State) (l : Nat) : State :=
  let la := s.launch l
  if !la.flag 8 || la.finished then s
  else
    let (f, s) := s.free
    if f.getLsbD 0 then s.writeCrec la 1 else s

/-- The job of a graph. -/
def Queue.jobOf (x : Queue) (graph : Nat) : Option Nat := (x.level 1 graph).bind fun g => (x.level 2 g.up).map (·.up)

/-- A launch ends: it is a finished node of its graph. -/
def State.endNode (s : State) (la : Launch) (cancelled : Bool) : State :=
  let s := s.modLevel la.tenant la.queue 1 la.graph fun l =>
    { l with ends := l.ends ++ [(la.n, cancelled, if cancelled then [] else la.out)] }
  let s := match (s.queue la.tenant la.queue).jobOf la.graph with
    | none => s
    | some j => s.modLevel la.tenant la.queue 3 j fun l => { l with know := l.know.join (knowAll la.out) }
  ((s.lessOne la.tenant la.queue 1 la.graph).checkGraph la.tenant la.queue la.graph).prune la.tenant la.queue

/-- A launch whose crews have all retired holds back no counter of its tenant, and its accesses are released with those that it held back. -/
def State.unblock (s : State) (l : Nat) (la : Launch) : State :=
  let done (e : DWord × DWord × DWord × List Nat × Know) : DWord × DWord × DWord × List Nat × Know :=
    match e with
    | (a, b, c, ls, k) => if ls.contains l then (a, b, c, ls.filter (· != l), k.join (knowAll la.out)) else e
  let cut (x : Job) : Job := { x with owed := x.owed.map done }
  let s := s.modTen la.tenant fun k => { k with jobs := k.jobs.map fun p => (p.1, cut p.2) }
  (s.ten la.tenant).jobs.foldl (fun s p => if p.2.owed.isEmpty then s else s.payJob la.tenant p.1) s

/-- A finished launch is forgotten once no crew of it is left; the counter of a cancelled one is written then (15 R364). -/
def State.freeLaunch (s : State) (l : Nat) : State :=
  let la := s.launch l
  if la.finished && !(s.crews.any fun p => p.2.lent == l) then
    let s := if la.cancel = 0 then s else s.writeCrec la 3
    (s.setLaunch l {}).unblock l la
  else s

/-- A LAUNCH COMPLETES (15 R373): its counter, its successors and the levels above, its event, its interrupt. -/
def State.launchDone (s : State) (l : Nat) : State :=
  let la := s.launch l
  let s := s.setLaunch l { la with finished := true }
  let s := s.writeCrec la 2
  let next := (s.nodesOf la.tenant la.queue la.graph).filter fun p => p.2.preds.contains la.n
  let s := next.foldl (fun s p => s.modLaunch p.1 fun x =>
    { x with preds := x.preds.filter fun k => k != la.n, rels := la.out.foldl addRel x.rels }) s
  let s := s.endNode la false
  let s := if la.flag 9 then s.evOp 0 0 (evKey la.tenant (bits (la.w 9) 16 16)) (.launch l) 0 la.out else s
  let s := if la.flag 11 then s.raiseAfter (32 * la.tenant + bits (la.w 7) 24 5) else s
  s.freeLaunch l

/-- Gangs of a crew. -/
def State.gangsOf (s : State) (u : Nat) : List (Nat × Gang) := s.gangs.filter fun p => p.2.crew == u

/-- The releases of a crew's retirement (09 R273): of its gangs, and of its copies and other operations. -/
def State.retireRels (s : State) (u : Nat) : List Rel :=
  (s.gangsOf u).map (fun p =>
    { who := s.issuer p.1, scope := .device, pts := p.2.pts, vc := Sparse.set 0 p.2.vc p.2.iss p.2.clk : Rel }) ++
  let k := (s.crew u).opsDone
  if k = {} then [] else [{ who := s.opIssuer u, scope := .device, pts := k.pts, vc := k.vc }]

/-! ## Cancels (15 R385, R386) -/

/-- The context of a saved crew goes, and the crew with it. -/
def State.dropCrew (s : State) (u : Nat) : State :=
  { s with crews := s.crews.filter fun p => p.1 != u, gangs := s.gangs.filter fun p => p.2.crew != u }

/-- The retired crews of a launch's clusters go, with their windows, once no crew of their cluster is left that is resident or saved (08 R239). -/
def State.freeClusters (s : State) (l : Nat) : State :=
  let n := (s.launch l).cw * (s.launch l).ch
  let mine := s.crews.filter fun p => p.2.lent == l && p.2.pos != 0
  let dead (c : Crew) : Bool := !(mine.any fun p => p.2.idx / n == c.idx / n && (p.2.here || p.2.saved))
  (mine.filter fun p => dead p.2).foldl (fun s p => s.dropCrew p.1) s

/-- The act by which a copy goes on: its follow-on word, its records, or its next vector. -/
def Copy.nextAct (cp : Copy) (u : Nat) : Instr :=
  if cp.moved then .followOnIssue (copyKey u cp.id) else if cp.recs.isEmpty then .copyComplete (copyKey u cp.id) else .copyqRecordDelivery (copyKey u cp.id)

/-- The started copies of a crew that a save had stopped go on (16 R407, R408). -/
def State.resumeCopies (s : State) (u : Nat) : State :=
  (s.crew u).copies.foldl (fun s cp =>
    if cp.started && !cp.waits && !(s.agenda.any fun a => a.2 == cp.nextAct u) then s.at s.now (cp.nextAct u) else s) s

/-- Waits of a launch's gate go away. -/
def State.dropGate (s : State) (l : Nat) : State :=
  { s with events := s.events.map (fun p => (p.1, { p.2 with waits := p.2.waits.filter fun w => w.1 != .launch l }))
           towers := s.towers.map fun p => (p.1, { p.2 with evq := p.2.evq.filter fun w => !(w.1 == 1 && w.2.2.1 == .launch l) }) }

/-- A crew leaves its tide groups (06 R188). -/
def State.leaveTides (s : State) (u : Nat) (rels : List Rel) : State :=
  ((s.tides.filter fun p => p.2.members.contains (.crew u) || p.2.joining.contains (.crew u)).map (·.1)).foldl
    (fun s n => s.tideLeave n (.crew u) rels) s

/-- Posted bind records of a launch are free at once, and its reservations with them (15 R378). -/
def State.dropPosts (s : State) (l : Nat) : State :=
  let tower (t : Tower) : Tower :=
    let slots := t.slots.filter fun p => !(p.2.st == .posted && bits p.2.b0 21 11 == l % 2048)
    { t with slots := slots, groups := t.groups.filter fun g => slots.any fun p => p.2.st == .posted && bits p.2.b1 32 13 == g.1 }
  { s with towers := s.towers.map fun p => (p.1, tower p.2) }

/-- A launch is cancelled (15 R386): its counter takes the cancelled value, its gangs end, and it is a finished node. -/
def State.cancelOne (s : State) (l cause : Nat) : State :=
  let la := s.launch l
  if !la.used || la.finished then s
  else
    let la := { la with cancel := if la.cancel ≠ 0 then la.cancel else cause, finished := true }
    let s := ((s.setLaunch l la).dropPosts l).dropGate l
    let out := s.crews.filter fun p => p.2.lent == l && p.2.saved
    let s : State := (out.foldl (fun s p => (s.leaveTides p.1 (s.retireRels p.1)).dropCrew p.1) s).freeClusters l
    let halted := s.crews.filter fun p => p.2.lent == l && p.2.here && p.2.saving != 0
    let s : State := { s with crews := s.crews.map fun p => if p.2.lent = l then (p.1, { p.2 with cancelled := true, saving := 0 }) else p }
    let s := halted.foldl (fun s p => s.resumeCopies p.1) s
    let gs := s.gangs.filter fun p => p.2.here && (s.crew p.2.crew).lent == l
    let s := gs.foldl (fun s p => s.cancelGang p.1) s
    (s.endNode la true).freeLaunch l

/-- Launches of a graph with a cancelled predecessor are cancelled with CAUSE 6 (15 R373), in record order. -/
def State.cancelNext (s : State) (t q graph : Nat) : State :=
  (s.nodesOf t q graph).foldl (fun s p =>
    let dead := (((s.queue t q).level 1 graph).map fun l => (l.ends.filter fun e => e.2.1).map (·.1)).getD []
    if p.2.preds.any dead.contains then s.cancelOne p.1 6 else s) s

/-- THE CANCEL OF A LAUNCH. -/
def State.cancelLaunch (s : State) (l cause : Nat) : State :=
  let la := s.launch l
  (s.cancelOne l cause).cancelNext la.tenant la.queue la.graph

/-- The counters of a level and of those below it take their cancelled values, with the SEQs that `seq` gives, and graphs that are not over pass on what
their completed launches release (15 R376); answers the graphs whose launches end with them. -/
def Queue.cut (x : Queue) (kind first cause : Nat) (seq : Level → Nat) : Queue × List Nat :=
  let phases := (x.levels.filter fun l => l.kind == 2 && (if kind = 3 then l.up == first else kind == 2 && l.first == first)).map (·.first)
  let graphs := (x.levels.filter fun l => l.kind == 1 && (if kind = 1 then l.first == first else phases.contains l.up)).map (·.first)
  let hit (l : Level) : Bool :=
    !l.fin && ((l.kind == kind && l.first == first) || (l.kind == 2 && phases.contains l.first) || (l.kind == 1 && graphs.contains l.first))
  let mark (l : Level) : Level :=
    if hit l then l.final (if l.kind = kind ∧ l.first = first then cause else 6) (seq l) else l
  let lost := (x.levels.filter fun l => l.kind == 1 && hit l).map mark
  (lost.foldl Queue.passOn { x with levels := x.levels.map mark }, graphs)

/-- THE CANCEL OF A GRAPH, PHASE OR JOB: with every level below it, whose CAUSE is 6. -/
def State.cancelLevel (s : State) (t q kind first cause : Nat) : State :=
  match (s.queue t q).level kind first with
  | none => s
  | some l =>
    if l.fin then s
    else
      let (x, graphs) := (s.queue t q).cut kind first cause (s.levelSeq t q)
      let s := (s.modQueue t q fun _ => x).post t q
      let s := graphs.foldl (fun s g => (s.nodesOf t q g).foldl (fun s p => s.cancelOne p.1 6) s) s
      let s := match kind with
        | 1 => (s.lessOne t q 2 l.up).checkPhase t q l.up
        | 2 => (s.lessOne t q 3 l.up).checkJob t q l.up
        | _ => s
      s.prune t q

/-- The level of a kind that a record belongs to. -/
def Queue.covering (x : Queue) (kind n : Nat) : Option Level :=
  x.levels.find? fun l => l.kind == kind && decide (idxDist l.first n < l.recs)

/-- A cancel request whose record has been taken in acts on its level. -/
def State.cancelAct (s : State) (t : Nat) (req : DWord) : State :=
  let q := bits req 58 4
  let n := bits req 0 32
  match bits req 62 2 with
  | 0 =>
    (match s.lents.find? fun p => p.2.used && !p.2.finished && p.2.tenant == t && p.2.queue == q && p.2.n == n with
     | none => s
     | some p => s.cancelLaunch p.1 1)
  | k => match (s.queue t q).covering k n with
    | none => s
    | some l => s.cancelLevel t q k l.first 1

/-- A cancel request of a tenant (15 R385; 19 R450): one that names a record not yet taken in is held, or lost with the service vector
raised. -/
def State.cancelReq (s : State) (t : Nat) (req : DWord) : State :=
  if !(s.ten t).live then s
  else
    let d := idxDist (bits req 0 32) (s.queue t (bits req 58 4)).prog.toNat
    if 0 < d ∧ d < 2 ^ 31 then s.cancelAct t req
    else if (s.ten t).cancels.contains req then s
    else if (s.ten t).cancels.length < 16 then s.modTen t fun x => { x with cancels := x.cancels ++ [req] }
    else s.service t

/-- CANCEL (15 R385, R386; 19 R450): a request names a level. -/
def execCancel (t : Nat) (req : DWord) (s : State) : Host.Outcome State Fault Refusal := .next (s.cancelReq t req)

/-! ## Retirement (15 R384) -/

/-- Is nothing of a gang left that retirement waits for: stores, atomics, fences, arrivals, ISLRECVs, writes of the vault? -/
def Gang.settled (x : Gang) : Bool :=
  !(x.slices.any fun k => k.live) && x.wb.isEmpty && x.ops.all fun o => !(o.unfinished || o.releasing || o.i matches .islrecv ..)

/-- Has an L1 dirty LEASE bytes of a gang? -/
def State.holdsDirty (s : State) (c g : Nat) : Bool := (s.core c).l1.any fun p => p.2.gangs.contains g && p.2.dirty != 0#128

/-- May a crew act towards its retirement now? -/
def State.canRetire (s : State) (u : Nat) (cr : Crew) : Bool :=
  let c := s.core cr.core
  cr.here && cr.saving == 0 && ((s.gangsOf u).all fun p => p.2.settled) && (cr.copies.all fun k => !k.started) &&
    ((c.minsts.filter fun m => m.crew == u).all fun m => cr.cancelled && !(c.pass.any fun p => p.inst == m.id)) &&
    ((s.gangsOf u).any (fun p => s.holdsDirty cr.core p.1) || !((s.gangsOf u).any fun p => s.wrtOut p.1))

/-- What a crew holds on its core is free. -/
def State.leaveCore (s : State) (u : Nat) : State :=
  let cr := s.crew u
  let core (c : Core) : Core :=
    let own := c.tokOwner == some u
    { c with tokOwner := if own then none else c.tokOwner
             toks := if own then [.engine, .engine, .engine, .engine] else c.toks
             adcache := if own then [] else c.adcache
             adinv := if own then [] else c.adinv
             minsts := c.minsts.filter fun m => m.crew != u
             fills := c.fills.filter fun f => !(c.minsts.any fun m => m.crew == u && m.id == f.inst) }
  let s := s.modCore cr.core core
  s.modTower (cr.core / 48) fun t =>
    { t with slots := t.slots.filter fun p => !(p.2.st == .resident && bits p.2.b0 21 11 == cr.lent % 2048 &&
        bits p.2.b0 32 32 == cr.idx && bits p.2.b0 6 4 == cr.cslot && bits p.2.b0 10 6 == cr.core % 48) }

/-- Waits of a crew's gangs on events and tide groups go away. -/
def State.dropWaits (s : State) (u : Nat) : State :=
  let mine (w : XWho) : Bool := XWho.crewOf w == some u
  { s with
    events := s.events.map (fun p => (p.1, { p.2 with waits := p.2.waits.filter fun w => !mine w.1 }))
    tides := s.tides.map fun p => (p.1, { p.2 with waits := p.2.waits.filter fun w => w.1 / 16 != u }) }

/-- A CREW RETIRES. -/
def State.retireCrew (s : State) (u : Nat) : State :=
  let cr := s.crew u
  let rels := s.retireRels u
  let s := ((s.leaveTides u rels).leaveCore u).dropWaits u
  let s := { s with gangs := s.gangs.filter fun p => p.2.crew != u }
  let s := if cr.pos = 0 then s.dropCrew u
    else
      (s.setCrew u { cr with here := false, saved := false, copies := [], timer := none }).freeClusters cr.lent
  let s := s.modLaunch cr.lent fun x => { x with retired := x.retired + 1, out := rels.foldl addRel x.out }
  let s := s.crecMid cr.lent
  let la := s.launch cr.lent
  if la.finished then s.freeLaunch cr.lent
  else if la.retired = la.total ∧ la.disp = la.total then s.launchDone cr.lent
  else s

/-- CREW_RETIRE (15 R384): the gangs' dirty LEASE bytes go home first; once they are acknowledged the crew retires. -/
def execCrewRetire (u : Nat) (s : State) : Host.Outcome State Fault Refusal :=
  let cr := s.crew u
  if !s.canRetire u cr then .next s
  else
    let dirty := (s.gangsOf u).filter fun p => s.holdsDirty cr.core p.1
    if dirty.isEmpty then .next (s.retireCrew u) else .next (dirty.foldl (fun s p => s.flushGang cr.core p.1) s)

end Sys2Proof.Machine
end

