-- ==== Sys2Proof/Machine/Launch.lean ====
section
/-! DEFINITION. Intake of launch records and the start of launches (15 R366 to R376, R479; 17 R425, R426; 19 R445). -/

namespace Sys2Proof.Machine

open Sys2Proof

/-! ## Queues (15 R366, R367) -/

/-- The ring address of a queue. -/
def Queue.base (x : Queue) : Nat := x.qd0.toNat + 2 ^ 64 * bits x.qd1 48 16
def Queue.lsize (x : Queue) : Nat := bits x.qd1 36 5
def Queue.prio (x : Queue) : Nat := bits x.qd1 32 4
/-- 0 RT, 1 GFX, 2 COMPUTE, 3 BULK. -/
def Queue.cls (x : Queue) : Nat := bits x.qd1 30 2
def Queue.en (x : Queue) : Bool := x.qd1.getLsbD 29
/-- Is the queue served: enabled, with a size from 4 to 20, and not out? -/
def Queue.served (x : Queue) : Bool := x.en && decide (4 ≤ x.lsize) && decide (x.lsize ≤ 20) && x.sw == 0
/-- Records that are still to be taken in; a tail behind the progress pointer is not ahead of it. -/
def Queue.ahead (x : Queue) : Nat :=
  let d := idxDist x.prog.toNat x.tail.toNat
  if d < 2 ^ 31 then d else 0

/-- A tail too far ahead disables the queue (15 R367; 19 R449; 20 R468). -/
def State.checkTail (s : State) (t q : Nat) : State :=
  let x := s.queue t q
  if x.served && decide (2 ^ x.lsize < x.ahead) then
    let s := s.modQueue t q fun x => { x with qerr := true, qd1 := x.qd1 &&& ~~~(1#64 <<< 29) }
    (s.errorRecord 11 51 (some t) x.base 1).service t
  else s

/-- Entries of the dependence table that a tenant holds, and those of all tenants (15 R371). -/
def State.entriesOf (s : State) (t : Nat) : Nat := (s.lents.filter fun p => p.2.used && !p.2.finished && p.2.tenant == t).length

/-- Is an entry of the dependence table taken: by a launch that has neither completed nor been cancelled (15 R371)?  The model's number of a
launch is its entry plus a multiple of 2,048, since the crews of a cancelled launch may outlast its place in the table (DESIGN CHOICE, log entry 37). -/
def State.entryUsed (s : State) (e : Nat) : Bool := s.lents.any fun p => p.1 % 2048 == e && p.2.used && !p.2.finished

/-- The number of a new launch: in the lowest free entry. -/
def State.freeLent (s : State) : Option Nat :=
  ((List.range 2048).find? fun e => !s.entryUsed e).bind fun e =>
    ((List.range (s.lents.length + 1)).map fun k => e + 2048 * k).find? fun l => !(s.launch l).used

/-- The launch that a bind record's LENT names: the one that holds the entry. -/
def State.lentOf (s : State) (b0 : DWord) : Nat :=
  ((s.lents.find? fun p => p.1 % 2048 == bits b0 21 11 && p.2.used && !p.2.finished).map (·.1)).getD (bits b0 21 11)

/-- May the next record of a queue be taken in? -/
def State.canIntake (s : State) (t q : Nat) : Bool :=
  let x := s.queue t q
  (s.ten t).live && !(s.ten t).dying && s.life.booted && x.served && x.ahead != 0 && decide (s.entriesOf t < 256) && s.freeLent.isSome

/-! ## Images (17 R425, R426) -/

/-- The container at an address, read by its SIZE field; none where a page fails translation. -/
def State.readContainer (s : State) (t va : Nat) : Option (List Byte) :=
  match s.tenRead t va 128 with
  | none => none
  | some h => s.tenRead t va (max 128 (fieldAt h 28 4))

/-- Is a container ready to be read? -/
def State.containerReady (s : State) (t va : Nat) : Bool × State :=
  match s.tenReady t va 128 with
  | (true, s) => s.tenReady t va (max 128 (((s.tenRead t va 128).map fun h => fieldAt h 28 4).getD 0))
  | q => q

/-- The image that a launch names: from the tenant's table, or verified afresh, which takes time, measures it and enters it in the
table; none where it is refused. -/
def State.namedImage (s : State) (t va : Nat) : Option (Image × Nat) × State :=
  match (s.ten t).images.lookup va with
  | some m => (some (m, s.now), s.modTen t fun x => { x with images := (va, m) :: x.images.filter fun p => p.1 != va })
  | none =>
    match s.readContainer t va with
    | none => (none, s)
    | some b =>
      match verifyImage b false with
      | none => (none, s.errorRecord 6 51 (some t) 0 (fieldAt b 12 4))
      | some m =>
        let (d, s) := s.popLag
        let s := s.extend 6 (sha384 (b.take (fieldAt b 28 4)))
        (some (m, s.now + min 4200000 (210000 + d)), s.modTen t fun x => { x with images := ((va, m) :: x.images).take 64 })

/-- IMGFLUSH (17 R426; 19 R443): the key is dropped. -/
def execImgflush (t : Nat) (val : DWord) (s : State) : Host.Outcome State Fault Refusal :=
  .next (s.modTen t fun x => { x with images := x.images.filter fun p => p.1 != val.toNat })

/-! ## Intake (15 R362, R367, R370, R371) -/

/-- The conditions on a record's own fields (15 R370). -/
def Launch.fieldsOk (la : Launch) : Bool :=
  la.code % 16 == 0 && la.patchVa % 4 == 0 && la.crecVa % 8 == 0 && bits (la.w 5) 34 2 != 3 && decide (2 ≤ la.nvd) &&
    decide (la.nvd ≤ 12) && decide (la.vsz ≤ 192) && decide (la.npatch ≤ 256) && decide (la.total ≤ 2 ^ 32 - 1) &&
    ((la.cw == 0 && la.ch == 0) || (la.cw != 0 && la.ch != 0 && la.total % (la.cw * la.ch) == 0 && la.tok)) &&
    (!la.flag 11 || decide (bits (la.w 7) 24 5 ≤ 30))

/-- The open level of a kind. -/
def Queue.openLevel (x : Queue) (kind : Nat) : Option Level := x.levels.find? fun l => l.kind == kind && !l.closed

/-- Is a level cancelled? -/
def Level.dead (l : Level) : Bool := l.fin && l.cause != 0

/-- A new member of a level. -/
def Queue.member (x : Queue) (kind first : Nat) : Queue :=
  { x with levels := x.levels.map fun l =>
      if l.kind = kind ∧ l.first = first then { l with members := l.members + 1, unfin := if l.fin then 0 else l.unfin + 1 } else l }

/-- The levels that record `n` belongs to are opened where they are not open: job, phase, graph. -/
def Queue.openFor (x : Queue) (n : Nat) (overlap : Bool) : Queue :=
  let x : Queue := match x.openLevel 3 with
    | some _ => x
    | none => { x with levels := x.levels ++ [{ kind := 3, first := n }] }
  let job : Level := (x.openLevel 3).getD { kind := 3, first := n }
  let x : Queue := match x.openLevel 2 with
    | some _ => x
    | none =>
      let l : Level := { kind := 2, first := n, up := job.first, idx := job.members, prevPhase := x.lastPhase }
      let l := if job.dead then l.final 6 0 else l
      let old := x.lastPhase
      let x := { x with levels := x.levels ++ [l], lastPhase := some n, rels := x.rels.filter fun r => old == some r.2.1 }
      x.member 3 job.first
  let ph : Level := (x.openLevel 2).getD { kind := 2, first := n }
  match x.openLevel 1 with
  | some _ => x
  | none =>
    let lead := ph.members == 0
    let l : Level :=
      { kind := 1, first := n, up := ph.first, idx := ph.members, overlap := overlap && !lead
        prev := if lead then none else x.lastGraph, prevPhase := ph.prevPhase }
    let l := if ph.dead then l.final 6 0 else l
    let x := { x with levels := x.levels ++ [l], lastGraph := some n }
    (if ph.dead then x.passOn l else x).member 2 ph.first

/-- The record counts in its levels, and closes those that it ends (15 R362). -/
def Queue.enter (x : Queue) (gend pend jend : Bool) : Queue :=
  let g := ((x.openLevel 1).map (·.first)).getD 0
  let x := x.member 1 g
  let close (l : Level) : Level :=
    if l.closed then l
    else
      let stop := (l.kind == 1 && (gend || pend || jend || decide (64 ≤ l.members))) || (l.kind == 2 && (pend || jend)) || (l.kind == 3 && jend)
      { l with recs := l.recs + 1, closed := stop }
  { x with levels := x.levels.map close }

/-- The job's slot (15 R370): the one that the open job holds, or the named one where it is free; whether the record may go on. -/
def State.claimSlot (s : State) (t q j : Nat) : Bool × State :=
  let free := (Sparse.get ({} : Job) (s.ten t).jobs j).queue.isNone
  match (s.queue t q).openLevel 3 with
  | none => (false, s)
  | some l =>
    match l.slot with
    | some k => (k == j || free, s)
    | none =>
      if free then
        let s := s.modLevel t q 3 l.first fun l => { l with slot := some j }
        (true, s.modTen t fun x => { x with jobs := Sparse.set {} x.jobs j { queue := some q, owed := (Sparse.get ({} : Job) x.jobs j).owed } })
      else (false, s)

/-- Nodes of the open graph that a PRED mask names, as record indices. -/
def predNodes (first : Nat) (m : DWord) : List Nat := (bitLanes m).map fun i => (first + i) % 2 ^ 32

/-- A cancel request that has been held for a record takes effect (15 R385). -/
def State.heldCancels (s : State) (t q n : Nat) : State :=
  let mine (r : DWord) : Bool := bits r 58 4 == q && bits r 0 32 == n
  let l := (s.ten t).cancels.filter mine
  l.foldl (fun s r => s.cancelAct t r) (s.modTen t fun x => { x with cancels := x.cancels.filter fun r => !mine r })

/-- A RECORD IS TAKEN IN as launch `e` (15 R362, R367, R370, R371). -/
def State.takeRecord (s : State) (t q e : Nat) (ws : List DWord) : State :=
  let n := (s.queue t q).prog.toNat
  let la : Launch := { used := true, tenant := t, queue := q, n := n, words := ws }
  let s := s.modQueue t q fun x => { x.openFor n (la.flag 15) with prog := x.prog + 1 }
  match (s.queue t q).openLevel 1 with
  | none => s
  | some g =>
    let (slotOk, s) := s.claimSlot t q (bits (la.w 7) 4 4)
    let preds := predNodes g.first (la.w 8)
    let nodeOk := bits (la.w 7) 16 6 == g.members && preds.all fun k => decide (idxDist g.first k < g.members)
    let dead := g.dead || ((s.queue t q).openLevel 3).any Level.dead || ((s.queue t q).openLevel 2).any Level.dead
    let lost := g.ends.any fun x => x.2.1 && preds.contains x.1
    let rels := mgmtRel .device (s.queue t q).tailK :: (g.ends.filter fun x => !x.2.1 && preds.contains x.1).flatMap fun x => x.2.2
    let ok := la.fieldsOk && slotOk && nodeOk
    let (img, s) := if ok && !dead && la.imageVa != 0 then s.namedImage t la.imageVa else (none, s)
    let bad := !ok || (!dead && la.imageVa != 0 && img.isNone)
    let la := { la with
      graph := g.first, preds := preds.filter fun k => !(g.ends.any fun x => x.1 == k), rels := rels.foldl addRel []
      img := img.map (·.1), imgAt := (img.map (·.2)).getD 0, since := s.now }
    let s := s.setLaunch e la
    let s := (s.modQueue t q fun x => x.enter (la.flag 14) (la.flag 13) (la.flag 12)).post t q
    let s := if bad then s.cancelLaunch e 5 else if dead || lost then s.cancelLaunch e 6 else s
    s.heldCancels t q n

/-- Is the next record of a queue ready to be read, and with it the container that it names, where it has to be verified? -/
def State.recordReady (s : State) (t q : Nat) : Bool × State :=
  let x := s.queue t q
  let pa := x.base + 128 * (x.prog.toNat % 2 ^ x.lsize)
  match s.mgmtReady [(pa, 128)] with
  | (true, s) =>
    let b := (s.mgmtRead pa 128).getD (List.replicate 128 0)
    let la : Launch := { words := (List.range 16).map fun k => BitVec.ofNat 64 (fieldAt b (8 * k) 8) }
    if la.imageVa = 0 ∨ ((s.ten t).images.lookup la.imageVa).isSome then (true, s) else s.containerReady t la.imageVa
  | q => q

/-- RECORD_INTAKE (15 R367, R370, R371; 19 R445): the next record of a queue. -/
def execRecordIntake (t q : Nat) (s : State) : Host.Outcome State Fault Refusal :=
  if !s.canIntake t q then .next s
  else if 2 ^ (s.queue t q).lsize < (s.queue t q).ahead then .next (s.checkTail t q)
  else
    match s.freeLent, s.recordReady t q with
    | none, _ => .next s
    | some _, (false, s) => .next (s.at (s.now + 4) (.recordIntake t q))
    | some e, (true, s) =>
      let x := s.queue t q
      let b := (s.mgmtRead (x.base + 128 * (x.prog.toNat % 2 ^ x.lsize)) 128).getD (List.replicate 128 0)
      .next (s.takeRecord t q e ((List.range 16).map fun k => BitVec.ofNat 64 (fieldAt b (8 * k) 8)))

/-! ## Start (15 R372, R374 to R376) -/

/-- Is a level finished? -/
def Queue.over (x : Queue) (kind first : Nat) : Bool :=
  match x.level kind first with
  | none => true
  | some l => l.fin

/-- The order condition of a graph toward earlier graphs of its queue (15 R375). -/
def State.orderOk (s : State) (t q : Nat) (g : Level) : Bool :=
  let x := s.queue t q
  (match g.prevPhase with
   | none => true
   | some p => x.over 2 p) &&
  match g.prev with
  | none => true
  | some p =>
    x.over 1 p || (g.overlap && (((x.level 1 p).map (·.closed)).getD true) && (s.nodesOf t q p).all fun n => n.2.started && n.2.disp == n.2.total)

/-- May a launch ask at its gate, or start?  The signals that the count at its gate includes are released first (log entry 48). -/
def State.canStart (s : State) (la : Launch) : Bool :=
  la.used && !la.finished && la.cancel == 0 && !la.started && la.preds.isEmpty && decide (la.imgAt ≤ s.now) && la.gate != 1 && !(la.gate == 2 && s.evOpen la.gateKey la.gateAt) &&
    match (s.queue la.tenant la.queue).level 1 la.graph with
    | none => true
    | some g => s.orderOk la.tenant la.queue g

/-- The next crew of a launch is dispatchable from now on: its starvation bound runs (15 R368, R383). -/
def State.nextCrew (s : State) (l : Nat) : State :=
  (s.modLaunch l fun x => { x with since := s.now, starving := false }).at
    (s.now + 2100 * (s.ten (s.launch l).tenant).starve) (.starvationExpiry l)

/-- LAUNCH_START (15 R372, R376, R479): the gate is asked first; then the patch slots are copied and the launch starts.  A launch with no crew is
done at once and passes on what it has acquired (09 R273). -/
def execLaunchStart (l : Nat) (s : State) : Host.Outcome State Fault Refusal :=
  let la := s.launch l
  if !s.canStart la then .next s
  else if la.flag 10 ∧ la.gate = 0 then
    .next ((s.modLaunch l fun x => { x with gate := 1 }).evOp 0 1 (evKey la.tenant (bits (la.w 9) 0 16)) (.launch l)
      (BitVec.ofNat 32 (bits (la.w 9) 32 32)) [])
  else
    match s.tenReady la.tenant la.patchVa (4 * la.npatch) with
    | (false, s) => .next (s.at (s.now + 4) (.launchStart l))
    | (true, s) =>
    match s.tenRead la.tenant la.patchVa (4 * la.npatch) with
    | none => .next (s.cancelLaunch l 5)
    | some b =>
      let more := (((s.queue la.tenant la.queue).level 1 la.graph).map (s.queue la.tenant la.queue).relsFor).getD []
      let patch := (List.range la.npatch).map fun k => BitVec.ofNat 32 (fieldAt b (4 * k) 4)
      let rels := more.foldl addRel la.rels
      let s := (s.setLaunch l { la with started := true, patch := patch, rels := rels, out := if la.total = 0 then rels else [] }).nextCrew l
      if la.total = 0 then .next (s.launchDone l) else .next s

/-- STARVATION_EXPIRY (15 R368): the next crew has waited for longer than the tenant's bound. -/
def execStarvationExpiry (l : Nat) (s : State) : Host.Outcome State Fault Refusal :=
  let la := s.launch l
  if la.used && la.started && !la.finished && decide (la.bound < la.total) && decide (la.since + 2100 * (s.ten la.tenant).starve ≤ s.now) then
    .next (s.modLaunch l fun x => { x with starving := true })
  else .next s

end Sys2Proof.Machine
end

