-- ==== Sys2Proof/Machine/Placement.lean ====
section
/-! DEFINITION. Placement of crews, bind records and clusters (01 R28, R29; 08 R235, R236; 15 R368, R377 to R383). -/

namespace Sys2Proof.Machine

open Sys2Proof

/-! ## What a crew takes on a core -/

/-- What a bind record claims on a core. -/
structure Claim where
  core : Nat
  cslot : Nat
  qmask : Nat
  vb : Nat
  vs : Nat
  rb : Nat
  sb : Nat
  ng : Nat
  size : Nat
  tok : Bool
  rt : Bool
  deriving DecidableEq, Repr

/-- A gang's place: quarter, register bytes from and to, state slot. -/
structure GPlace where
  quarter : Nat
  lo : Nat
  hi : Nat
  slot : Nat
  deriving DecidableEq, Repr

/-- Does a launch belong to a queue of class RT? -/
def State.isRt (s : State) (la : Launch) : Bool := (s.queue la.tenant la.queue).cls == 0

/-- The claim of a bind record (15 R378). -/
def State.claimOf (s : State) (tower : Nat) (b0 b1 : DWord) : Claim :=
  let la := s.launch (s.lentOf b0)
  { core := tower * 48 + bits b0 10 6, cslot := bits b0 6 4, qmask := bits b0 2 4, vb := bits b1 56 8, vs := la.vsz, rb := bits b1 49 7
    sb := bits b1 45 4, ng := la.ngangs, size := la.nvd * 8 * la.width * 4, tok := b0.getLsbD 16, rt := s.isRt la }

/-- The places of a claim's gangs: gang g goes to the listed quarter at position g mod q, as the k-th there (01 R29; 15 R378). -/
def Claim.places (c : Claim) : List GPlace :=
  let qs := (List.range 4).filter fun k => Nat.testBit c.qmask k
  if qs.isEmpty then []
  else (List.range c.ng).map fun g =>
    let k := g / qs.length
    let lo := c.rb * 1024 + k * c.size
    { quarter := (qs[g % qs.length]?).getD 0, lo := lo, hi := lo + c.size, slot := c.sb + k }

/-- Do two places meet? -/
def GPlace.meets (a b : GPlace) : Bool := a.quarter == b.quarter && (a.slot == b.slot || (decide (a.lo < b.hi) && decide (b.lo < a.hi)))

/-- Do two windows meet? -/
def windowsMeet (a b : Nat × Nat) : Bool := overlap a b

/-- Do two claims of one core conflict? -/
def Claim.clash (a b : Claim) : Bool :=
  a.core == b.core && (a.cslot == b.cslot || (a.tok && b.tok) || windowsMeet (a.vb, a.vs) (b.vb, b.vs) ||
    a.places.any fun x => b.places.any fun y => x.meets y)

/-- Does a gang hold its registers and its state slot: it has not retired, or has operations that are not over (04 R131)? -/
def Gang.holdsPlace (x : Gang) : Bool := (x.slices.any fun k => k.live) || !x.ops.isEmpty || !x.arr.isEmpty

/-- The places of the gangs that are resident on a core; a borrow has moved its victims aside (16 R401).  A gang's space is free once it has
retired and its operations are over (04 R131). -/
def State.takenPlaces (s : State) (core : Nat) : List GPlace :=
  (s.gangs.filter fun p => p.2.here && p.2.core == core && !(s.crew p.2.crew).aside && p.2.holdsPlace).map fun p =>
      { quarter := p.2.quarter, lo := p.2.rbase, hi := p.2.rbase + p.2.nv * p.2.width * 4, slot := p.2.gslot }

/-- The windows of a core's crews, with those kept for their clusters (08 R239). -/
def State.takenWindows (s : State) (core : Nat) : List (Nat × Nat) :=
  (s.crews.filter fun p => p.2.core == core && !p.2.saved).map fun p => (p.2.vbase, p.2.wsize / 16384)

/-- The crew slots in use. -/
def State.takenSlots (s : State) (core : Nat) : List Nat :=
  (s.crews.filter fun p => p.2.here && p.2.core == core && !p.2.aside).map fun p => p.2.cslot

/-- Where windows of a class may lie on a core, in 16 KiB units: from, to (08 R235). -/
def Core.part (c : Core) (rt : Bool) : Nat × Nat :=
  if c.rtOn then (if rt then (c.sp / 16384 - 16, c.sp / 16384) else (0, c.sp / 16384 - 16)) else (0, c.sp / 16384)

/-- Layers of a core that are not FAILED. -/
def Core.goodLayers (c : Core) : Nat := (c.layers.filter fun l => !Layer.isFailed l).length

/-- A tenant's core mask on a tower. -/
def Tenant.mask (t : Tenant) (tower : Nat) : BitVec 48 := if tower = 0 then t.mask0 else t.mask1
def Tenant.rtSet (t : Tenant) (tower : Nat) : BitVec 48 := if tower = 0 then t.rt0 else t.rt1

/-- Are a claim's own limits and its place in the scratchpad right (15 R379)? -/
def State.claimOk (s : State) (c : Claim) : Bool :=
  let k := s.core c.core
  c.places.all (fun p => decide (p.hi ≤ 131072) && decide (p.slot ≤ 15)) &&
    (c.vs == 0 || (decide (c.vb + c.vs ≤ k.sp / 16384) && (c.rt || decide (c.vb + c.vs ≤ (k.part false).2))))

/-- Are the resources of a claim free beside the resident crews (15 R379)? -/
def State.claimFree (s : State) (c : Claim) (minl : Nat) : Bool :=
  let k := s.core c.core
  !(s.takenSlots c.core).contains c.cslot && !(c.places.any fun p => (s.takenPlaces c.core).any p.meets) &&
    !((s.takenWindows c.core).any fun w => windowsMeet w (c.vb, c.vs)) && (!c.tok || (k.tokOwner.isNone && decide (minl ≤ k.goodLayers)))

/-- The conditions of R379 that do not concern other crews. -/
def State.bindOk (s : State) (tower : Nat) (b0 b1 : DWord) : Bool :=
  let la := s.launch (s.lentOf b0)
  let cl := la.cw != 0
  b0.getLsbD 0 && bits b0 2 4 != 0 && decide (bits b0 10 6 < 48) && (((s.ten la.tenant).mask tower).getLsbD (bits b0 10 6)) && la.used &&
    la.started && !la.finished && decide (bits b0 32 32 < la.total) && (bits b0 17 4 != 0) == cl && (bits b1 32 13 != 0) == cl &&
    s.claimOk (s.claimOf tower b0 b1)

/-! ## Posting (15 R368, R377, R378; 16 R400, R404, R476) -/

/-- Posted entries of a tower, in order of posting. -/
def Tower.posted (t : Tower) : List (Nat × SlotE) :=
  orderBy (fun a b => decide (a.2.seq ≤ b.2.seq)) (t.slots.filter fun p => p.2.st == .posted)

/-- The claims of posted entries on a core. -/
def State.postedOn (s : State) (core : Nat) : List Claim :=
  ((s.tower (core / 48)).posted.map fun p => s.claimOf (core / 48) p.2.b0 p.2.b1).filter fun c => c.core == core

/-- The lowest places that fit for a crew of a launch on a core: slot, register base, gang slot base, window (15 R377); a borrow frees the
core of crews of other classes.  The window of an RT crew lies in the RT partition, and one that is larger beside the other windows of the scratchpad
(16 R404; DESIGN CHOICE, log entry 58). -/
def State.placeOn (s : State) (la : Launch) (core : Nat) : Option Claim :=
  let k := s.core core
  let rt := s.isRt la
  let clear := rt && !k.borrow
  let post := s.postedOn core
  let post := if clear then post.filter (·.rt) else post
  let gs := (if clear then [] else s.takenPlaces core) ++ post.flatMap (·.places)
  let ws := s.takenWindows core ++ post.map fun c => (c.vb, c.vs)
  let slots := (if clear then [] else s.takenSlots core) ++ post.map (·.cslot)
  let tok := la.tok && !rt
  let base : Claim :=
    { core := core, cslot := 0, qmask := 15, vb := 0, vs := la.vsz, rb := 0, sb := 0, ng := la.ngangs, size := la.nvd * 8 * la.width * 4
      tok := tok, rt := rt }
  let regsFree (c : Claim) : Bool := c.places.all fun p => decide (p.hi ≤ 131072) && !(gs.any fun g =>
    g.quarter == p.quarter && decide (g.lo < p.hi) && decide (p.lo < g.hi))
  let slotFree (c : Claim) : Bool := c.places.all fun p => decide (p.slot ≤ 15) && !(gs.any fun g => g.quarter == p.quarter && g.slot == p.slot)
  let (lo, hi) := if rt ∧ 16 < la.vsz then (0, k.sp / 16384) else k.part rt
  let vbs := if la.vsz = 0 then [0] else (List.range (hi + 1 - la.vsz - lo)).map (lo + ·)
  match (List.range 16).find? (fun n => !slots.contains n), (List.range 128).find? (fun n => regsFree { base with rb := n }),
    (List.range 16).find? (fun n => slotFree { base with sb := n }), vbs.find? (fun n => !(ws.any fun w => windowsMeet w (n, la.vsz))) with
  | some cs, some rb, some sb, some vb =>
    if tok && (k.tokOwner.isSome || post.any (·.tok) || decide (k.goodLayers < la.minl)) then none
    else some { base with cslot := cs, rb := rb, sb := sb, vb := vb }
  | _, _, _, _ => none

/-- The bind record of a claim. -/
def Claim.record (c : Claim) (lent crew pos cgrp : Nat) : DWord × DWord :=
  (pack [(32, crew), (21, lent % 2048), (17, pos), (16, if c.tok then 1 else 0), (10, c.core % 48), (6, c.cslot), (2, c.qmask), (0, 1)],
   pack [(56, c.vb), (49, c.rb), (45, c.sb), (32, cgrp)])

/-- Cores of a tower in the order of the search: from the one after the last used (15 R377). -/
def State.coreOrder (s : State) (tower : Nat) : List Nat := (List.range 48).map fun k => ((s.tower tower).lastCore + 1 + k) % 48

/-- A place for a crew outside a cluster on a tower. -/
def State.placeSingle (s : State) (la : Launch) (tower : Nat) : Option Claim :=
  ((s.coreOrder tower).filter fun c => ((s.ten la.tenant).mask tower).getLsbD c && !(s.core (tower * 48 + c)).borrow).findSome? fun c =>
    s.placeOn la (tower * 48 + c)

/-- The core of a member of a cluster by its offset from a corner (15 R381). -/
def memberCore (la : Launch) (corner j : Nat) : Nat := corner + 8 * (j / la.cw) + j % la.cw

/-- A corner at which a whole cluster fits. -/
def State.placeCluster (s : State) (la : Launch) (tower : Nat) : Option Nat :=
  (s.coreOrder tower).find? fun c => decide (c % 8 + la.cw ≤ 8) && decide (c / 8 + la.ch ≤ 6) &&
    (List.range (la.cw * la.ch)).all fun j =>
      let m := memberCore la c j
      ((s.ten la.tenant).mask tower).getLsbD m && !(s.core (tower * 48 + m)).borrow && (s.placeOn la (tower * 48 + m)).isSome

/-- The lowest cluster group that no resident or posted crew of a tower has. -/
def State.freeGroup (s : State) (tower : Nat) : Nat :=
  ((List.range 8191).map (· + 1)).find? (fun g => !((s.tower tower).slots.any fun p =>
    (p.2.st == .posted || p.2.st == .resident) && bits p.2.b1 32 13 == g) && !(s.crews.any fun p => p.2.cgrp == g && p.2.core / 48 == tower)) |>.getD 0

/-- Cores of an RT set of a tower. -/
def State.rtCores (s : State) (la : Launch) (tower : Nat) : List Nat :=
  ((List.range 48).filter fun c => ((s.ten la.tenant).rtSet tower).getLsbD c).map (tower * 48 + ·)

/-- Does a core hold an RT borrow, or is one on its way to it? -/
def State.lent (s : State) (core : Nat) : Bool := (s.core core).borrow || (s.postedOn core).any (·.rt)

/-- The tower of an RT launch: the first set with enough cores that hold no borrow (16 R400). -/
def State.rtTower (s : State) (la : Launch) : Option Nat :=
  match la.tower with
  | some t => some t
  | none => [0, 1].find? fun t =>
      let cs := s.rtCores la t
      !cs.isEmpty && decide (min la.total cs.length ≤ (cs.filter fun c => !s.lent c).length)

/-- A corner for a cluster of an RT launch: a block of its tower's RT set, of cores that hold no RT borrow where there is one (15 R377; 16 R404). -/
def State.rtCorner (s : State) (la : Launch) (tower : Nat) : Option Nat :=
  let members (c : Nat) : List Nat := (List.range (la.cw * la.ch)).map fun j => tower * 48 + memberCore la c j
  let fits (c : Nat) : Bool := decide (c % 8 + la.cw ≤ 8) && decide (c / 8 + la.ch ≤ 6) &&
    (members c).all fun m => (s.rtCores la tower).contains m && (s.placeOn la m).isSome
  let cs := (List.range 48).filter fits
  match cs.find? fun c => !(members c).any s.lent with
  | some c => some c
  | none => cs.head?

/-- The tower and corner that the first member of a cluster chooses. -/
def State.newCluster (s : State) (la : Launch) : Option (Nat × Nat) :=
  if s.isRt la then (s.rtTower la).bind fun t => (s.rtCorner la t).map fun c => (t, c)
  else [0, 1].findSome? fun t => (s.placeCluster la t).map fun c => (t, c)

/-- May the management core post `n` more entries on a tower: at most 256 are POSTED or REFUSED (15 R378)? -/
def Tower.mayPost (t : Tower) (n : Nat := 1) : Bool := decide ((t.slots.filter fun p => p.2.st == .posted).length + n ≤ 256)

/-- The bind record of the next crew of a cluster: its first member chooses the corner, the others follow it. -/
def State.bindCluster (s : State) (l : Nat) (la : Launch) : Option (Nat × DWord × DWord) :=
  let j := la.bound % (la.cw * la.ch)
  let pos := 3 * (j / la.cw) + j % la.cw + 1
  let go (tower corner g : Nat) : Option (Nat × DWord × DWord) :=
    (s.placeOn la (tower * 48 + memberCore la corner j)).map fun c => (tower, c.record l la.bound pos g)
  if j = 0 then
    (s.newCluster la).bind fun p => if (s.tower p.1).mayPost (la.cw * la.ch) then go p.1 p.2 (s.freeGroup p.1) else none
  else
    [0, 1].findSome? fun t =>
      ((s.tower t).slots.find? fun p => p.2.st == .posted && bits p.2.b0 21 11 == l % 2048 && bits p.2.b0 32 32 == la.bound - j).bind fun p =>
        go t (bits p.2.b0 10 6) (bits p.2.b1 32 13)

/-- The bind record of the next crew of an RT launch without clusters: one crew on each core in ascending order, then beside RT crews where it fits. -/
def State.bindRt (s : State) (l : Nat) (la : Launch) : Option (Nat × DWord × DWord) :=
  match s.rtTower la with
  | none => none
  | some t =>
    let cs := s.rtCores la t
    let order := (cs.filter fun c => !s.lent c) ++ cs.filter s.lent
    (order.findSome? fun c => s.placeOn la c).map fun c => (t, c.record l la.bound 0 0)

/-- Has a launch a saved crew that could be restored, which goes before crews never dispatched (16 R408)? -/
def State.owesRestore (s : State) (l : Nat) : Bool := s.crews.any fun p => p.2.lent == l && p.2.saved && p.2.dispatchable

/-- PRIO as placement sees it: RT before all, and a starving crew as PRIO 15 (15 R368). -/
def State.prioOf (s : State) (la : Launch) : Nat :=
  let x := s.queue la.tenant la.queue
  if x.cls = 0 then 16 else if la.starving then 15 else x.prio

/-- The order in which queues are served (15 R368): RT, then PRIO, then round-robin among equals, then record order. -/
def State.rank (s : State) (la : Launch) : Nat :=
  let x := s.queue la.tenant la.queue
  let p := s.prioOf la
  ((16 - p) * 128 + (la.tenant * 16 + la.queue + 127 - Sparse.get 127 s.rrQueue p % 128) % 128) * 2 ^ 32 +
    idxDist ((x.prog.toNat + 2 ^ 31) % 2 ^ 32) la.n

/-- The turn of a launch's queue among those of its PRIO is over. -/
def State.endTurn (s : State) (la : Launch) : State :=
  { s with rrQueue := Sparse.set 127 s.rrQueue (s.prioOf la) (la.tenant * 16 + la.queue) }

/-- Is a cluster of a launch bound in part?  It is bound whole before any other crew (15 R368, R377). -/
def Launch.midCluster (la : Launch) : Bool := la.cw != 0 && la.bound % (la.cw * la.ch) != 0

/-- Launches with a crew to be bound, in order of service. -/
def State.waitingLaunches (s : State) : List (Nat × Launch) :=
  let rank (la : Launch) : Nat := if la.midCluster then 0 else s.rank la + 1
  orderBy (fun a b => decide (rank a.2 ≤ rank b.2)) (s.lents.filter fun p => p.2.used && p.2.started && !p.2.finished &&
    p.2.cancel == 0 && decide (p.2.bound < p.2.total) && !s.owesRestore p.1)

/-- Must a launch wait while room is made for one that starves and comes before it (15 R383)? -/
def State.yields (s : State) (la : Launch) : Bool :=
  (s.crews.any fun p => p.2.here && p.2.saving == 1 && p.2.dispatchable) && !la.midCluster &&
    s.waitingLaunches.any fun p => p.2.starving && decide (s.rank p.2 < s.rank la)

/-- The bind record of a launch's next crew, where it fits: tower and words. -/
def State.bindOf (s : State) (l : Nat) (la : Launch) : Option (Nat × DWord × DWord) :=
  if la.cw ≠ 0 then s.bindCluster l la
  else if s.isRt la then s.bindRt l la
  else [0, 1].findSome? fun t => (s.placeSingle la t).map fun c => (t, c.record l la.bound 0 0)

/-- THE NEXT BIND RECORD of the policy: tower and words. -/
def State.nextBind (s : State) : Option (Nat × DWord × DWord) :=
  match s.waitingLaunches.findSome? fun p => if s.yields p.2 then none else s.bindOf p.1 p.2 with
  | none => none
  | some b => if (s.tower b.1).mayPost then some b else none

/-- BIND_POST (15 R377, R378): the management core writes a bind record for the next crew of a launch into a free entry, after it has freed
the REFUSED ones; an RT crew's core gets a borrow command (16 R401).  The turn of its queue is over after one crew or one whole cluster (R368). -/
def execBindPost (tower : Nat) (b0 b1 : DWord) (s : State) : Host.Outcome State Fault Refusal :=
  let l := s.lentOf b0
  let la := s.launch l
  let s' := s.modTower tower fun t => { t with slots := t.slots.filter fun p => p.2.st != .refused }
  let t := s'.tower tower
  if 2 ≤ tower ∨ !la.used ∨ !la.started ∨ la.finished ∨ bits b0 32 32 ≠ la.bound ∨ la.total ≤ la.bound ∨ !t.mayPost then .next s
  else
    match (List.range 1024).find? fun k => (Sparse.get ({} : SlotE) t.slots k).st == .free with
    | none => .next s
    | some k =>
      let e : SlotE := { st := .posted, b0 := b0, b1 := b1, seq := t.postSeq }
      let s := s'.setTower tower { t with slots := Sparse.set {} t.slots k e, postSeq := t.postSeq + 1, lastCore := bits b0 10 6 }
      let rt := s.isRt la
      let s := s.modLaunch l fun x => { x with bound := x.bound + 1, tower := if rt then some tower else none }
      let s := if (s.launch l).midCluster then s else s.endTurn la
      if rt then .next (s.at (s.now + 1) (.borrowCommand (tower * 48 + bits b0 10 6))) else .next s

/-! ## Acceptance (15 R379, R380) -/

/-- Sets a slot's state. -/
def State.setSlot (s : State) (tower n : Nat) (st : SlotSt) : State :=
  s.modTower tower fun t => { t with slots := Sparse.set {} t.slots n { (Sparse.get ({} : SlotE) t.slots n) with st := st } }

/-- A bind record is refused (15 R379): an error record, and the management core cancels the launch with CAUSE 3. -/
def State.refuseBind (s : State) (tower n : Nat) : State :=
  let e : SlotE := Sparse.get {} (s.tower tower).slots n
  let l := s.lentOf e.b0
  ((s.setSlot tower n .refused).errorRecord 9 (128 * tower + bits e.b0 10 6) (some (s.launch l).tenant) 0 0).askCancel l 3

/-- A gang of a crew at its reset values (01 R16), at its place. -/
def newGang (la : Launch) (u g core : Nat) (p : GPlace) (first iss : Nat) : Gang :=
  { iss := iss, here := true, width := la.width, nv := la.nvd * 8, tenant := la.tenant, crew := u, gid := g, core := core, quarter := p.quarter
    gslot := p.slot, rbase := p.lo, notBefore := first
    slices := (List.range (la.width / 4)).map fun _ => { live := true, pc := addrPc (BitVec.ofNat 80 la.code), mask := 15 } }

/-- A new gang acquires what its launch acquires, for all paths (09 R273). -/
def State.bringGang (s : State) (g : Nat) (x : Gang) (rs : List Rel) : State :=
  let s : State := (s.setGang g x).acquire g 0 [] .device rs
  { s.modGang g fun x => { x with vcCpy := x.vc } with nextIss := s.nextIss + 1, places := s.places ++ [(x.iss, s.issuer g)] }

/-- A CREW IS DISPATCHED (15 R380): every register at its reset value, patch values, window bits clear, tokens with zeroed accumulators, the
instruction cache invalidated for the launch's first crew on the core, and the wait for another I1 image.  Its gangs acquire what the launch
acquires, for all their paths (09 R273).  DESIGN CHOICE (log entry 24): the launch record gives the code range no length, so the core's whole L1
instruction cache is invalidated. -/
def State.dispatchCrew (s : State) (tower n : Nat) : State :=
  let e : SlotE := Sparse.get {} (s.tower tower).slots n
  let l := s.lentOf e.b0
  let la := s.launch l
  let c := s.claimOf tower e.b0 e.b1
  let idx := bits e.b0 32 32
  let u := l * 2 ^ 32 + idx
  let cr : Crew :=
    { here := true, tenant := la.tenant, lent := l, idx := idx, core := c.core, cslot := c.cslot, pos := bits e.b0 17 4, cgrp := bits e.b1 32 13
      tok := c.tok, rt := c.rt, qmask := c.qmask, vbase := c.vb, wsize := 16384 * c.vs, rbase := c.rb, sbase := c.sb, ngangs := c.ng
      width := la.width, nv := la.nvd * 8, patch := la.patch
      imgWait := la.img.isSome && (s.core c.core).i1.img != la.img && !c.rt }
  let (d, s) := s.popLag
  let s := (s.setSlot tower n .resident).setCrew u cr
  let core (k : Core) : Core :=
    let k := if c.tok then { k with acc := [], toks := [.engine, .engine, .engine, .engine], tokOwner := some u, adcache := [], adinv := [] } else k
    let k := { k with vrels := k.vrels.filter fun p => !(decide (cr.vbase * 16384 ≤ p.1) && decide (p.1 < cr.vbase * 16384 + cr.wsize)) }
    if la.cores.contains c.core then k else { k with l1i := [] }
  let s := s.modCore c.core core
  let s := c.places.zipIdx.foldl (fun s p => s.bringGang (u * 16 + p.2) (newGang la u p.2 c.core p.1 (s.now + 1 + min 511 d) (2 * s.nextIss)) la.rels) s
  let s := (s.nextCrew l).modLaunch l fun x => { x with disp := x.disp + 1, cores := if x.cores.contains c.core then x.cores else x.cores ++ [c.core] }
  s.crecMid l

/-- Is the core of a claim as its class needs it: lent for an RT crew, with the room that it needs beside the RT crews there (16 R401, R476), and for
any other under no borrow, whose victims come back to it (DESIGN CHOICE, log entry 41)? -/
def State.coreFor (s : State) (c : Claim) (minl : Nat) : Bool :=
  let k := s.core c.core
  if c.rt then k.borrow && k.spilled.any (fun t => decide (t ≤ s.now)) && s.claimFree c minl else !k.borrow

/-- The groups of a tower other than `g` that have reserved a resource of some claims (15 R382). -/
def State.rivals (s : State) (tower g : Nat) (claims : List Claim) : List (Nat × CGroup) :=
  let t := s.tower tower
  t.groups.filter fun q => q.1 != g && q.2.reserved.any fun k =>
    let e : SlotE := Sparse.get {} t.slots k
    claims.any fun c => c.clash (s.claimOf tower e.b0 e.b1)

/-- Is an entry's turn: the crews before it are accepted, its core is as its class needs it (15 R379; 16 R401, R476), and no cluster group has
reserved what it needs (R382)? -/
def State.turnFor (s : State) (tower : Nat) (e : SlotE) : Bool :=
  let la := s.launch (s.lentOf e.b0)
  let c := s.claimOf tower e.b0 e.b1
  bits e.b0 32 32 == la.disp && ((s.coreFor c la.minl && (s.rivals tower 0 [c]).isEmpty) || !s.bindOk tower e.b0 e.b1)

/-- BIND_ACCEPT (15 R379, R380). -/
def execBindAccept (tower n : Nat) (s : State) : Host.Outcome State Fault Refusal :=
  let t := s.tower tower
  let e : SlotE := Sparse.get {} t.slots n
  if e.st ≠ .posted ∨ s.now < t.acceptAt ∨ bits e.b1 32 13 ≠ 0 ∨ !s.turnFor tower e then .next s
  else
    let s := s.setTower tower { t with acceptAt := s.now + 8 }
    if s.bindOk tower e.b0 e.b1 && s.claimFree (s.claimOf tower e.b0 e.b1) (s.launch (s.lentOf e.b0)).minl then .next (s.dispatchCrew tower n)
    else .next (s.refuseBind tower n)

/-! ## Clusters (15 R381, R382) -/

/-- The posted members of a group in order of position. -/
def Tower.members (t : Tower) (g : Nat) : List (Nat × SlotE) :=
  orderBy (fun a b => decide (bits a.2.b0 17 4 ≤ bits b.2.b0 17 4)) (t.slots.filter fun p => p.2.st == .posted && bits p.2.b1 32 13 == g)

def Tower.group (t : Tower) (g : Nat) : CGroup := Sparse.get {} t.groups g
def State.setGroup (s : State) (tower g : Nat) (x : CGroup) : State :=
  s.modTower tower fun t => { t with groups := Sparse.set {} t.groups g x }

/-- May a group reserve, or commit, now?  The cores of an RT cluster are lent first (16 R401, R476). -/
def State.groupReadyAt (s : State) (tower g : Nat) : Bool :=
  let t := s.tower tower
  let ms := t.members g
  let x := t.group g
  match ms with
  | [] => false
  | m :: _ =>
    let la := s.launch (s.lentOf m.2.b0)
    (ms.all fun p => s.coreFor (s.claimOf tower p.2.b0 p.2.b1) la.minl) &&
    decide (la.cw * la.ch ≤ ms.length) && ((ms.map fun p => bits p.2.b0 32 32).min?.getD 0) == la.disp && decide (t.acceptAt ≤ s.now) &&
      (if x.reserved.isEmpty then decide (x.wait ≤ s.now) && decide ((t.groups.filter fun q => !q.2.reserved.isEmpty).length < 4) else true)

/-- Are a group's crews consecutive members of one cluster, each on the core that its position names (15 R381)? -/
def State.groupPlaced (s : State) (ms : List (Nat × SlotE)) : Bool :=
  match ms with
  | [] => false
  | m :: _ =>
    let l := s.lentOf m.2.b0
    let la := s.launch l
    let corner := bits m.2.b0 10 6
    let c0 := bits m.2.b0 32 32
    la.cw != 0 && ms.length == la.cw * la.ch && c0 % (la.cw * la.ch) == 0 && decide (corner % 8 + la.cw ≤ 8) && decide (corner / 8 + la.ch ≤ 6) &&
      ms.zipIdx.all fun p =>
        let j := p.2
        bits p.1.2.b0 21 11 == l % 2048 && bits p.1.2.b0 32 32 == c0 + j && bits p.1.2.b0 17 4 == 3 * (j / la.cw) + j % la.cw + 1 &&
          bits p.1.2.b0 10 6 == memberCore la corner j

/-- A group meets a conflict: it releases its reservations and waits (15 R382). -/
def State.conflict (s : State) (tower g : Nat) : State :=
  let t := s.tower tower
  let x := t.group g
  let a := x.conflicts + 1
  let w := 1 + Config.freeDraw s.fresh % (256 * 2 ^ min a 4)
  let prec := x.precedence || (decide (8 ≤ a) && !(t.groups.any fun q => q.2.precedence))
  let s := { s with fresh := s.fresh + 1 }
  (s.setGroup tower g { reserved := [], conflicts := a, wait := s.now + w, precedence := prec }).at (s.now + w) (.clusterBackoffExpiry tower g)

/-- CLUSTER_RESERVE (15 R381, R382): a group reserves the resources of all its members, or is refused, or meets a conflict; a group whose
reservation stands commits in one cycle. -/
def execClusterReserve (tower g : Nat) (s : State) : Host.Outcome State Fault Refusal :=
  if !s.groupReadyAt tower g then .next s
  else
    let t := s.tower tower
    let ms := t.members g
    let x := t.group g
    let claims := ms.map fun m => s.claimOf tower m.2.b0 m.2.b1
    let minl := (s.launch (s.lentOf (ms.headD (0, {})).2.b0)).minl
    let ok := s.groupPlaced ms && (ms.all fun m => s.bindOk tower m.2.b0 m.2.b1) && claims.all fun c => s.claimFree c minl
    if !ok then .next (ms.foldl (fun s m => s.refuseBind tower m.1) (s.setGroup tower g {}))
    else if !x.reserved.isEmpty then
      let s := s.modTower tower fun t => { t with acceptAt := s.now + 8, groups := Sparse.set {} t.groups g {} }
      .next (ms.foldl (fun s m => s.dispatchCrew tower m.1) s)
    else
      let rivals := s.rivals tower g claims
      if rivals.isEmpty || x.precedence then
        let s := rivals.foldl (fun s q => s.conflict tower q.1) s
        .next (s.setGroup tower g { x with reserved := ms.map (·.1) })
      else .next (s.conflict tower g)

/-- CLUSTER_BACKOFF_EXPIRY (15 R382): the wait of a group ends. -/
def execClusterBackoffExpiry (tower g : Nat) (s : State) : Host.Outcome State Fault Refusal :=
  let x := (s.tower tower).group g
  if x.wait ≤ s.now then .next (s.setGroup tower g { x with wait := 0 }) else .next s

/-- The dispatch of a tower goes on with the first posted entry, in order of posting, whose turn it is, or whose cluster group may act: at most one
every 8 cycles (15 R378, R380). -/
def State.nextDispatch (s : State) (tower : Nat) : Option Instr :=
  let t := s.tower tower
  if s.now < t.acceptAt then none
  else t.posted.findSome? fun p =>
    let g := bits p.2.b1 32 13
    if g = 0 then (if s.turnFor tower p.2 then some (.bindAccept tower p.1) else none)
    else if s.groupReadyAt tower g then some (.clusterReserve tower g) else none

end Sys2Proof.Machine
end

