-- ==== Sys2Proof/Machine/Preempt.lean ====
section
/-! DEFINITION. Borrow, vacate and swap-out (16 R399 to R414, R476; 18 R436): how gangs are held, saves, context images, restores, borrows. -/

namespace Sys2Proof.Machine

open Sys2Proof

/-! ## Held gangs (01 R48; 16 R401, R407) -/

/-- Can a gang be held now: at a packet boundary; where it is stopped or faulted; or between two chain groups that wait for room? -/
def State.holdable (s : State) (g : Nat) (x : Gang) : Bool :=
  x.here && !x.aside &&
    match x.resume with
    | none => true
    | some c =>
      let gr := c.groups.headD []
      x.stop.isSome || x.faulted || decide (8 < x.logUsed + (gr.filter fun w => takesLog s g w.i).length) ||
        !(gr.all fun w => (!c.parts.isEmpty && isMma w.i) || s.roomFor g c.slices w.i)

/-- A gang is held, and its queues are set aside. -/
def Gang.hold (x : Gang) : Gang := { x with aside := true, q := x.q.map fun p => (p.1, { p.2 with aside := true }) }
/-- A gang goes on, with its queues. -/
def Gang.unhold (x : Gang) : Gang :=
  { x with aside := false, q := (x.q.map fun p => (p.1, { p.2 with aside := false })).filter fun p => p.2 != {} }

/-- Gangs of a list that can be held are held. -/
def State.holdAll (s : State) (gs : List (Nat × Gang)) : State :=
  (gs.filter fun p => s.holdable p.1 p.2).foldl (fun s p => s.modGang p.1 Gang.hold) s

/-! ## The context area (16 R398, R410, R411) -/

def Tenant.ctxBase (x : Tenant) : Nat := x.fctl0.toNat / 8192 * 8192 + 2 ^ 64 * bits x.fctl1 48 16
def Tenant.ctxBytes (x : Tenant) : Nat := bits x.fctl1 24 24 * 2 ^ 20
def Tenant.ftmo (x : Tenant) : Nat := bits x.fctl1 0 16
def Tenant.rmap (x : Tenant) : Nat := x.fctl2.toNat / 65536 * 65536 + 2 ^ 64 * bits x.fctl3 48 16

/-- The layout of an image: bytes of a gang block, offsets of the sections, size in units of 128 bytes. -/
structure CtxLay where
  gb : Nat
  goff : Nat
  coff : Nat
  moff : Nat
  voff : Nat
  qoff : Nat
  size : Nat
  deriving DecidableEq, Repr

/-- The layout of a crew's image: the sections follow each other in the order of R411. -/
def Crew.ctxLay (cr : Crew) : CtxLay :=
  let gb := 0x5000 + (cr.nv * cr.width * 4 + 127) / 128 * 128
  let coff := 128 + cr.ngangs * gb
  let m := coff + 128 * (4 + (Config.ctxUnits 0).toNat)
  let v := m + if cr.tok then 128 * (1025 + (Config.ctxUnits 1).toNat) else 0
  let q := v + (cr.wsize / 4096 + cr.wsize + 127) / 128 * 128
  { gb := gb, goff := 128, coff := coff, moff := if cr.tok then m else 0, voff := v, qoff := q, size := q / 128 + (Config.ctxUnits 2).toNat }

/-- The lowest place of `len` bytes beside the images that a context area holds. -/
def ctxPlace (used : List (Nat × Nat)) (len lim : Nat) : Option Nat :=
  ((0 :: used.map fun p => p.1 + p.2).filter fun a => decide (a + len ≤ lim) && !(used.any fun u => overlap (a, len) u)).min?

/-- Images of a tenant that are written or to be written. -/
def State.ctxUsed (s : State) (t : Nat) : List (Nat × Nat) :=
  (s.crews.filter fun p => p.2.tenant == t && p.2.ctxLen != 0).map fun p => (p.2.ctxAt, p.2.ctxLen)

/-! ## The start of saves (16 R399, R406, R407; 08 R239) -/

/-- The crews of a crew's cluster that are resident, or saved; itself outside a cluster.  A member that has retired is none of them: its window
stays on its core (DESIGN CHOICE, log entry 51: 08 R239 does not say where it goes). -/
def State.clusterOf (s : State) (u : Nat) : List (Nat × Crew) :=
  let cr := s.crew u
  let n := (s.launch cr.lent).cw * (s.launch cr.lent).ch
  if cr.pos = 0 then [(u, cr)]
  else s.crews.filter fun p => p.2.lent == cr.lent && p.2.pos != 0 && p.2.idx / n == cr.idx / n && (p.2.here || p.2.saved)

/-- A save of one crew starts where its image finds room. -/
def State.startSave (s : State) (kind u : Nat) : Option State :=
  let cr := s.crew u
  if cr.saving ≠ 0 then some s
  else
    let len := 128 * cr.ctxLay.size
    (ctxPlace (s.ctxUsed cr.tenant) len (s.ten cr.tenant).ctxBytes).map fun a =>
      s.setCrew u { cr with saving := kind, saved := false, dispatchable := false, timer := none, ctxAt := a, ctxLen := len }

/-- Saves of several crews start, all or none; none of their cores may be under a borrow. -/
def State.startSaves (s : State) (kind : Nat) (us : List Nat) : Option State :=
  if us.any fun u => (s.core (s.crew u).core).borrow then none
  else us.foldl (fun a u => a.bind fun s => s.startSave kind u) (some s)

/-- Does a gang wait on a page request from a fetch or data fault? -/
def State.pageWait (s : State) (g : Nat) (x : Gang) : Bool :=
  x.here && (x.stop == some .fault ||
    (x.fetchWait && (s.tower (x.core / 48)).preqs.any fun q => q.who.any fun w => w.1 == .fetch g))

def State.crewWaits (s : State) (u : Nat) : Bool := (s.gangsOf u).any fun p => s.pageWait p.1 p.2

/-- The state after the swap-out of a crew whose timer has expired has started, where it can. -/
def State.swapOut (s : State) (u : Nat) (cr : Crew) : Option State :=
  match cr.timer with
  | none => none
  | some t =>
    let f := (s.ten cr.tenant).ftmo
    if f = 0 ∨ s.now < t + 2100 * f ∨ cr.aside then none else s.startSaves 1 ((s.clusterOf u).map (·.1))

/-- The cores on which a launch's next crew, or next cluster, could lie: blocks of one tower in the order of the search (15 R377). -/
def State.blocksFor (s : State) (la : Launch) (tower : Nat) : List (List Nat) :=
  let w := max 1 la.cw
  let h := max 1 la.ch
  let block (c : Nat) : List Nat := (List.range (w * h)).map fun j => c + 8 * (j / w) + j % w
  (((s.coreOrder tower).filter fun c => decide (c % 8 + w ≤ 8) && decide (c / 8 + h ≤ 6)).map block).filter (fun b =>
    b.all fun m => ((s.ten la.tenant).mask tower).getLsbD m) |>.map fun b => b.map (tower * 48 + ·)

/-- The crews that a launch's next crew could take room from in a block of cores: those of other launches, on cores with no borrow (15 R383). -/
def State.crewsIn (s : State) (l : Nat) (b : List Nat) : List (Nat × Crew) :=
  if b.any s.lent then [] else s.crews.filter fun p => p.2.here && b.contains p.2.core && p.2.lent != l && !p.2.rt && !p.2.cancelled

/-- The state without some crews, as room for others. -/
def State.without (s : State) (us : List Nat) : State :=
  { s with
    crews := s.crews.filter fun p => !us.contains p.1, gangs := s.gangs.filter fun p => !us.contains p.2.crew
    cores := s.cores.map fun p => (p.1, if p.2.tokOwner.any us.contains then { p.2 with tokOwner := none } else p.2) }

/-- The clusters of some crews, each crew once. -/
def State.withMates (s : State) (us : List Nat) : List Nat := (us.flatMap fun u => (s.clusterOf u).map (·.1)).dedup

/-- THE CREWS THAT MAKE ROOM (15 R383): the next crew of a launch has waited for longer than the starvation bound and fits nowhere, and no save is under
way; the crews of other launches on the first block of cores where it fits without them, and which can be saved, are swapped out with their clusters.
DESIGN CHOICE (log entry 56): the spec does not say which crews the policy swaps out. -/
def State.roomMakers (s : State) : List Nat :=
  if s.crews.any fun p => p.2.here && p.2.saving != 0 then []
  else match s.waitingLaunches.find? fun p => p.2.starving && !s.isRt p.2 && (s.bindOf p.1 p.2).isNone with
    | none => []
    | some (l, la) =>
      let sets := ([0, 1].flatMap (s.blocksFor la)).map fun b => s.withMates ((s.crewsIn l b).map (·.1))
      (sets.find? fun us => !us.isEmpty && (s.startSaves 1 us).isSome && ((s.without us).bindOf l la).isSome).getD []

/-- The state after the swap-out of the crews that make room has started, if `u` is one of them; nothing holds them out (16 R408). -/
def State.yieldRoom (s : State) (u : Nat) : Option State :=
  let us := s.roomMakers
  if us.contains u then
    (s.startSaves 1 us).map fun s => us.foldl (fun s v => s.modCrew v fun c => { c with dispatchable := true }) s
  else none

/-- Has a crew's swap-out timer something to do now, or is the crew swapped out to make room? -/
def State.timerTurn (s : State) (u : Nat) (cr : Crew) : Bool :=
  cr.here && cr.saving == 0 && !cr.cancelled &&
    ((if cr.timer.isNone then s.crewWaits u else !s.crewWaits u || (s.swapOut u cr).isSome) || (s.yieldRoom u).isSome)

/-- SWAPOUT_TIMER (16 R399, R402): the timer runs from zero while a gang waits on a page request; when it reaches FTMO µs the crew, with its
cluster, is saved.  A crew that makes room for a starving one is saved at once (15 R383), and nothing holds it out then (16 R408). -/
def execSwapoutTimer (u : Nat) (s : State) : Host.Outcome State Fault Refusal :=
  let cr := s.crew u
  if !s.timerTurn u cr then .next s
  else if (s.yieldRoom u).isSome then .next ((s.yieldRoom u).getD s)
  else if cr.timer.isNone then .next (s.setCrew u { cr with timer := some s.now })
  else if !s.crewWaits u then .next (s.setCrew u { cr with timer := none })
  else .next ((s.swapOut u cr).getD s)

/-- May the policy vacate cores: some GFX or COMPUTE launch waits, and each core holds crews, all of launches of lower priority (15 R368; 16 R406)? -/
def State.mayVacate (s : State) (cs : List Nat) : Bool :=
  let on (c : Nat) : List (Nat × Crew) := s.crews.filter fun p => p.2.here && p.2.core == c
  !cs.isEmpty && (cs.all fun c => decide (c < 96) && !(on c).isEmpty) &&
    s.waitingLaunches.any fun w =>
      let cls := (s.queue w.2.tenant w.2.queue).cls
      (cls == 1 || cls == 2) && cs.all fun c => (on c).all fun p => decide (s.prioOf (s.launch p.2.lent) < s.prioOf w.2)

/-- VACATE (16 R406): every crew on the named cores of a tower is saved, with its cluster.  A vacate that names a core under a borrow waits for its
end (16 R414). -/
def execVacate (tower : Nat) (cores : List Nat) (s : State) : Host.Outcome State Fault Refusal :=
  let cs := cores.map (tower * 48 + ·)
  if 2 ≤ tower ∨ cores.any (48 ≤ ·) then .next s
  else if cs.any s.lent then .next (s.at (s.now + 16) (.vacate tower cores))
  else if !s.mayVacate cs then .next s
  else
    let on := s.crews.filter fun p => p.2.here && cs.contains p.2.core
    .next ((s.startSaves 2 (on.flatMap fun p => (s.clusterOf p.1).map (·.1)).dedup).getD s)

/-! ## Images (16 R410, R411) -/

/-- Bytes of an image whose layout the spec does not give. -/
def freeBytes (at_ n : Nat) : List Byte := (List.range n).map fun k => (Config.freeWord (at_ + k)).setWidth 8

/-- A Q descriptor (06 R192). -/
def QBind.word (b : QBind) : Nat := b.kind * 2 ^ 28 + b.isel * 2 ^ 24 + b.stream * 2 ^ 16

/-- The bits of a loop frame in an image: its start, its ENDL as a signed distance, its count (DESIGN CHOICE, log entry 25). -/
def Frame.word (f : Frame) : Nat := f.start.toNat + 2 ^ 76 * ((f.endl - f.start).toNat % 2 ^ 20) + 2 ^ 96 * f.count.toNat
/-- The frame of such bits. -/
def Frame.ofWord (n : Nat) : Frame :=
  let st : PAddr := BitVec.ofNat 76 n
  { start := st, endl := st + (BitVec.ofNat 20 (n / 2 ^ 76)).signExtend 76, count := BitVec.ofNat 32 (n / 2 ^ 96) }

/-- The 128 bytes of a slice in an image (16 R411): PC and lane mask, live and REGANG flags, 3 stack entries, 4 loop frames; the places of
the bits within them are a DESIGN CHOICE (log entry 25). -/
def Slice.word (k : Slice) : Nat :=
  k.pc.toNat + 2 ^ 76 * k.mask.toNat + 2 ^ 80 * k.live.toNat + 2 ^ 81 * k.wait.toNat + 2 ^ 82 * k.stack.length + 2 ^ 84 * k.frames.length +
    (k.stack.zipIdx.map fun p => 2 ^ (96 + 80 * p.2) * (p.1.1.toNat + 2 ^ 76 * p.1.2.toNat)).sum +
    (k.frames.zipIdx.map fun p => 2 ^ (384 + 128 * p.2) * p.1.word).sum

/-- A slice with what its bytes in an image hold. -/
def Slice.ofWord (k : Slice) (n : Nat) : Slice :=
  { k with
    pc := BitVec.ofNat 76 n, mask := BitVec.ofNat 4 (n / 2 ^ 76), live := Nat.testBit n 80, wait := Nat.testBit n 81
    stack := (List.range (n / 2 ^ 82 % 4)).map fun j => (BitVec.ofNat 76 (n / 2 ^ (96 + 80 * j)), BitVec.ofNat 4 (n / 2 ^ (172 + 80 * j)))
    frames := (List.range (n / 2 ^ 84 % 8)).map fun j => Frame.ofWord (n / 2 ^ (384 + 128 * j)) }

/-- The pending marks of S, A, K and T registers, one bit each (16 R411; their order is a DESIGN CHOICE, log entry 25). -/
def Gang.pendWord (x : Gang) : Nat :=
  let bits (n : Nat) (f : Nat → PReg) : Nat := ((List.range n).map fun r => if x.pend.any (fun p => p.reg == f r) then 2 ^ r else 0).sum
  bits 16 .s + 2 ^ 16 * bits 16 .a + 2 ^ 32 * bits 8 .k + 2 ^ 40 * bits 4 .t

/-- The lanes of a V register that are pending. -/
def Gang.pendV (x : Gang) (r : Nat) : DWord := (x.pend.filter fun p => p.reg == .v r).foldl (fun m p => m ||| p.lanes) 0

/-- A section of `n` bytes with its contents in front; what is left is free. -/
def ctxFit (f n : Nat) (l : List Byte) : List Byte := l.take n ++ freeBytes (f + l.length) (n - l.length)

/-- The quarter and the state flags of a gang in an image; the places of the flags are a DESIGN CHOICE (log entry 25). -/
def Gang.stateWord (x : Gang) : Nat :=
  let l := [x.parked, x.faulted, x.stopNext, x.stop == some .fault, x.stop == some .software, x.mstep, x.fetchWait, x.resume.isSome, x.trapNext.isSome,
    x.cancelAt.isSome]
  x.quarter + ((l.zipIdx.filter (·.1)).map fun p => 2 ^ (2 + p.2)).sum

/-- A log entry in an image, 2 KiB (01 R45; 16 R411): the word, its PC, slot and active lanes, its scalar operands, its held lanes, and the address and
data of each lane; the places of the parts are a DESIGN CHOICE (log entry 25). -/
def Op.ctxEntry (o : Op) (f : Nat) : List Byte :=
  let lane (a : LaneAcc) : Nat := a.lane + 2 ^ 8 * (if a.st = .held then 1 else if a.st = .done then 2 else 0) + 2 ^ 16 * a.addr
  ctxFit f 0x800 (leBytes 16 o.pc.toNat ++ leBytes 8 (o.slot + 8 * o.refused.toNat + 16 * (((encodeWord o.i).getD 0))) ++
    ([o.lanes, o.x, o.y, o.held].flatMap fun w => leBytes 8 w.toNat) ++
    o.acc.flatMap fun a => leBytes 16 (lane a) ++ leBytes 8 (a.data + 2 ^ 32 * a.data2))

/-- The eight log entries of a gang in an image. -/
def Gang.ctxLog (x : Gang) (f : Nat) : List Byte :=
  let l := (x.ops.filter (·.logged)).take 8
  ctxFit f 0x4000 (l.zipIdx.flatMap fun p => p.1.ctxEntry (f + 0x800 * p.2))

/-- The block of a gang in an image. -/
def Gang.ctxBlock (x : Gang) (gb f : Nat) : List Byte :=
  let head := leBytes 8 x.stateWord ++ leBytes 8 x.pts ++ leBytes 4 x.mode.toNat ++ leBytes 4 x.flags.toNat ++ leBytes 8 x.mstat.toNat ++
    leBytes 8 x.tstat.toNat ++ leBytes 8 (x.tpc.toNat % 2 ^ 64) ++ leBytes 8 (x.tpc.toNat / 2 ^ 64) ++ leBytes 8 x.tmask.toNat
  let regs := ((List.range 16).flatMap fun r => leBytes 8 (x.sreg r).toNat) ++ ((List.range 16).flatMap fun r => leBytes 16 (x.areg r).toNat) ++
    ((List.range 8).flatMap fun r => leBytes 8 (x.kreg r).toNat) ++ (List.range 16).flatMap fun r => leBytes 4 (x.qst r).b.word
  let mid := leBytes 64 x.pendWord ++ ((List.range 16).flatMap fun k => leBytes 128 ((x.slices[k]?).getD {}).word) ++ ((List.range 96).flatMap fun r => leBytes 8 (x.pendV r).toNat) ++
    freeBytes (f + 0xA80) (0x1000 - 0xD80) ++ x.ctxLog (f + 0x1000)
  let v := (List.range x.nv).flatMap fun r => (List.range x.width).flatMap fun l => leBytes 4 (x.vreg r l).toNat
  head ++ regs ++ mid ++ v ++ freeBytes (f + 0x5000) (gb - 0x5000 - v.length)

/-- The bits of MSTAT and TSTAT that are not reserved (01 R26; 07 R231). -/
def mstatMask : DWord := 0x3FFFFFFF
def tstatMask : DWord := 0xFFFFFFFFFFFF07FF

/-- A gang with the fields of its block that R411 places; reserved bits are ignored (00 R10). -/
def Gang.fromBlock (x : Gang) (b : List Byte) : Gang :=
  let w (o n : Nat) : Nat := fieldAt b o n
  let v := (List.range x.nv).flatMap fun r => (List.range x.width).map fun l => (r * 64 + l, BitVec.ofNat 32 (w (0x5000 + 4 * (r * x.width + l)) 4))
  { x with
    pts := max x.pts (w 8 8), mode := BitVec.ofNat 32 (w 0x10 4) &&& modeMask, flags := BitVec.ofNat 32 (w 0x14 4) &&& flagsMask
    mstat := BitVec.ofNat 64 (w 0x18 8) &&& mstatMask
    tstat := BitVec.ofNat 64 (w 0x20 8) &&& tstatMask, tpc := BitVec.ofNat 80 (w 0x28 8 + 2 ^ 64 * (w 0x30 8 % 65536)), tmask := BitVec.ofNat 64 (w 0x38 8)
    slices := x.slices.zipIdx.map fun p => p.1.ofWord (w (0x280 + 128 * p.2) 128)
    s := (List.range 16).foldl (fun m r => Sparse.set 0 m r (BitVec.ofNat 64 (w (0x40 + 8 * r) 8))) []
    a := (List.range 16).foldl (fun m r => Sparse.set 0 m r (BitVec.ofNat 80 (w (0xC0 + 16 * r) 16))) []
    k := (List.range 8).foldl (fun m r => Sparse.set 0 m r (BitVec.ofNat 64 (w (0x1C0 + 8 * r) 8))) []
    v := v.foldl (fun m p => Sparse.set 0 m p.1 p.2) [] }

/-- The width code of a launch record. -/
def widthCode (w : Nat) : Nat := if w = 16 then 0 else if w = 32 then 1 else 2

/-- The header of a crew's image. -/
def State.ctxHeader (s : State) (cr : Crew) : List DWord :=
  let y := cr.ctxLay
  let nmx := ((s.core cr.core).minsts.filter fun m => m.crew == cr.lent * 2 ^ 32 + cr.idx).length
  let img := (((s.launch cr.lent).img).map fun m => m.imgid.toNat).getD 0
  [pack [(48, 0xC7E1), (40, 1), (37, cr.saving), (34, cr.tenant), (33, cr.core / 48), (0, y.size)],
   pack [(32, cr.idx), (21, cr.lent % 2048), (17, cr.pos), (16, if cr.tok then 1 else 0), (10, cr.core % 48), (6, cr.ngangs - 1), (4, widthCode cr.width),
     (0, cr.nv / 8)],
   pack [(56, cr.wsize / 16384), (52, nmx), (47, (cr.copies.filter fun c => c.started && !c.moved).length), (0, img)],
   BitVec.ofNat 64 y.goff, BitVec.ofNat 64 y.coff, BitVec.ofNat 64 y.moff, BitVec.ofNat 64 y.voff, BitVec.ofNat 64 y.qoff, BitVec.ofNat 64 s.now]

/-- The vault section: valid bits, then the window's bytes. -/
def State.ctxVault (s : State) (u : Nat) (cr : Crew) : List Byte :=
  let bit (k : Nat) : Nat := if Sparse.get false cr.gran k then 1 else 0
  ((List.range (cr.wsize / 4096)).map fun j => BitVec.ofNat 8 (((List.range 8).map fun i => bit (8 * j + i) * 2 ^ i).sum)) ++
    s.vaultBytes u 0 cr.wsize

/-- A copy in an image: its record, its NB register and state, its next vector, and its parts with their follow-on words. -/
def Copy.ctxBytes (cp : Copy) : List Byte :=
  let kind := match cp.kind with
    | .dense => 0
    | .plane => 1
    | .csr => 2
    | .stream => 3
  ([cp.sh.w0, cp.sh.w1, cp.sh.w2, cp.sh.w3].flatMap fun w => leBytes 8 w.toNat) ++
    leBytes 8 (cp.h + 8 * cp.nb + 2 ^ 8 * kind + 2 ^ 10 * cp.tomem.toNat + 2 ^ 11 * cp.started.toNat + 2 ^ 12 * cp.moved.toNat + 2 ^ 16 * cp.parts.length) ++
    leBytes 8 cp.next ++
    cp.parts.flatMap fun p => leBytes 8 (p.gang % 16 + 2 ^ 4 * p.wants.toNat + 2 ^ 8 * p.first + 2 ^ 24 * p.count) ++
      leBytes 8 (p.disp % 2 ^ 64).toNat ++ leBytes 8 ((p.follow.bind fun w => encodeWord w.i).getD 0)

/-- The state of a matrix instruction in an image (11 R314): word, token and mode, records, progress, deferred rows, accounting, staged records. -/
def MInst.ctxBytes (m : MInst) : List Byte :=
  leBytes 8 ((encodeWord m.i).getD 0 + 2 ^ 32 * m.tok + 2 ^ 34 * m.rm + 2 ^ 37 * m.ord.toNat + 2 ^ 38 * m.mixed.toNat + 2 ^ 39 * m.ordok.toNat +
      2 ^ 40 * m.aflags.toNat + 2 ^ 48 * m.depth + 2 ^ 56 * m.layers) ++
    ([m.a.w0, m.a.w1, m.a.w2, m.a.w3, m.b.w0, m.b.w1, m.b.w2, m.b.w3, m.sv, m.adtab, m.adcfg].flatMap fun w => leBytes 8 w.toNat) ++
    leBytes 8 m.next ++ leBytes 8 m.passes ++ leBytes 8 ((m.everDef.map (2 ^ ·)).sum) ++
    (m.defer.flatMap fun p => leBytes 2 p.1 ++ leBytes 2 p.2) ++ (m.adids.flatMap fun a => leBytes 4 a) ++ m.staged.flatMap fun r => leBytes 64 r.toNat

/-- The queue section of an image: for each gang the records of each bound queue, in queue order (16 R411). -/
def State.ctxQueues (s : State) (u : Nat) : List Byte :=
  (s.gangsOf u).flatMap fun p => (List.range 16).flatMap fun r => (p.2.qst r).recs.flatMap fun e => leBytes 64 e.bits.toNat

/-- The crew section of an image (16 R411): H0 to H7 in the layout of a shape record (07 R201) and their validity, NB0 to NB15 (06 R181), ADTAB
and ADCFG, the tide groups as a mask, and the copies; R411 does not place them in the section, and they stand in its order, those of no layout in one
of the model (DESIGN CHOICE, log entry 25). -/
def State.ctxCrew (s : State) (u : Nat) (cr : Crew) : List Byte :=
  let hs := (List.range 8).map fun r => Sparse.get ({} : Shape) cr.h r
  let nb (r : Nat) : List Byte :=
    let x := Sparse.get ({} : NB) cr.nb r
    leBytes 8 (x.gen.toNat + 2 ^ 16 * x.arrived.toNat + 2 ^ 24 * x.member.toNat)
  let tide := (s.tides.filter fun p => p.2.members.contains (.crew u)).foldl (fun m p => m + 2 ^ p.1) 0
  (hs.flatMap fun h => [h.w0, h.w1, h.w2, h.w3].flatMap fun w => leBytes 8 w.toNat) ++
    leBytes 8 ((hs.zipIdx.map fun p => if p.1.valid then 2 ^ p.2 else 0).sum) ++ ((List.range 16).flatMap nb) ++
    leBytes 8 cr.adtab.toNat ++ leBytes 8 cr.adcfg.toNat ++ leBytes 32 tide ++ cr.copies.flatMap Copy.ctxBytes

/-- What a crew takes from the crew section of its image: its shape registers, ADTAB and ADCFG. -/
def Crew.fromSection (cr : Crew) (b : List Byte) : Crew :=
  let w (k : Nat) : DWord := BitVec.ofNat 64 (fieldAt b (8 * k) 8)
  { cr with
    h := (List.range 8).foldl (fun m r => Sparse.set {} m r
      (Shape.of ((w 32).getLsbD r) (w (4 * r)) (w (4 * r + 1)) (w (4 * r + 2)) (w (4 * r + 3)))) []
    adtab := w 49, adcfg := w 50 &&& BitVec.ofNat 64 (2 ^ 37 - 1) }

/-- A token's state in an image (DESIGN CHOICE, log entry 25), and the state of such a word for crew `u`. -/
def TokSt.word : TokSt → Nat
  | .engine => 0
  | .transfer g tag => 1 + 4 * (g % 16) + 2 ^ 32 * tag
  | .held g => 2 + 4 * (g % 16)
def TokSt.ofWord (u n : Nat) : TokSt :=
  if n % 4 = 1 then .transfer (16 * u + n / 4 % 16) (n / 2 ^ 32) else if n % 4 = 2 then .held (16 * u + n / 4 % 16) else .engine

/-- The matrix section of a crew that holds the tokens (16 R411): their states, the four accumulator sets row by row, and the states of the
instructions. -/
def State.ctxMatrix (s : State) (u : Nat) (cr : Crew) : List Byte :=
  let c := s.core cr.core
  if c.tokOwner == some u then
    let t := c.toks.flatMap fun t => leBytes 8 t.word
    t ++ List.replicate (128 - t.length) 0 ++ ((List.range 32768).flatMap fun k => leBytes 4 (Sparse.get 0 c.acc k).toNat) ++
      (c.minsts.filter fun m => m.crew == u).flatMap MInst.ctxBytes
  else []

/-- The tokens and accumulator sets of a crew come back from its matrix section (16 R408). -/
def Core.fromMatrix (c : Core) (u : Nat) (b : List Byte) : Core :=
  { c with
    toks := (List.range 4).map fun t => TokSt.ofWord u (fieldAt b (8 * t) 8)
    acc := (List.range 32768).foldl (fun m k => Sparse.set 0 m k (BitVec.ofNat 32 (fieldAt b (128 + 4 * k) 4))) []
    tokOwner := some u, adcache := [], adinv := [] }

/-- The image of a crew. -/
def State.ctxImage (s : State) (u : Nat) (cr : Crew) : List Byte :=
  let y := cr.ctxLay
  let head := (s.ctxHeader cr).flatMap fun w => leBytes 8 w.toNat
  let gangs := (s.gangsOf u).zipIdx.flatMap fun p => p.1.2.ctxBlock y.gb (s.fresh + 128 + y.gb * p.2)
  let v := s.ctxVault u cr
  let c := ctxFit (s.fresh + y.coff) (128 * (4 + (Config.ctxUnits 0).toNat)) (s.ctxCrew u cr)
  head ++ List.replicate (128 - head.length) 0 ++ gangs ++ c ++ ctxFit (s.fresh + y.moff) (y.voff - y.coff - c.length) (s.ctxMatrix u cr) ++ v ++
    List.replicate (y.qoff - y.voff - v.length) 0 ++ ctxFit (s.fresh + y.qoff) (128 * y.size - y.qoff) (s.ctxQueues u)

/-! ## Saves (16 R407) -/

/-- Is an operation of a gang held in the log: a data fault, what stands behind one or behind a wait, a wait, a take? -/
def Gang.opHeld (x : Gang) (o : Op) : Bool :=
  let waits (p : Op) : Bool := p.fault.isSome || isWait p.i || (p.i matches .islrecv ..) || (p.i matches .rdsr ..) || isMma p.i
  waits o || (x.before o.tag).any waits

/-- Is everything of a gang held or arrived? -/
def Gang.quiet (x : Gang) : Bool :=
  x.aside && x.wb.isEmpty && x.arr.isEmpty &&
    x.ops.all fun o => x.opHeld o && o.acc.all fun a => a.st != .walking && a.st != .sent

/-- Has a crew a record inside an island? -/
def State.inIsland (s : State) (u : Nat) : Bool :=
  let has (i : Island) : Bool := i.inside.any fun r => r.crew == u
  (s.cores.any fun p => has p.2.i0 || has p.2.i1) || s.towers.any fun p => p.2.wide.any fun w => has w.2

/-- May the image of a crew be written: its cluster is stopped, with no towpath access on its way (08 R239), its results have arrived or are
held, its pass and its island records are over, its LEASE bytes are home? -/
def State.saveReady (s : State) (u : Nat) (cr : Crew) : Bool :=
  let c := s.core cr.core
  let mine := c.minsts.filter fun m => m.crew == u
  ((s.clusterOf u).all fun p => (s.gangsOf p.1).all fun q => q.2.quiet || !q.2.here) && ((s.gangsOf u).all fun p => p.2.quiet) &&
    !(mine.any fun m => m.ends.isSome || c.pass.any fun p => p.inst == m.id) && !s.inIsland u &&
    !((s.gangsOf u).any fun p => s.holdsDirty cr.core p.1 || s.wrtOut p.1)

/-- Has a save something to do now? -/
def State.saveTurn (s : State) (u : Nat) (cr : Crew) : Bool :=
  cr.here && cr.saving != 0 && !(s.core cr.core).borrow &&
    ((s.gangsOf u).any (fun p => s.holdable p.1 p.2) || ((s.gangsOf u).all (fun p => p.2.aside) && (s.gangsOf u).any fun p => s.holdsDirty cr.core p.1) ||
      s.saveReady u cr)

/-- THE IMAGE IS WRITTEN and the crew's resources are free (16 R407): with its tokens go the accumulator sets and the instructions.  When
the last save of a vacate of the tower ends, its crews are dispatchable (16 R408). -/
def State.finishSave (s : State) (u : Nat) : State :=
  let cr := s.crew u
  let c := s.core cr.core
  let s' : State := s.mgmtWrite ((s.ten cr.tenant).ctxBase + cr.ctxAt) (s.ctxImage u cr)
  let s' : State := { s' with fresh := s.fresh + cr.ctxLen }
  let own := c.tokOwner == some u
  let cr' := { cr with here := false, saved := true, imgAdinv := if own then c.adinv else []
                       mins := c.minsts.filter fun m => m.crew == u }
  let s' : State := (s'.leaveCore u).setCrew u cr'
  let s' : State := if own then s'.modCore cr.core fun c => { c with acc := [] } else s'
  let s' : State := (s.gangsOf u).foldl (fun s p => s.modGang p.1 fun x => { x with here := false }) s'
  if cr.saving ≠ 2 ∨ (s'.crews.any fun p => p.2.here && p.2.saving == 2 && p.2.core / 48 == cr.core / 48) then s'
  else { s' with crews := s'.crews.map fun p =>
           if p.2.saved ∧ p.2.saving = 2 ∧ p.2.core / 48 = cr.core / 48 then (p.1, { p.2 with dispatchable := true }) else p }

/-- CREW_SAVE_COMPLETE (16 R402, R407, R410, R411): the crew's gangs stop as they reach packet boundaries, their LEASE bytes go home, and the image
is written. -/
def execCrewSaveComplete (u : Nat) (s : State) : Host.Outcome State Fault Refusal :=
  let cr := s.crew u
  if !s.saveTurn u cr then .next s
  else if (s.gangsOf u).any fun p => s.holdable p.1 p.2 then .next (s.holdAll (s.gangsOf u))
  else if s.saveReady u cr then .next (s.finishSave u)
  else .next (((s.gangsOf u).filter fun p => s.holdsDirty cr.core p.1).foldl (fun s p => s.flushGang cr.core p.1) s)

/-! ## Restores (16 R408, R409, R412, R413) -/

/-- The corner at which the cluster of a crew lies when that crew goes to `core`. -/
def cornerFor (la : Launch) (idx core : Nat) : Option Nat :=
  let j := idx % (la.cw * la.ch)
  let off := 8 * (j / la.cw) + j % la.cw
  if off ≤ core % 48 ∧ (core % 48 - off) % 8 + la.cw ≤ 8 ∧ (core % 48 - off) / 8 + la.ch ≤ 6 then some (core % 48 - off) else none

/-- The saved crews that a restore of `u` onto a core brings back, with their cores and claims; none where they do not fit. -/
def State.restorePlan (s : State) (u core : Nat) : Option (List (Nat × Nat × Claim)) :=
  let cr := s.crew u
  let la := s.launch cr.lent
  let fit (v c : Nat) : Option (Nat × Nat × Claim) :=
    if c / 48 ≠ cr.core / 48 ∨ !((s.ten cr.tenant).mask (c / 48)).getLsbD (c % 48) ∨ (s.core c).borrow then none
    else (s.placeOn la c).map fun k => (v, c, k)
  if cr.pos = 0 then (fit u core).map fun p => [p]
  else
    match cornerFor la cr.idx core with
    | none => none
    | some k =>
      let l := (s.clusterOf u).map fun p => fit p.1 (core / 48 * 48 + memberCore la k (p.2.idx % (la.cw * la.ch)))
      if l.all Option.isSome then some (l.filterMap id) else none

/-- May a crew be restored: it, or a member of its cluster, is dispatchable, and all of the cluster is saved? -/
def State.restorable (s : State) (u : Nat) (cr : Crew) : Bool :=
  let la := s.launch cr.lent
  cr.saved && la.cancel == 0 && !la.finished && ((s.clusterOf u).all fun p => p.2.saved) && (s.clusterOf u).any fun p => p.2.dispatchable

/-- THE NEXT RESTORE of the policy: crew and core, in order of service and ascending crew index. -/
def State.nextRestore (s : State) : Option (Nat × Nat) :=
  let before (a b : Nat × Crew) : Bool :=
    let x := s.rank (s.launch a.2.lent)
    let y := s.rank (s.launch b.2.lent)
    decide (x < y ∨ (x = y ∧ a.2.idx ≤ b.2.idx))
  let put (u : Nat) : Bool := s.agenda.any fun a => match a.2 with
    | .crewRestore v _ => v == u
    | _ => false
  let l := orderBy before (s.crews.filter fun p => s.restorable p.1 p.2 && !put p.1 && !s.yields (s.launch p.2.lent))
  l.findSome? fun p =>
    let t := p.2.core / 48
    ((s.coreOrder t).find? fun c => (s.restorePlan p.1 (t * 48 + c)).isSome).map fun c => (p.1, t * 48 + c)

/-- The bytes of a crew's image. -/
def State.readImage (s : State) (cr : Crew) : Option (List Byte) := s.mgmtRead ((s.ten cr.tenant).ctxBase + cr.ctxAt) cr.ctxLen

/-- Do an image's checked fields agree with the crew and its launch: TOK, gangs, width, registers, window and image (16 R412)? -/
def State.imageOk (s : State) (cr : Crew) (b : List Byte) : Bool :=
  let c0 := BitVec.ofNat 64 (fieldAt b 0 8)
  let c1 := BitVec.ofNat 64 (fieldAt b 8 8)
  let c2 := BitVec.ofNat 64 (fieldAt b 16 8)
  let la := s.launch cr.lent
  bits c0 48 16 == 0xC7E1 && bits c0 40 8 == 1 && (bits c0 37 3 == 1 || bits c0 37 3 == 2) && bits c0 34 3 == cr.tenant &&
    bits c0 33 1 == cr.core / 48 && bits c0 0 32 * 128 == cr.ctxLen && bits c1 32 32 == cr.idx && bits c1 21 11 == cr.lent % 2048 &&
    la.used && la.tenant == cr.tenant && c1.getLsbD 16 == (la.tok && !cr.rt) && bits c1 6 4 + 1 == la.ngangs && bits c1 4 2 == widthCode la.width &&
    bits c1 0 4 == la.nvd && bits c2 56 8 == la.vsz && bits c2 0 32 == ((la.img.map fun m => m.imgid.toNat).getD 0)

/-- The window of an image goes to its new place: valid bits and bytes. -/
def State.restoreVault (s : State) (u : Nat) (b : List Byte) (voff : Nat) : State :=
  let cr := s.crew u
  let base := 16384 * cr.vbase
  let n := cr.wsize / 4096
  let gran := (List.range (8 * n)).foldl (fun m k =>
    Sparse.set false m k (decide (fieldAt b (voff + k / 8) 1 / 2 ^ (k % 8) % 2 = 1))) []
  let s := s.modCore cr.core fun c => { c with vault := c.vault.filter fun p => !(decide (base ≤ p.1) && decide (p.1 < base + cr.wsize)) }
  let s := s.setCrew u { cr with gran := gran }
  s.modCore cr.core fun c => { c with vault := (List.range cr.wsize).foldl (fun m k =>
    Sparse.set 0 m (base + k) (BitVec.ofNat 8 (fieldAt b (voff + n + k) 1))) c.vault }

/-- The matrix instructions of a saved crew continue on the core under new numbers (11 R314), and the removals of adapter entries that wait
for them go on waiting (07 R226). -/
def State.restoreMinsts (s : State) (u core : Nat) (ms : List MInst) (inv : List (Nat × Nat)) : State :=
  let base := (s.core core).nextInst
  let new (id : Nat) : Nat := (((ms.zipIdx.find? fun p => p.1.id == id).map fun p => base + p.2)).getD id
  let s := s.modCore core fun c =>
    { c with minsts := c.minsts ++ ms.map fun m => { m with id := new m.id, intr := true }, nextInst := base + ms.length
             adinv := c.adinv ++ inv.map fun a => (base + (ms.filter fun m => decide (m.id < a.1)).length, a.2) }
  let op (o : Op) : Op := if isMma o.i || (o.i matches .rdsr ..) then { o with x := BitVec.ofNat 64 (new o.x.toNat) } else o
  (s.gangsOf u).foldl (fun s p => s.modGang p.1 fun x => { x with mid := new x.mid, ops := x.ops.map op }) s

/-- A gang comes back at its new place: held operations re-issue (01 R47), and waits are tested again (06 R197). -/
def State.restoreGang (s : State) (g core : Nat) (p : GPlace) (b : List Byte) : State :=
  let s := s.modGang g fun x =>
    let y := (x.fromBlock b).unhold
    { y with here := true, core := core, quarter := p.quarter, gslot := p.slot, rbase := p.lo
             ops := y.ops.map fun o => { o with due := s.now, fence := none, acc := o.acc.map fun a => if a.st = .ready then { a with st := .xlat } else a } }
  let s := (s.gang g).ops.foldl (fun s o => match o.i with
    | .nbwait .. => s.at s.now (.nbwaitComplete g o.tag)
    | .tgwait .. => s.at s.now (.tgwaitComplete g o.tag)
    | .evwait .. => s.evAgain g o
    | .macq t => s.at s.now (.macqComplete g t)
    | _ => if o.refused then s.pageRefused g o.tag else s) (s.retryHeld g)
  let x := s.gang g
  match x.fetchRefused with
  | some va => s.fetchRefusal g va
  | none => s

/-- The remap ring entry of a crew that has moved (16 R409). -/
def State.writeRemap (s : State) (cr : Crew) (core slot : Nat) : State :=
  let t := s.ten cr.tenant
  let e0 := pack [(32, cr.idx), (21, cr.lent % 2048), (17, cr.pos), (16, core / 48), (10, cr.core % 48), (4, core % 48), (0, slot)]
  let s := s.mgmtWrite (t.rmap + 16 * (t.remaps % 4096)) (leBytes 8 e0.toNat ++ leBytes 8 t.remaps) [mgmtRel .device {}]
  s.modTen cr.tenant fun x => { x with remaps := x.remaps + 1 }

/-- THE RESTORE OF ONE CREW from its image. -/
def State.restoreCrew (s : State) (u core : Nat) (c : Claim) (b : List Byte) : State :=
  let cr := s.crew u
  let la := s.launch cr.lent
  let (b0, b1) := c.record cr.lent cr.idx cr.pos cr.cgrp
  let tower := core / 48
  let k := ((List.range 1024).find? fun k => (Sparse.get ({} : SlotE) (s.tower tower).slots k).st == .free).getD 1023
  let s := s.modTower tower fun t => { t with slots := Sparse.set {} t.slots k { st := .resident, b0 := b0, b1 := b1, seq := t.postSeq }
                                              postSeq := t.postSeq + 1, lastCore := core % 48 }
  let s := s.setCrew u
    { cr with here := true, saved := false, saving := 0, dispatchable := false, timer := none, core := core, cslot := c.cslot, vbase := c.vb
              rbase := c.rb, sbase := c.sb, qmask := c.qmask, imgAdinv := [], mins := [], ctxAt := 0, ctxLen := 0
              imgWait := la.img.isSome && (s.core core).i1.img != la.img }
  -- from now on its issuers stand on the new core, and what they wait for goes through its L1
  let s : State := { s with places := s.places.map fun p => if p.2.crew = u ∧ p.2.ofCrew then (p.1, { p.2 with core := core }) else p }
  let s := s.modCrew u fun cr => { cr with copies := cr.copies.map fun p => { p with fence := none } }
  let s := s.modCore core fun k =>
    let k := if c.tok then k.fromMatrix u (b.drop (fieldAt b 40 8)) else k
    if la.cores.contains core then k else { k with l1i := [] }
  let s := s.modLaunch cr.lent fun x => { x with cores := if x.cores.contains core then x.cores else x.cores ++ [core] }
  let s := (s.restoreVault u b (fieldAt b 48 8)).modCrew u fun cr => cr.fromSection (b.drop (fieldAt b 32 8))
  let gb := cr.ctxLay.gb
  let s := ((s.gangsOf u).zip c.places).zipIdx.foldl (fun s p =>
    s.restoreGang p.1.1.1 core p.1.2 ((b.drop (fieldAt b 24 8 + gb * p.2)).take gb)) s
  let s := s.restoreMinsts u core cr.mins cr.imgAdinv
  let s := s.resumeCopies u
  if core = cr.core then s else s.writeRemap cr core c.cslot

/-- CREW_RESTORE (16 R408, R409, R412, R413): the image is checked, and the crew, or its whole cluster, comes back on a core of its tower. -/
def execCrewRestore (u core : Nat) (s : State) : Host.Outcome State Fault Refusal :=
  let cr := s.crew u
  if !s.restorable u cr then .next s
  else
    match s.restorePlan u core with
    | none => .next s
    | some l =>
      let (ready, s) := s.mgmtReady (l.map fun p => let c := s.crew p.1; ((s.ten c.tenant).ctxBase + c.ctxAt, c.ctxLen))
      if !ready then .next (s.at (s.now + 4) (.crewRestore u core))
      else
      let imgs := l.map fun p => (p, s.readImage (s.crew p.1))
      if imgs.all fun p => p.2.any (s.imageOk (s.crew p.1.1)) then
        .next ((imgs.foldl (fun s p => s.restoreCrew p.1.1 p.1.2.1 p.1.2.2 (p.2.getD [])) s).endTurn (s.launch cr.lent))
      else .next (s.askCancel cr.lent 3)

/-! ## Borrows (16 R401, R402, R405, R476; 18 R436) -/

/-- The gangs that a borrow of a core holds. -/
def State.victims (s : State) (c : Nat) : List (Nat × Gang) :=
  s.gangs.filter fun p => p.2.here && p.2.core == c && !(s.crew p.2.crew).rt && p.2.holdsPlace

/-- Does an RT crew hold, or wait for, a core? -/
def State.rtWants (s : State) (c : Nat) : Bool :=
  (s.crews.any fun p => p.2.here && p.2.rt && p.2.core == c) || (s.postedOn c).any (·.rt)

/-- Reservations of cluster groups on a core are released as conflicts (16 R402). -/
def State.dropReserves (s : State) (c : Nat) : State :=
  let t := s.tower (c / 48)
  let gs := t.groups.filter fun g => g.2.reserved.any fun k => bits (Sparse.get ({} : SlotE) t.slots k).b0 10 6 == c % 48
  gs.foldl (fun s g => s.conflict (c / 48) g.1) s

/-- The victims' V registers go to the spill area of their core, whose lines of the stacked cache, which are also in memory and not pinned, are
discarded at once (16 R400, R401). -/
def State.spill (s : State) (c : Nat) : State :=
  let s := (s.victims c).foldl (fun s p =>
    ((p.2.v.foldl (fun s e => s.spillWrite p.1 (e.1 / 64) [(e.1 % 64, e.2)]) s).modGang p.1 fun x => { x with v := [], spilled := true })) s
  s.modTower (c / 48) fun t => { t with stacked := t.stacked.map fun p => (p.1, p.2.filter fun ln => !Config.spillLine ln c || s.isPinned ln) }

/-- The V registers of a gang as its core's spill area holds them. -/
def State.spilledRegs (s : State) (x : Gang) : Sparse Word :=
  let m := (s.core x.core).vault
  (List.range x.nv).foldl (fun v r => (List.range x.width).foldl (fun v l =>
    Sparse.set 0 v (r * 64 + l) (BitVec.ofNat 32 (leNat ((List.range 4).map fun k => Sparse.get 0 m (x.spillAt r l + k))))) v) []

/-- The spill area is copied back (16 R405). -/
def State.unspill (s : State) (c : Nat) : State :=
  let s := (s.victims c).foldl (fun s p =>
    if p.2.spilled then s.modGang p.1 fun x => { x with v := s.spilledRegs x, spilled := false } else s) s
  s.modCore c fun k => { k with vault := k.vault.filter fun p => decide (p.1 < 3670016) }

/-- Has a borrow that is stopping its victims something to do now? -/
def State.borrowTurn (s : State) (c : Nat) (k : Core) : Bool :=
  k.borrow && k.spilled.isNone && k.restoring.isNone && ((s.victims c).any (fun p => s.holdable p.1 p.2) || (s.victims c).all fun p => p.2.aside)

/-- BORROW_COMMAND (16 R401, R405, R476): the core's gangs stop and are set aside with their crews; once all have, the shadow move and the spill take at
most 1,100 cycles, and after an interrupted restore at most what it had used.  A command for a core that is lent already changes nothing. -/
def execBorrowCommand (c : Nat) (s : State) : Host.Outcome State Fault Refusal :=
  let k := s.core c
  if 96 ≤ c ∨ !s.rtWants c then .next s
  else if !k.borrow then
    let s := (s.dropReserves c).modCore c fun k => { k with borrow := true, spilled := none, restoring := none }
    let s : State := { s with crews := s.crews.map fun p => if p.2.here ∧ p.2.core = c then (p.1, { p.2 with aside := true }) else p }
    .next (s.holdAll (s.victims c))
  else
    match k.restoring with
    | some (a, _) => .next (s.setCore c { k with restoring := none, spilled := some (s.now + min 1100 (s.now - a)) })
    | none =>
      if k.spilled.isSome then .next s
      else if (s.victims c).any fun p => s.holdable p.1 p.2 then .next (s.holdAll (s.victims c))
      else if (s.victims c).all fun p => p.2.aside then
        let (d, s) := s.popLag
        .next ((s.spill c).modCore c fun k => { k with spilled := some (s.now + (1100 - min 1100 d)) })
      else .next s

/-- Does a borrow end: no RT crew holds or waits for the core? -/
def State.borrowOver (s : State) (c : Nat) (k : Core) : Bool := k.borrow && k.restoring.isNone && !s.rtWants c

/-- The victims of a borrow go on with their registers, but for those whose save is under way. -/
def State.endBorrow (s : State) (c : Nat) : State :=
  let s := s.unspill c
  let s : State := { s with crews := s.crews.map fun p => if p.2.core = c then (p.1, { p.2 with aside := false }) else p }
  let s := (s.victims c).foldl (fun s p => if (s.crew p.2.crew).saving = 0 then (s.modGang p.1 Gang.unhold).retryHeld p.1 else s) s
  s.modCore c fun k => { k with borrow := false, spilled := none, restoring := none, lentImg := none }

/-- BORROW_RESTORE_COMPLETE (16 R405; 12 R344): once no RT crew holds the core its copy-back starts; when it has ended I1 is loaded again
if the borrow changed it, and the victims go on. -/
def execBorrowRestoreComplete (c : Nat) (s : State) : Host.Outcome State Fault Refusal :=
  let k := s.core c
  if s.borrowOver c k then
    let (d, s) := s.popLag
    let t := s.now + (1100 - min 1100 d)
    .next ((s.modCore c fun k => { k with spilled := none, restoring := some (s.now, t) }).at t (.borrowRestoreComplete c))
  else
    match k.restoring with
    | none => .next s
    | some (_, t) =>
      if s.now < t then .next s
      else
        match k.lentImg, k.i1.loading with
        | some _, some (e, _) => .next (s.at (max (s.now + 1) e) (.borrowRestoreComplete c))
        | some m, none =>
          if k.i1.img = some m then .next (s.endBorrow c)
          else
            let (d, s) := s.popLag
            let e := s.now + min 84000 (8400 + d)
            .next (((s.modCore c fun k => { k with i1 := { k.i1 with loading := some (e, m) } }).at e (.i1ImageLoadComplete c)).at e
              (.borrowRestoreComplete c))
        | none, _ => .next (s.endBorrow c)

end Sys2Proof.Machine
end

