-- ==== Sys2Proof/Machine/Windows.lean ====
section
/-! DEFINITION. The registers of BAR0 and BAR2 (15 R366; 16 R389, R393, R398; 19 R442 to R450, R453, R455; 20 R467): what a write does, what a
read returns, and the invalidation of translations. -/

namespace Sys2Proof.Machine

open Sys2Proof

/-- The registers decode once the boot has reached stage 3 (20 R459, R460), for tenants 0 to 7. -/
def State.decodes (s : State) (t : Nat) : Bool := s.life.booted && decide (t < 8)

/-- The bits `[lo + n - 1 : lo]` of a word, in place. -/
def keep (w : DWord) (lo n : Nat) : DWord := BitVec.ofNat 64 (bits w lo n) <<< lo

/-! ## Queues (15 R366, R367; 19 R445 to R447) -/

/-- A tail write is applied: one that does not move the pointer forward has no effect.  It is a release of the host's writes that are complete
(19 R445). -/
def State.putTail (s : State) (t q : Nat) (v : Word) : State :=
  let d := idxDist (s.queue t q).tail.toNat v.toNat
  if d = 0 ∨ 2 ^ 31 ≤ d then s else (s.modQueue t q fun x => { x with tail := v, tailK := s.hostK }).checkTail t q

/-- QTAIL: latched while the queue is out (19 R446). -/
def State.wrTail (s : State) (t q : Nat) (val : DWord) : State :=
  let v : Word := val.setWidth 32
  if !s.decodes t || decide (16 ≤ q) then s
  else if (s.queue t q).sw = 0 then s.putTail t q v
  else s.modQueue t q fun x => { x with latched := some v }

/-- QPROG: written only while the queue is out or disabled (19 R447). -/
def State.wrProg (s : State) (t q : Nat) (val : DWord) : State :=
  let x := s.queue t q
  if !s.decodes t || decide (16 ≤ q) || (x.sw == 0 && x.en) then s
  else s.modQueue t q fun x => { x with prog := val.setWidth 32, snap := val.setWidth 32, qerr := false }

/-- The fields of QD1; a ring size outside 4 to 20 leaves the queue disabled (15 R366). -/
def qd1Of (w : DWord) : DWord :=
  if 4 ≤ bits w 36 5 ∧ bits w 36 5 ≤ 20 then keep w 48 16 ||| keep w 29 12 else keep w 48 16 ||| keep w 30 11

/-- QD0 and QD1 (15 R366). -/
def State.wrQd (s : State) (t q k : Nat) (val : DWord) : State :=
  if !s.decodes t || decide (16 ≤ q) then s
  else if !(s.queue t q).en then
    (s.modQueue t q fun x => if k = 0 then { x with qd0 := val } else { x with qd1 := qd1Of val }).checkTail t q
  else if k = 1 ∧ !val.getLsbD 29 then s.modQueue t q fun x => { x with qd1 := x.qd1 &&& ~~~(1#64 <<< 29) }
  else s.service t

/-- Switch-out: the snapshot of PROG is taken (19 R446). -/
def State.wrOut (s : State) (t q : Nat) : State :=
  if !s.decodes t || decide (16 ≤ q) || (s.queue t q).sw != 0 then s
  else s.modQueue t q fun x => { x with sw := 2, snap := x.prog, latched := none }

/-- Switch-in: the latched tail is applied (19 R446). -/
def State.wrIn (s : State) (t q : Nat) : State :=
  let x := s.queue t q
  if !s.decodes t || decide (16 ≤ q) || x.sw == 0 then s
  else
    let s := s.modQueue t q fun x => { x with sw := 0, latched := none }
    match x.latched with
    | none => s
    | some v => s.putTail t q v

/-- QTAIL (19 R443, R445, R446). -/
def execQtail (t q : Nat) (val : DWord) (s : State) : Host.Outcome State Fault Refusal := .next (s.wrTail t q val)
/-- QPROG_WRITE (19 R447). -/
def execQprogWrite (t q : Nat) (val : DWord) (s : State) : Host.Outcome State Fault Refusal := .next (s.wrProg t q val)
/-- QD_WRITE (15 R366; 19 R443, R449). -/
def execQdWrite (t q k : Nat) (val : DWord) (s : State) : Host.Outcome State Fault Refusal :=
  if 2 ≤ k then .next s else .next (s.wrQd t q k val)
/-- SWITCH_OUT (19 R446). -/
def execSwitchOut (t q : Nat) (s : State) : Host.Outcome State Fault Refusal := .next (s.wrOut t q)
/-- SWITCH_IN (19 R446). -/
def execSwitchIn (t q : Nat) (s : State) : Host.Outcome State Fault Refusal := .next (s.wrIn t q)

/-! ## Translations (16 R389, R393) -/

/-- Has a tenant a resident or saved crew? -/
def State.tenBusy (s : State) (t : Nat) : Bool := s.crews.any fun p => p.2.tenant == t && (p.2.here || p.2.saved)

/-- The virtual pages of 8 KiB that an entry of the page-walk cache covers: the first and how many. -/
def pwcPages (e : Nat × Nat × Nat × DWord) : Nat × Nat :=
  let n := 2 ^ ((levelBits e.2.1).1 - 13)
  (e.2.2.1 * n, n)

/-- The entries of a tenant in every TLB and page-walk cache that touch `n` pages from a page, all of them where `n` is 0, go away. -/
def State.dropXlate (s : State) (t vp n : Nat) : State :=
  let hit (v m : Nat) : Bool := n == 0 || (decide (v < vp + n) && decide (vp < v + m))
  let keepT (e : TlbE) : Bool := !(e.tenant == t && hit e.vpage e.size)
  let keepW (e : Nat × Nat × Nat × DWord) : Bool := !(e.1 == t && hit (pwcPages e).1 (pwcPages e).2)
  { s with
    cores := s.cores.map fun p => (p.1, { p.2 with tlb := p.2.tlb.filter keepT })
    towers := s.towers.map fun p => (p.1, { p.2 with l2tlb := p.2.l2tlb.filter keepT, pwc := p.2.pwc.filter keepW }) }

/-- ROOT (16 R389; 19 R443): dropped while the tenant has a crew. -/
def State.wrRoot (s : State) (t : Nat) (val : DWord) : State :=
  if !s.decodes t then s
  else if s.tenBusy t then s.service t
  else (s.dropXlate t 0 0).modTen t fun x => { x with root := keep val 10 42 }

/-- ROOT_WRITE (16 R389). -/
def execRootWrite (t : Nat) (val : DWord) (s : State) : Host.Outcome State Fault Refusal := .next (s.wrRoot t val)

/-- Operations of a tenant's gangs with lanes that are translated, or wait on a walk, and are not performed (16 R393, R414). -/
def State.openOps (s : State) (t : Nat) : List (Nat × Nat) :=
  (s.gangs.filter fun p => p.2.tenant == t).flatMap fun p =>
    (p.2.ops.filter fun o => o.acc.any fun a => a.st == .ready || a.st == .sent || a.st == .walking).map fun o => (p.1, o.tag)

/-- Marks the walks in progress of a tenant, for which an invalidation waits (16 R414). -/
def Tower.markWalks (x : Tower) (t : Nat) : Tower :=
  { x with walks := x.walks.map fun w => if w.tenant = t ∧ w.due.isSome then { w with inv := true } else w }

/-- TLBINV1 (16 R393; 19 R443): with GO set an invalidation starts, unless one is busy. -/
def State.wrTlbInv (s : State) (t : Nat) (val : DWord) : State :=
  if !s.decodes t || !val.getLsbD 47 then s
  else if (s.ten t).tlbBusy then s.service t
  else
    let va := bits (s.ten t).tlbinv0 13 51 * 8192 + 2 ^ 64 * bits val 48 16
    let ops := s.openOps t
    let s : State := { s with towers := s.towers.map fun p => (p.1, p.2.markWalks t) }
    ((s.dropXlate t (va / 8192) (bits val 0 32)).modTen t fun x => { x with tlbBusy := true, tlbOps := ops, tlbFlush := false }).later 1
      (.tlbInvalidateComplete t)

/-- TLB_INVALIDATE (16 R393). -/
def execTlbInvalidate (t : Nat) (val : DWord) (s : State) : Host.Outcome State Fault Refusal := .next (s.wrTlbInv t val)

/-- Is an operation, translated before an invalidation, still not performed? -/
def State.opOpen (s : State) (p : Nat × Nat) : Bool :=
  match s.op? p.1 p.2 with
  | none => false
  | some o => o.acc.any fun a => a.st == .ready || a.st == .sent || a.st == .walking || a.st == .xlat

/-- TLB_INVALIDATE_COMPLETE (16 R393, R414; 19 R443, R449): once the walks in progress are over and the accesses translated before it are performed, and what they have written has
been sent home and acknowledged, the invalidation is complete. -/
def execTlbInvalidateComplete (t : Nat) (s : State) : Host.Outcome State Fault Refusal :=
  let x := s.ten t
  let gs := s.gangs.filter fun p => p.2.tenant == t && p.2.here
  let again (s : State) : State := s.at (s.now + 16) (.tlbInvalidateComplete t)
  if !x.tlbBusy then .next s
  else if x.tlbOps.any s.opOpen || s.towers.any fun p => p.2.walks.any fun w => w.inv && w.tenant == t then .next (again s)
  else if !x.tlbFlush then
    .next (again ((gs.foldl (fun s p => s.flushGang p.2.core p.1) s).modTen t fun x => { x with tlbFlush := true }))
  else if gs.any fun p => s.wrtOut p.1 then .next (again s)
  else .next ((s.modTen t fun x => { x with tlbBusy := false, tlbDone := x.tlbDone + 1, tlbOps := [], tlbFlush := false }).service t)

/-! ## Words that need a tenant without crews, and debug registers (16 R398; 19 R443, R444) -/

/-- PASID and FCTL0 to FCTL3: dropped while the tenant has a crew. -/
def State.wrQuiet (s : State) (t : Nat) (f : Tenant → Tenant) : State := if s.tenBusy t then s.service t else s.modTen t f

/-- TRBASE, while tracing is off; the count of entries starts again (19 R444). -/
def State.wrTrbase (s : State) (t : Nat) (val : DWord) : State :=
  if !s.decodes t || (s.ten t).dbgctl.getLsbD 1 then s
  else s.modTen t fun x => { x with trbase := keep val 12 40, trtail := 0 }

/-- TRBASE_WRITE (19 R444). -/
def execTrbaseWrite (t : Nat) (val : DWord) (s : State) : Host.Outcome State Fault Refusal := .next (s.wrTrbase t val)

/-- DBGCTL: tracing starts only with a ring in device memory (19 R444). -/
def State.wrDbgctl (s : State) (t : Nat) (val : DWord) : State :=
  let on := val.getLsbD 1 && s.isDevice (s.ten t).trbase.toNat
  s.modTen t fun x => { x with dbgctl := pack [(0, bits val 0 1), (1, if on then 1 else 0)] }

/-- A write of a tenant's window at an offset (19 R443). -/
def State.wrTenant (s : State) (t off : Nat) (val : DWord) : State :=
  let i := off / 8
  if off < 0x100 then (if i % 2 = 0 then s.wrTail t (i / 2) val else s.wrProg t (i / 2) val)
  else if off = 0x100 then s.cancelReq t val
  else if off < 0x2000 then s
  else if off < 0x2100 then s.wrQd t ((off - 0x2000) / 16) (i % 2) val
  else if off < 0x2180 then
    (let q := (off - 0x2100) / 8
     match bits val 0 2 with
     | 1 => s.wrOut t q
     | 2 => s.wrIn t q
     | _ => s)
  else if off = 0x2200 then s.wrRoot t val
  else if off = 0x2208 then s.wrQuiet t fun x => { x with pasid := keep val 0 20 }
  else if off = 0x2210 then s.wrQuiet t fun x => { x with fctl0 := val }
  else if off = 0x2218 then s.wrQuiet t fun x => { x with fctl1 := keep val 24 40 ||| keep val 0 17 }
  else if off = 0x2220 then s.wrQuiet t fun x => { x with fctl2 := val }
  else if off = 0x2228 then s.wrQuiet t fun x => { x with fctl3 := keep val 48 16 }
  else if off = 0x2230 then s.modTen t fun x => { x with carea0 := keep val 6 58 }
  else if off = 0x2238 then s.modTen t fun x => { x with carea1 := keep val 48 16 }
  else if off = 0x2240 then s.modTen t fun x => { x with tlbinv0 := keep val 13 51 }
  else if off = 0x2248 then s.wrTlbInv t val
  else if off = 0x2258 then s.modTen t fun x => { x with images := x.images.filter fun p => p.1 != val.toNat }
  else if 0x2300 ≤ off ∧ off < 0x2380 then
    (let k := (off - 0x2300) / 16
     s.modTen t fun x =>
       if i % 2 = 0 then { x with bpa := Sparse.set 0 x.bpa k (keep val 4 60) }
       else { x with bpb := Sparse.set 0 x.bpb k (keep val 48 16 ||| keep val 0 4) })
  else if off = 0x2380 then s.wrDbgctl t val
  else if off = 0x2388 then s.wrTrbase t val
  else if off = 0x2390 then (if (s.ten t).dbgctl.getLsbD 1 then s else s.modTen t fun x => { x with trsize := keep val 0 5 })
  else s

/-! ## The privileged window (19 R453 to R455; 20 R467) -/

/-- CECNT(k): a write clears it (20 R467). -/
def State.wrCecnt (s : State) (k : Nat) : State :=
  if s.life.booted ∧ k ≤ 98 then { s with priv := { s.priv with cecnt := Sparse.set 0 s.priv.cecnt k 0 } } else s

/-- CECNT_CLEAR (20 R467). -/
def execCecntClear (k : Nat) (s : State) : Host.Outcome State Fault Refusal := .next (s.wrCecnt k)

/-- The row of a command code (19 R454). -/
def commandRow : Nat → Instr
  | 0x01 => .tcreate
  | 0x02 => .tdestroy
  | 0x03 => .coremask
  | 0x04 => .rtset
  | 0x05 => .coresp
  | 0x06 => .scgran
  | 0x07 => .tidealloc
  | 0x08 => .tideisl
  | 0x09 => .pin
  | 0x0A => .unpin
  | 0x0B => .tabload
  | 0x0C => .rangewr
  | 0x0D => .wload
  | 0x0E => .wgrant
  | 0x0F => .pgretire
  | 0x10 => .measext
  | 0x11 => .starve
  | _ => .invalidCommand

/-- CMDOP (19 R453): a command starts with the arguments as they stand, unless one is busy.  TABLOAD is checked for 2,048 cycles (17
R429). -/
def State.wrCmdop (s : State) (val : DWord) : State :=
  if s.priv.busy then s
  else
    let s := { s with priv := { s.priv with cmdop := keep val 0 19, busy := true, cargs := s.priv.args, cend := none } }
    s.later (if bits val 0 16 = 0x0B then 2048 else 0) (commandRow (bits val 0 16))

/-- The fields of an ingress window's register (19 R455). -/
def iwTenant (w : DWord) : Nat := bits w 60 3
def iwSize (w : DWord) : Nat := 2 ^ bits w 53 5
def iwTrig (w : DWord) : Nat := bits w 20 20
def iwTarget (w : DWord) : Nat := bits w 0 16

/-- The tide group that a window's word names, for its tenant, where KIND and JOIN are 1. -/
def State.iwGroup (s : State) (w : DWord) : Option Nat :=
  let g := bits w 0 8
  if w.getLsbD 59 && w.getLsbD 58 && (s.tide g).tenant == some (iwTenant w) then some g else none

/-- A window joins or leaves a tide group as its word changes, at the next generation: the cleared bit is no arrival (19 R456; 06 R186). -/
def State.iwJoin (s : State) (n : Nat) (old new : DWord) : State :=
  let a := s.iwGroup old
  let b := s.iwGroup new
  if a = b then s
  else
    let s := match a with
      | some g => s.tideQuit g (.window n)
      | none => s
    match b with
    | some g => s.tideJoin g (.window n)
    | none => s

/-- Does a window's buffer lie in device memory, with a size from 2^13 to 2^20? -/
def State.iwFits (s : State) (w0 w1 : DWord) : Bool :=
  decide (13 ≤ bits w1 53 5) && decide (bits w1 53 5 ≤ 20) && s.isDevice (w0.toNat + iwSize w1 - 1)

/-- IW0 and IW1 of a window (19 R455): taken while EN is 0, or with the write that clears EN. -/
def State.wrIngress (s : State) (n k : Nat) (val : DWord) : State :=
  let w0 := Sparse.get 0 s.priv.iw0 n
  let w1 := Sparse.get 0 s.priv.iw1 n
  if k = 0 then
    (if w1.getLsbD 63 then s else { s with priv := { s.priv with iw0 := Sparse.set 0 s.priv.iw0 n (keep val 13 39) } })
  else if w1.getLsbD 63 && val.getLsbD 63 then s
  else
    let v := keep val 53 11 ||| keep val 20 20 ||| keep val 0 16
    let v := if s.iwFits w0 v then v else v &&& ~~~(1#64 <<< 63)
    { s with priv := { s.priv with iw1 := Sparse.set 0 s.priv.iw1 n v } }.iwJoin n w1 v

/-- A write of the privileged window. -/
def State.wrPriv (s : State) (off : Nat) (val : DWord) : State :=
  if off = 0 then s.wrCmdop val
  else if 0x40 ≤ off ∧ off < 0x80 then { s with priv := { s.priv with args := Sparse.set 0 s.priv.args ((off - 0x40) / 8) val } }
  else if off = 0x4000 then { s with priv := { s.priv with errbase := keep val 12 52 } }
  else if off = 0x4008 then { s with priv := { s.priv with errsz := keep val 0 5 } }
  else if off = 0x4010 then { s with priv := { s.priv with errhead := val } }
  else if 0x4040 ≤ off ∧ off ≤ 0x4040 + 8 * 98 then s.wrCecnt ((off - 0x4040) / 8)
  else if 0x8000 ≤ off ∧ off < 0x8200 then s.wrIngress ((off - 0x8000) / 16) (off / 8 % 2) val
  else s

/-! ## MSI-X (19 R448) -/

/-- A vector is unmasked: one that is pending sends its message. -/
def State.unmask (s : State) (v : Nat) : State :=
  let w := Sparse.get 1 s.priv.msix (4 * v + 3)
  ({ s with priv := { s.priv with msix := Sparse.set 1 s.priv.msix (4 * v + 3) (w &&& ~~~1#32) } } : State).sendVector v

/-- MSIX_VECTOR_UNMASK (19 R448). -/
def execMsixVectorUnmask (v : Nat) (s : State) : Host.Outcome State Fault Refusal :=
  if v < 256 then .next (s.unmask v) else .next s

/-- The default of a word of the MSI-X table: a vector is masked. -/
def msixDefault (k : Nat) : Word := if k % 4 = 3 then 1 else 0

/-- Writes a 32-bit word of the MSI-X table. -/
def State.wrMsix (s : State) (k : Nat) (x : Word) : State :=
  if k % 4 = 3 then
    (if x.getLsbD 0 then { s with priv := { s.priv with msix := Sparse.set 1 s.priv.msix k 1 } } else s.unmask (k / 4))
  else { s with priv := { s.priv with msix := Sparse.set (msixDefault k) s.priv.msix k x } }

/-! ## Writes and reads of the BARs (19 R442) -/

/-- The places of BAR2, of BAR4 and of configuration space among the offsets of a register access, above the 2^20 bytes of BAR0. -/
def bar2 : Nat := 2 ^ 20
def bar4 : Nat := 2 ^ 20 + 2 ^ 16
def cfgBase : Nat := 2 ^ 20 + 2 ^ 17

/-- A write of BAR2: 4 or 8 aligned bytes of the MSI-X table (19 R442, R448: the MSI-X rules). -/
def State.wrBar2 (s : State) (off size : Nat) (val : DWord) : State :=
  let k := (off - bar2) / 4
  if (size ≠ 4 ∧ size ≠ 8) ∨ off % size ≠ 0 ∨ 1024 ≤ k then s
  else
    let s := s.wrMsix k (val.setWidth 32)
    if size = 8 then s.wrMsix (k + 1) ((val >>> 32).setWidth 32) else s

/-- An aligned 8-byte write of BAR0. -/
def State.wrReg (s : State) (off : Nat) (val : DWord) : State :=
  if off < 0x80000 then s.wrTenant (off / 0x10000) (off % 0x10000) val
  else if off < 0x90000 then s.wrPriv (off - 0x80000) val
  else s

/-- A write of one or two aligned 32-bit words. -/
def State.wrWords (s : State) (put : State → Nat → Word → State) (off size : Nat) (val : DWord) : State :=
  if (size ≠ 4 ∧ size ≠ 8) ∨ off % size ≠ 0 then s
  else
    let s := put s off (val.setWidth 32)
    if size = 8 then put s (off + 4) ((val >>> 32).setWidth 32) else s

/-- REGISTER_WRITE (19 R440 to R442): a write of BAR0 of another size or alignment, or before the windows decode, is dropped; configuration space and the
component registers answer whatever the boot has reached (20 R460). -/
def execRegisterWrite (off size : Nat) (val : DWord) (s : State) : Host.Outcome State Fault Refusal :=
  if cfgBase ≤ off then .next (s.wrWords State.cfgWrite (off - cfgBase) size val)
  else if bar4 ≤ off then .next (s.wrWords State.compWrite (off - bar4) size val)
  else if !s.life.booted then .next s
  else if bar2 ≤ off then .next (s.wrBar2 off size val)
  else if size = 8 ∧ off % 8 = 0 then .next (s.wrReg off val)
  else .next s

/-- QPROG as it is read (19 R443, R446). -/
def Queue.progWord (x : Queue) : DWord :=
  pack [(63, if x.sw = 0 then 0 else 1), (62, if x.qerr then 1 else 0), (0, if x.sw = 0 then x.prog.toNat else x.snap.toNat)]

/-- A read of a tenant's window (19 R443). -/
def State.rdTenant (s : State) (t off : Nat) : DWord :=
  let x := s.ten t
  let i := off / 8
  if off < 0x100 then (if i % 2 = 1 then (s.queue t (i / 2)).progWord else 0)
  else if off = 0x108 then pack [(40, t), (32, Config.stepping.toNat), (16, 1), (0, 0x8400)]
  else if off < 0x2000 then 0
  else if off < 0x2100 then
    (let q := s.queue t ((off - 0x2000) / 16)
     if i % 2 = 0 then q.qd0 else q.qd1)
  else if off < 0x2180 then BitVec.ofNat 64 (s.queue t ((off - 0x2100) / 8)).sw
  else if off = 0x2200 then x.root
  else if off = 0x2208 then x.pasid
  else if off = 0x2210 then x.fctl0
  else if off = 0x2218 then x.fctl1
  else if off = 0x2220 then x.fctl2
  else if off = 0x2228 then x.fctl3
  else if off = 0x2230 then x.carea0
  else if off = 0x2238 then x.carea1
  else if off = 0x2250 then pack [(32, x.tlbDone.toNat), (0, if x.tlbBusy then 1 else 0)]
  else if 0x2300 ≤ off ∧ off < 0x2380 then
    (if i % 2 = 0 then Sparse.get 0 x.bpa ((off - 0x2300) / 16) else Sparse.get 0 x.bpb ((off - 0x2300) / 16))
  else if off = 0x2380 then x.dbgctl
  else if off = 0x2388 then x.trbase
  else if off = 0x2390 then x.trsize
  else if off = 0x2398 then x.trtail
  else 0

/-- BOOTSTAT (20 R467). -/
def State.bootstat (s : State) : DWord :=
  pack [(0, s.life.stage), (4, if s.life.recovery then 1 else 0), (5, if s.life.brown then 1 else 0), (8, s.life.layers.length % 256)]

/-- A read of the privileged window (19 R453, R455; 20 R467). -/
def State.rdPriv (s : State) (off : Nat) : DWord :=
  let p := s.priv
  if off = 8 then pack [(32, p.done.toNat), (8, p.result.toNat), (0, if p.busy then 1 else 0)]
  else if 0x40 ≤ off ∧ off < 0x80 then Sparse.get 0 p.args ((off - 0x40) / 8)
  else if 0x80 ≤ off ∧ off < 0xA0 then Sparse.get 0 p.res ((off - 0x80) / 8)
  else if off = 0x4000 then p.errbase
  else if off = 0x4008 then p.errsz
  else if off = 0x4010 then p.errhead
  else if off = 0x4018 then p.errtail
  else if off = 0x4020 then p.errlost
  else if 0x4040 ≤ off ∧ off ≤ 0x4040 + 8 * 98 then Sparse.get 0 p.cecnt ((off - 0x4040) / 8)
  else if 0x8000 ≤ off ∧ off < 0x8200 then
    (if off / 8 % 2 = 0 then Sparse.get 0 p.iw0 ((off - 0x8000) / 16) else Sparse.get 0 p.iw1 ((off - 0x8000) / 16))
  else 0

/-- A 32-bit word of BAR2: the MSI-X table, and the pending bits from 0x2000 on (19 R442, R448). -/
def State.rdMsix (s : State) (k : Nat) : Word :=
  if k < 1024 then Sparse.get (msixDefault k) s.priv.msix k
  else if 2048 ≤ k ∧ k < 2056 then s.priv.msixPend.extractLsb' (32 * (k - 2048)) 32
  else 0

/-- A read of one or two aligned 32-bit words. -/
def rdWords (get : Nat → Word) (off size : Nat) : DWord :=
  if (size ≠ 4 ∧ size ≠ 8) ∨ off % size ≠ 0 then 0
  else if size = 4 then (get off).setWidth 64
  else (get (off + 4)).setWidth 64 <<< 32 ||| (get off).setWidth 64

/-- A READ OF BAR2: 4 or 8 aligned bytes. -/
def State.rdBar2 (s : State) (off size : Nat) : DWord := rdWords (fun k => s.rdMsix (k / 4)) (off - bar2) size

/-- A READ OF A REGISTER OF THE HOST-LINK FUNCTION; of BAR0 (19 R442): zero for another size or alignment, an undefined register, or a window that does not decode; BOOTSTAT is read in
the recovery state too (20 R460). -/
def State.readRegister (s : State) (off size : Nat) : DWord :=
  if cfgBase ≤ off then rdWords s.cfgRead (off - cfgBase) size
  else if bar4 ≤ off then rdWords s.compRead (off - bar4) size
  else if bar2 ≤ off then (if s.life.booted then s.rdBar2 off size else 0)
  else if size ≠ 8 ∨ off % 8 ≠ 0 then 0
  else if off = 0x84380 then s.bootstat
  else if !s.life.booted then 0
  else if off < 0x80000 then s.rdTenant (off / 0x10000) (off % 0x10000)
  else if off < 0x90000 then s.rdPriv (off - 0x80000)
  else 0

end Sys2Proof.Machine
end

