-- ==== Sys2Proof/Machine/Commands.lean ====
section
/-! DEFINITION. The commands of the privileged window (19 R453, R454), with what they configure: tenants, masks, granules, pins, tide groups,
wide islands, protocol tables and range registers (08 R235, R250, R251; 12 R342, R344; 16 R400; 17 R425 to R431; 20 R462, R470). -/

namespace Sys2Proof.Machine

open Sys2Proof

/-! ## Starting and ending (19 R453) -/

/-- An argument with which the command started. -/
def State.cmdArg (s : State) (j : Nat) : DWord := Sparse.get 0 s.priv.cargs j
/-- The tenant of the command. -/
def State.cmdTen (s : State) : Nat := bits s.priv.cmdop 16 3
/-- The code of the command. -/
def State.cmdCode (s : State) : Nat := bits s.priv.cmdop 0 16
/-- Is a command in progress whose outcome is not known? -/
def State.cmdOpen (s : State) : Bool := s.priv.busy && s.priv.cend.isNone

/-- The outcome of the command is known, and it ends. -/
def State.cmdOut (s : State) (result res0 : Nat) : State :=
  { s with priv := { s.priv with cend := some (result, res0) } }.later 0 .commandEnd

/-- THE END OF A COMMAND: BUSY, RESULT, RES0 to RES3, the count, and the service vector of tenant 0. -/
def State.cmdDone (s : State) (result res0 : Nat) : State :=
  { s with priv := { s.priv with busy := false, result := BitVec.ofNat 8 result, res := Sparse.set 0 [] 0 (BitVec.ofNat 64 res0)
                                 done := s.priv.done + 1, cend := none } }.service 0

/-- The work of a command, while it is in progress. -/
def State.command (s : State) (code : Nat) (f : State → State) : Host.Outcome State Fault Refusal :=
  if s.cmdOpen && s.cmdCode == code then .next (f s) else .next s

/-- COMMAND_END (19 R453): a release at HOST scope of what the command has written, and so after those writes. -/
def execCommandEnd (s : State) : Host.Outcome State Fault Refusal :=
  match s.priv.busy, s.priv.cend with
  | true, some (r, k) => if s.mgmtPending.isEmpty then .next (s.cmdDone r k) else .next (s.at (s.now + 4) .commandEnd)
  | _, _ => .next s

/-- INVALID_COMMAND (19 R453): RESULT 2 at once. -/
def execInvalidCommand (s : State) : Host.Outcome State Fault Refusal :=
  if s.cmdOpen && (s.cmdCode == 0 || decide (0x11 < s.cmdCode)) then .next (s.cmdDone 2 0) else .next s

/-- A command for a tenant that exists: RESULT 1 otherwise; its effect with RESULT 0 where its condition holds. -/
def State.forTenant (s : State) (ok : Bool) (cond : Bool) (f : State → State) : State :=
  if !ok then s.cmdOut 2 0
  else if !(s.ten s.cmdTen).live then s.cmdOut 1 0
  else if cond then (f s).cmdOut 0 0
  else s.cmdOut 1 0

/-! ## Tenants -/

/-- The tenant's resources are as TCREATE leaves them; its window registers keep their values. -/
def Tenant.fresh (x : Tenant) : Tenant :=
  { x with live := true, pinning := none, queues := [], jobs := [], mask0 := 0, mask1 := 0, rt0 := 0, rt1 := 0, gran0 := 0, gran1 := 0, pins := []
           images := [], starve := 4000, cancels := [], remaps := 0, dying := false }

/-- TCREATE. -/
def execTcreate (s : State) : Host.Outcome State Fault Refusal :=
  s.command 0x01 fun s =>
    let t := s.cmdTen
    if (s.ten t).live then s.cmdOut 1 0
    else
      let tower (x : Tower) : Tower := { x with evq := x.evq.filter fun q => q.2.1 / 65536 != t }
      let s' : State :=
        { s with
          events := s.events.filter fun p => p.1 / 65536 != t
          evRes := s.evRes.filter fun k => k / 65536 != t
          towers := s.towers.map fun p => (p.1, tower p.2) }
      ((s'.evBack (s'.events.map (·.1))).modTen t Tenant.fresh).cmdOut 0 0

/-- Every job of a tenant is cancelled with CAUSE 4. -/
def State.cancelJobs (s : State) (t : Nat) : State :=
  (List.range 16).foldl (fun s q =>
    let jobs := ((s.queue t q).levels.filter fun l => l.kind == 3).map (·.first)
    jobs.foldl (fun s j => s.cancelLevel t q 3 j 4) s) s

/-- No island is a member of a group. -/
def State.clearGroup (s : State) (n : Nat) : State :=
  let isl (i : Island) : Island := if i.group = some n then { i with group := none } else i
  { s with cores := s.cores.map (fun p => (p.1, { p.2 with i0 := isl p.2.i0, i1 := isl p.2.i1 }))
           towers := s.towers.map fun p => (p.1, { p.2 with wide := p.2.wide.map fun w => (w.1, isl w.2) }) }

/-- A tide group is free: it has no tenant and no member, and waits on it are tested again. -/
def State.freeTide (s : State) (n : Nat) : State :=
  ((s.clearGroup n).setTide n { gen := (s.tide n).gen, waits := (s.tide n).waits }).wakeTide n

/-- Is a line in a range of 8 KiB units? -/
def inRange (p : Nat × Nat) (ln : Nat) : Bool := decide (p.1 ≤ ln * 128) && decide (ln * 128 < p.1 + 8192 * p.2)

/-- The end of a tenant: its pinned lines are written back (08 R251), and its pins, images, tide groups and granules go. -/
def State.endTenant (s : State) (t : Nat) : State :=
  let s := s.writeBack fun ln => (s.ten t).pins.any (inRange · ln)
  let s := s.modTen t fun x => { x with live := false, dying := false, pins := [], images := [], gran0 := 0, gran1 := 0, cancels := [] }
  let s := ((s.tides.filter fun p => p.2.tenant == some t).map (·.1)).foldl (fun s n => s.freeTide n) s
  { s with towers := s.towers.map fun p => (p.1, { p.2 with stacked := Sparse.set [] p.2.stacked t [] }) }

/-- TDESTROY: it waits for the tenant's crews and launches. -/
def execTdestroy (s : State) : Host.Outcome State Fault Refusal :=
  s.command 0x02 fun s =>
    let t := s.cmdTen
    if !(s.ten t).live then s.cmdOut 1 0
    else
      let s := if (s.ten t).dying then s else (s.modTen t fun x => { x with dying := true }).cancelJobs t
      if (s.crews.any fun p => p.2.tenant == t) || s.lents.any fun p => p.2.used && p.2.tenant == t then s.at (s.now + 16) .tdestroy
      else (s.endTenant t).cmdOut 0 0

/-- Has a tenant a resident crew on a core that `f` picks? -/
def State.crewOn (s : State) (t : Nat) (f : Nat → Bool) : Bool := s.crews.any fun p => p.2.here && p.2.tenant == t && f p.2.core

/-- A mask argument over the cores of a tower. -/
def maskArg (w : DWord) : BitVec 48 := w.setWidth 48

/-- COREMASK. -/
def execCoremask (s : State) : Host.Outcome State Fault Refusal :=
  s.command 0x03 fun s =>
    let t := s.cmdTen
    let tw := bits (s.cmdArg 0) 0 1
    let m := maskArg (s.cmdArg 1)
    let old := if tw = 0 then (s.ten t).mask0 else (s.ten t).mask1
    let used := s.crewOn t fun c => c / 48 == tw && old.getLsbD (c % 48) && !m.getLsbD (c % 48)
    s.forTenant true (!used) fun s => s.modTen t fun x => if tw = 0 then { x with mask0 := m } else { x with mask1 := m }

/-- The cores of a mask. -/
def maskCores (m : BitVec 48) : List Nat := (List.range 48).filter fun k => m.getLsbD k

/-- RTSET. -/
def execRtset (s : State) : Host.Outcome State Fault Refusal :=
  s.command 0x04 fun s =>
    let t := s.cmdTen
    let tw := bits (s.cmdArg 0) 0 1
    let m := maskArg (s.cmdArg 1)
    let cls := (maskCores m).all fun k => (s.core (48 * tw + k)).rtOn
    let lent := (List.range 48).any fun k => (s.core (48 * tw + k)).borrow &&
      ((s.crews.any fun p => p.2.here && p.2.rt && p.2.tenant == t && p.2.core == 48 * tw + k) ||
        (s.tower tw).posted.any fun p => bits p.2.b0 10 6 == k && (s.claimOf tw p.2.b0 p.2.b1).rt && (s.launch (s.lentOf p.2.b0)).tenant == t)
    s.forTenant (decide ((maskCores m).length ≤ 16)) (cls && !lent) fun s =>
      s.modTen t fun x => if tw = 0 then { x with rt0 := m } else { x with rt1 := m }

/-- STARVE: the bounds of crews that wait now are counted anew (15 R368). -/
def execStarve (s : State) : Host.Outcome State Fault Refusal :=
  s.command 0x11 fun s =>
    let t := s.cmdTen
    let n := (s.cmdArg 0).toNat
    s.forTenant (decide (1 ≤ n) && decide (n ≤ 1000000)) true fun s =>
      let s := s.modTen t fun x => { x with starve := n }
      (s.lents.filter fun p => p.2.used && p.2.started && !p.2.finished && p.2.tenant == t).foldl
        (fun s p => s.at (max s.now (p.2.since + 2100 * n)) (.starvationExpiry p.1)) s

/-! ## Scratchpads, granules and pins (08 R235, R250, R251; 17 R431) -/

/-- Granules of 512 KiB of a tower's stacked cache, and those that tenants hold. -/
def State.granTotal (s : State) (tw : Nat) : Nat := ((List.range 48).map fun k => 8 - (s.core (48 * tw + k)).sp / 2 ^ 19).sum
def Tenant.gran (x : Tenant) (tw : Nat) : Nat := if tw = 0 then x.gran0 else x.gran1
def State.granHeld (s : State) (tw : Nat) : Nat := ((List.range 8).map fun t => (s.ten t).gran tw).sum

/-- CORESP. -/
def execCoresp (s : State) : Host.Outcome State Fault Refusal :=
  s.command 0x05 fun s =>
    let tw := bits (s.cmdArg 0) 0 1
    let k := bits (s.cmdArg 0) 1 6
    let n := bits (s.cmdArg 1) 0 3
    let c := 48 * tw + k
    if 48 ≤ k ∨ n < 2 ∨ 6 < n then s.cmdOut 2 0
    else
      let s' := s.modCore c fun x => { x with sp := n * 2 ^ 19, rtOn := (s.cmdArg 1).getLsbD 8 }
      if (s.crews.any fun p => p.2.here && p.2.core == c) || decide (s'.granTotal tw < s.granHeld tw) then s.cmdOut 1 0
      else s'.cmdOut 0 0

/-- The bytes that a tenant's pins take on each tower: half of each page lies on each (08 R248). -/
def Tenant.pinned (x : Tenant) : Nat := (x.pins.map fun p => 4096 * p.2).sum
/-- The bytes that may be pinned with so many granules. -/
def pinLimit (n : Nat) : Nat := (n - 1) * 2 ^ 19

/-- SCGRAN. -/
def execScgran (s : State) : Host.Outcome State Fault Refusal :=
  s.command 0x06 fun s =>
    let t := s.cmdTen
    let tw := bits (s.cmdArg 0) 0 1
    let n := (s.cmdArg 1).toNat
    let fits := decide ((s.ten t).pinned ≤ pinLimit n) && decide (s.granHeld tw - (s.ten t).gran tw + n ≤ s.granTotal tw)
    s.forTenant true (!(s.crewOn t fun c => c / 48 == tw) && fits) fun s =>
      let s := s.modTen t fun x => if tw = 0 then { x with gran0 := n } else { x with gran1 := n }
      s.modTower tw fun x => { x with stacked := Sparse.set [] x.stacked t ((Sparse.get [] x.stacked t).take (4096 * n)) }

/-- Lines of a range that the stacked cache does not hold. -/
def State.toLoad (s : State) (pa n : Nat) : Nat :=
  ((List.range (64 * n)).filter fun k => !((s.tower (lineHome (pa / 128 + k) / 8)).stacked.any fun p => p.2.contains (pa / 128 + k))).length

/-- THE LINES OF A PINNED RANGE ARE IN THE STACKED CACHE: those read from GDDR7 in address order, with a record for each that meets an uncorrectable
error (20 R466); from now on every access to them hits (08 R251). -/
def State.pinLoaded (s : State) (t pa n : Nat) : State :=
  let bad := (List.range (64 * n)).filter fun k => s.life.badMem.any fun u => u / 2 == pa / 128 + k
  let s := bad.foldl (fun s k => s.memError (some t) (pa / 128 + k)) s
  let s : State := { s with towers := s.towers.map fun p =>
    (p.1, { p.2 with stacked := p.2.stacked.map fun q => (q.1, q.2.filter fun ln => !inRange (pa, n) ln) }) }
  s.modTen t fun x => { x with pins := x.pins ++ [(pa, n)], pinning := none }

/-- PIN (17 R431): it completes when every line of the range is in the stacked cache. -/
def execPin (s : State) : Host.Outcome State Fault Refusal :=
  s.command 0x09 fun s =>
    let t := s.cmdTen
    let pa := (s.cmdArg 0).toNat
    let n := (s.cmdArg 1).toNat
    let x := s.ten t
    let ok := pa % 8192 == 0 && n != 0 && s.isDevice (pa + 8192 * n - 1)
    let room (tw : Nat) : Bool := decide (x.pinned + 4096 * n ≤ pinLimit (x.gran tw))
    let free := (List.range 8).all fun k => (s.ten k).pins.all fun p => decide (p.1 + 8192 * p.2 ≤ pa) || decide (pa + 8192 * n ≤ p.1)
    let due := match x.pinning with
      | some (_, _, d) => d
      | none => s.now + if s.toLoad pa n = 0 then 0 else Config.latDram - Config.latHome + s.toLoad pa n
    if ok && x.live && room 0 && room 1 && decide (x.pins.length < 32) && free && decide (s.now < due) then
      (s.modTen t fun x => { x with pinning := some (pa, n, due) }).at due .pin
    else
    s.forTenant ok (room 0 && room 1 && decide (x.pins.length < 32) && free) fun s => s.pinLoaded t pa n

/-- UNPIN: the pinned lines are written back before it completes (08 R251; 17 R431). -/
def execUnpin (s : State) : Host.Outcome State Fault Refusal :=
  s.command 0x0A fun s =>
    let t := s.cmdTen
    let pa := (s.cmdArg 0).toNat
    s.forTenant (pa % 8192 == 0) ((s.ten t).pins.any fun p => p.1 == pa) fun s =>
      (s.writeBack fun ln => (s.ten t).pins.any fun p => p.1 == pa && inRange p ln).modTen t fun x => { x with pins := x.pins.filter fun p => p.1 != pa }

/-! ## Tide groups (06 R186, R188; 12 R342; 19 R456) -/

/-- A group is a tenant's: the ingress windows of the tenant whose JOIN bit names it are members. -/
def State.allocTide (s : State) (n t : Nat) : State :=
  let s := s.setTide n { tenant := some t, gen := (s.tide n).gen, waits := (s.tide n).waits }
  (s.priv.iw1.filter fun p => s.iwGroup p.2 == some n).foldl (fun s p => s.tideJoin n (.window p.1)) s

/-- TIDEALLOC. -/
def execTidealloc (s : State) : Host.Outcome State Fault Refusal :=
  s.command 0x07 fun s =>
    let t := s.cmdTen
    let n := bits (s.cmdArg 0) 0 8
    let g := s.tide n
    if (s.cmdArg 1).getLsbD 0 then
      s.forTenant true (g.tenant == some t && g.members.isEmpty && g.joining.isEmpty) fun s => s.freeTide n
    else s.forTenant true g.tenant.isNone fun s => s.allocTide n t

/-- TIDEISL (12 R342): an island leaves its group and joins another. -/
def execTideisl (s : State) : Host.Outcome State Fault Refusal :=
  s.command 0x08 fun s =>
    let n := bits (s.cmdArg 0) 0 16
    let tw := bits (s.cmdArg 1) 0 1
    let k := bits (s.cmdArg 1) 1 6
    let sel := bits (s.cmdArg 1) 7 4
    let core := 48 * tw + (if sel ≤ 1 then k else 0)
    let i := s.island core sel
    let bad := (255 < n ∧ n ≠ 0xFFFF) ∨ (sel ≤ 1 ∧ 48 ≤ k) ∨ sel = 2 ∨ sel = 3 ∨ 7 < sel
    if bad then s.cmdOut 2 0
    else if n ≠ 0xFFFF ∧ (s.tide n).tenant.isNone then s.cmdOut 1 0
    else if i.group = some n then s.cmdOut 0 0
    else
      let s := match i.group with
        | some o => s.tideLeave o (.island core sel) []
        | none => s
      let s := s.setIsland core sel { i with group := if n = 0xFFFF then none else some n }
      (if n = 0xFFFF then s else s.tideJoin n (.island core sel)).cmdOut 0 0

/-! ## Wide islands (12 R330, R344; 17 R425) -/

/-- Gangs of a tower and their Q registers that are bound to a wide island. -/
def State.wideBound (s : State) (tw sel : Nat) : List (Nat × Nat × QBind) :=
  (s.gangs.filter fun p => p.2.here && p.2.core / 48 == tw).flatMap fun p =>
    (p.2.q.filter fun r => (r.2.b.kind == 1 || r.2.b.kind == 2) && r.2.b.isel == sel).map fun r => (p.1, r.1, r.2.b)

/-- WGRANT. -/
def execWgrant (s : State) : Host.Outcome State Fault Refusal :=
  s.command 0x0E fun s =>
    let tw := bits (s.cmdArg 0) 0 1
    let k := bits (s.cmdArg 0) 1 2
    let m := bits (s.cmdArg 1) 0 8
    if k = 0 then s.cmdOut 2 0
    else if (s.wideBound tw (4 + k)).any fun b => !Nat.testBit m (s.gang b.1).tenant then s.cmdOut 1 0
    else (s.modTower tw fun x => { x with grants := Sparse.set 0 x.grants k m }).cmdOut 0 0

/-- A wide image has been loaded: ERR is clear, and what is inside the island and in the queues bound to it is discarded (12 R344). -/
def State.wideLoaded (s : State) (tw k : Nat) (m : Image) : State :=
  let old := s.island (48 * tw) (4 + k)
  let s := s.setIsland (48 * tw) (4 + k) { img := some m, group := old.group, pts := old.pts }
  (s.wideBound tw (4 + k)).foldl (fun s b => s.rebind b.1 b.2.1 b.2.2) s

/-- A container in device memory, read by its SIZE field; none where it does not lie in memory. -/
def State.cmdContainer (s : State) (pa : Nat) : Option (List Byte) :=
  match s.mgmtRead pa 128 with
  | none => none
  | some h => s.mgmtRead pa (max 128 (fieldAt h 28 4))

/-- Is a container ready to be read? -/
def State.cmdContainerReady (s : State) (pa : Nat) : Bool × State :=
  match s.mgmtReady [(pa, 128)] with
  | (true, s) => s.mgmtReady [(pa, max 128 (((s.mgmtRead pa 128).map fun h => fieldAt h 28 4).getD 0))]
  | q => q

/-- A refused table or image: an error record and RESULT 3 with the check that failed (19 R453; 20 R468). -/
def State.cmdRefuse (s : State) (check info : Nat) : State := (s.errorRecord 6 51 none 0 info).cmdOut 3 check

/-- WLOAD (12 R344): the container is verified and measured; the load takes at most 336,000 cycles. -/
def execWload (s : State) : Host.Outcome State Fault Refusal :=
  s.command 0x0D fun s =>
    let tw := bits (s.cmdArg 0) 0 1
    let k := bits (s.cmdArg 0) 1 2
    let pa := (s.cmdArg 1).toNat
    let i := s.island (48 * tw) (4 + k)
    if k = 0 then s.cmdOut 2 0
    else
      match i.loading with
      | some (t, m) => if s.now < t then s else (s.wideLoaded tw k m).cmdOut 0 0
      | none =>
        match s.cmdContainerReady pa with
        | (false, s) => s.at (s.now + 4) .wload
        | (true, s) =>
        match s.cmdContainer pa with
        | none => s.cmdOut 2 0
        | some b =>
          if !(s.wideBound tw (4 + k)).isEmpty then s.cmdOut 1 0
          else
            match checkImage b true with
            | .error n => s.cmdRefuse n (fieldAt b 12 4)
            | .ok m =>
              let (d, s) := s.popLag
              let t := s.now + min 336000 (33600 + d)
              ((s.extend 6 (sha384 (b.take (fieldAt b 28 4)))).setIsland (48 * tw) (4 + k) { i with loading := some (t, m) }).at t .wload

/-- A change of every home. -/
def State.modHomes (s : State) (f : HomeSt → HomeSt) : State := (List.range 16).foldl (fun s h => s.modHome h f) s

/-! ## Protocol tables (17 R427 to R429) -/

/-- The entries of a container. -/
def tabEntries (b : List Byte) : List Nat := (List.range 512).map fun k => fieldAt b (64 + 4 * k) 4 % 2 ^ 27

/-- An entry that is not an error entry, with its state and message. -/
def tabRows (es : List Nat) : List (Nat × Nat × Nat) :=
  (es.zipIdx.filter fun p => !entErr p.1).map fun p => (p.2 / 32, p.2 % 32, p.1)

/-- The check of R425 that a table container fails, else the lowest rule of R428 that it breaks; 0 where it passes. -/
def tabCheck (b : List Byte) : Nat :=
  let es := tabEntries b
  let rows := tabRows es
  let multi := Nat.testBit (fieldAt b 0 4) 0
  let model := modelBroken es multi
  if fieldAt b 4 4 ≠ 0x1C7A5E02 ∨ fieldAt b 3 1 ≠ 1 then 1
  else if !containerSigned b 2112 then 2
  else if fieldAt b 12 4 < Config.isvn 0 then 3
  else if !rows.all tabDefined ∨ model = 1 then 1
  else if (multi ∧ !rows.all tabWriters) ∨ model = 2 then 2
  else if !rows.all tabStall ∨ model = 3 then 3
  else if !rows.all tabActions then 4
  else 0

/-- Does an enabled range register of a home select a slot? -/
def State.slotUsed (s : State) (slot : Nat) : Bool :=
  s.homes.any fun h => h.2.ranges.any fun r => r.2.2.getLsbD 0 && bits r.2.2 1 3 == slot

/-- The hardware checkers of the homes, each on its staging copy of a slot, entry by entry (17 R429): the lowest rule that an entry breaks, 0 for none. -/
def State.checkers (s : State) (slot : Nat) : Nat :=
  (List.range 16).foldl (fun n h =>
    match (s.home h).staging.lookup slot with
    | some (_, b) =>
      let rows := tabRows (tabEntries b)
      lowerRule n (if !rows.all tabDefined then 1 else if !rows.all tabStall then 3 else if !rows.all tabActions then 4 else 0)
    | none => n) 0

/-- The staging copy of a slot becomes its active table, in every home at once. -/
def State.activate (s : State) (slot : Nat) (b : List Byte) : State :=
  { s with tables := Sparse.set [] s.tables slot (tableOf (tabRows (tabEntries b)))
           tmulti := Sparse.set false s.tmulti slot (Nat.testBit (fieldAt b 0 4) 0) }

/-- TABLOAD: a verified table is written into the staging copies of all homes, whose checkers take 2,048 cycles. -/
def execTabload (s : State) : Host.Outcome State Fault Refusal :=
  s.command 0x0B fun s =>
    let slot := (s.cmdArg 1).toNat
    if slot < 5 ∨ 7 < slot then s.cmdOut 2 0
    else
      match (s.home 0).staging.lookup slot with
      | some (t, b) =>
        if s.now < t then s
        else
          let n := s.checkers slot
          let s := s.modHomes fun x => { x with staging := x.staging.filter fun p => p.1 != slot }
          if n = 0 then ((s.activate slot b).extend 5 (sha384 b)).cmdOut 0 0 else s.cmdRefuse n (fieldAt b 8 4)
      | none =>
      match s.mgmtReady [((s.cmdArg 0).toNat, 2208)] with
      | (false, s) => s.at (s.now + 4) .tabload
      | (true, s) =>
      match s.mgmtRead (s.cmdArg 0).toNat 2208 with
      | none => s.cmdOut 2 0
      | some b =>
        if s.slotUsed slot then s.cmdOut 1 0
        else
          match tabCheck b with
          | 0 =>
            (s.modHomes fun x => { x with staging := (slot, s.now + 2048, b) :: x.staging }).at (s.now + 2048) .tabload
          | n => s.cmdRefuse n (fieldAt b 8 4)

/-! ## Range registers (17 R430) -/

/-- Every home's copy of a range register is written. -/
def State.rangePut (s : State) (n : Nat) (w : DWord × DWord) : State :=
  s.modHomes fun x => { x with ranges := Sparse.set (0, 0) x.ranges n w }

/-- Does a change of a register concern a line: covered by the old or the new range? -/
def State.rangeHits (s : State) (n : Nat) (w : DWord × DWord) (ln : Nat) : Bool :=
  rangeCovers w (ln * 128) || rangeCovers (Sparse.get (0, 0) (s.home (lineHome ln)).ranges n) (ln * 128)

/-- Is a message about a line of the coherence protocol? -/
def Msg.ofLine (m : Msg) : Bool := m.code != mREBASE && m.code != mREBANS && m.code != mNC && m.code != mTOW

/-- Lines of which a home, an L1, a bridge or a message knows. -/
def State.knownLines (s : State) : List Nat :=
  ((s.homes.flatMap fun h => h.2.lines.map (·.1)) ++ (s.homes.flatMap fun h => h.2.stalled.map (·.line)) ++
    (s.cores.flatMap fun c => c.2.l1.map (·.1) ++ c.2.buf.map (·.1)) ++ s.bridge.map (·.1) ++
    (s.net.filter Msg.ofLine).map (·.line)).dedup

/-- Has a line left its busy states, with everything of it acknowledged (17 R430, step 1)? -/
def State.lineQuiet (s : State) (ln : Nat) : Bool :=
  let l := s.hline ln
  let h := s.home (lineHome ln)
  l.rcl == 0 && !(decide (12 ≤ l.st) && decide (l.st ≤ 14)) && l.fwd.isNone && l.deferred.isNone && !h.inRebase &&
    !(h.stalled.any fun m => m.line == ln && m.writesBack) &&
    !(s.net.any fun m => Msg.ofLine m && m.line == ln && (!isRequest m.code || m.writesBack))

/-- Agents that hold a copy of a line. -/
def State.holders (s : State) (ln : Nat) : List Node :=
  (s.cores.filter fun c => (c.2.l1.any fun p => p.1 == ln && p.2.st != 0)).map (fun c => Node.core c.1) ++
    (if (s.bline ln).st = 0 then [] else [bridgeOf ln])

/-- Is a line frozen (10 R290)? -/
def State.onceFrozen (s : State) (ln : Nat) : Bool := (s.hline ln).st == 11 && (s.range ln).slot == 4

/-- A frozen line is recalled from every agent that holds a copy: its home keeps no sharer set, and its last owner holds it in O still
(10 R290). -/
def State.recallFrozen (s : State) (ln : Nat) : State :=
  let l := s.hline ln
  let ts := s.holders ln
  if l.rcl ≠ 0 then s
  else if ts.isEmpty then s.recallDone ln
  else
    let s := s.setHline ln { l with rcl := ts.length }
    ts.foldl (fun s n => s.send { code := mRECALL, src := .home (lineHome ln), dst := n, line := ln, due := 0 } latWay) s

/-- Requests of cores and of the bridge for some lines, which the homes stall while a range register changes, are taken back, so that what they stand
for can be asked again: lanes are ready again, and an agent that waits is where it was before its request (17 R430; DEDUCED, log entry 17). -/
def State.takeBack (s : State) (ls : List Nat) : State :=
  let stale (m : Msg) : Bool := Msg.ofLine m && ls.contains m.line && isRequest m.code && !m.writesBack
  let lane (a : LaneAcc) : LaneAcc := if a.st = .sent ∧ ls.contains (a.pa / 128) then { a with st := .ready } else a
  let op (o : Op) : Op := { o with acc := o.acc.map lane }
  let back (n : Node) (ln st : Nat) : Nat :=
    let l := s.hline ln
    if st = 6 then (if l.owner = some n then 3 else if l.sharers.contains n then 1 else 0) else if st = 5 then 0 else st
  let line (c : Nat) (p : Nat × L1Line) : Nat × L1Line :=
    if !ls.contains p.1 || s.kind p.2.table == .lease then p
    else
      let st := back (.core c) p.1 p.2.st
      (p.1, if st = 0 ∧ p.2.overlay.isEmpty then {} else { p.2 with st := st, waits := [] })
  let wants := s.bridge.filter fun p => ls.contains p.1 && p.2.want.isSome && (p.2.st == 5 || p.2.st == 6)
  let bline (p : Nat × BLine) : Nat × BLine :=
    if wants.any fun q => q.1 == p.1 then (p.1, { p.2 with st := back (bridgeOf p.1) p.1 p.2.st, want := none }) else p
  let s : State :=
    { s with
      net := s.net.filter fun m => !stale m
      homes := s.homes.map (fun p => (p.1, { p.2 with stalled := p.2.stalled.filter fun m => !stale m }))
      gangs := s.gangs.map (fun p => (p.1, { p.2 with ops := p.2.ops.map op }))
      cores := s.cores.map (fun p => (p.1, { p.2 with l1 := (p.2.l1.map (line p.1)).filter fun q => q.2 != {} }))
      bridge := (s.bridge.map bline).filter fun q => q.2 != {} }
  wants.foldl (fun s p => match p.2.want with
    | some (h, true) => s.hostAgain p.1 (.hostReadOwn (s.hdmAt + 128 * p.1 + 64 * h))
    | some (h, false) => s.hostAgain p.1 (.hostReadShared (s.hdmAt + 128 * p.1 + 64 * h))
    | none => s) s

/-- Recalls and flushes that lines which change need (17 R430, step 2): none where nothing is left to do. -/
def State.rangeRecall (s : State) (ls : List Nat) : Option State :=
  let copies := ls.filter fun ln => s.kind (s.range ln).slot != .lease &&
    ((s.hline ln).owner.isSome || !(s.hline ln).sharers.isEmpty || s.onceFrozen ln)
  let dirty := s.cores.flatMap fun c => (c.2.l1.filter fun p => ls.contains p.1 && p.2.dirty != 0 && s.kind p.2.table == .lease).map fun p => (c.1, p.1)
  if copies.isEmpty && dirty.isEmpty then none
  else
    let s := (dirty.foldl (fun s d => s.flushLine d.1 d.2) s).takeBack copies
    some (copies.foldl (fun s ln => if s.onceFrozen ln then s.recallFrozen ln else s.recallLine ln) s)

/-- What waits for lines that have changed asks again under the new register, and no agent keeps such a line (17 R430). -/
def State.rangeAgain (s : State) (ls : List Nat) : State :=
  let lane (a : LaneAcc) : LaneAcc := if a.st = .sent ∧ ls.contains (a.pa / 128) then { a with st := .ready } else a
  let op (o : Op) : Op := { o with acc := o.acc.map lane }
  let s := s.takeBack ls
  { s with
    gangs := s.gangs.map (fun p => (p.1, { p.2 with ops := p.2.ops.map op }))
    cores := s.cores.map (fun p => (p.1, { p.2 with l1 := p.2.l1.filter fun q => !ls.contains q.1 }))
    bridge := s.bridge.filter fun p => !ls.contains p.1 }

/-- The register is written, and the stalled requests are released (17 R430, steps 3 and 4). -/
def State.rangeWrite (s : State) (n : Nat) (w : DWord × DWord) (ls : List Nat) : State :=
  let s := (s.rangeAgain ls).rangePut n w
  let s : State := { s with homes := s.homes.map fun p => (p.1, { p.2 with chg := none }) }
  (s.homes.flatMap fun p => (p.2.stalled.map (·.line)).dedup).foldl (fun s ln => s.wakeLine ln) s

/-- RANGEWR (17 R430): all homes stall the lines concerned, recall what changes and what is frozen (10 R290), and write the register. -/
def execRangewr (s : State) : Host.Outcome State Fault Refusal :=
  s.command 0x0C fun s =>
    let n := (s.cmdArg 0).toNat
    let w : DWord × DWord := (keep (s.cmdArg 1) 0 62, keep (s.cmdArg 2) 0 10)
    if 64 ≤ n then s.cmdOut 2 0
    else if (Sparse.get [] s.tables (bits w.2 1 3)).isEmpty then s.cmdOut 1 0
    else
      let s := s.modHomes fun x => { x with chg := some (n, w) }
      let hit := s.knownLines.filter (s.rangeHits n w)
      if !hit.all s.lineQuiet then s.at (s.now + 16) .rangewr
      else
        let new := s.rangePut n w
        let ls := hit.filter fun ln => new.range ln != s.range ln || s.onceFrozen ln
        match s.rangeRecall ls with
        | some s => s.at (s.now + 16) .rangewr
        | none => (s.rangeWrite n w ls).cmdOut 0 0

/-! ## Retired pages and measurements (20 R462, R470) -/

/-- PGRETIRE. -/
def execPgretire (s : State) : Host.Outcome State Fault Refusal :=
  s.command 0x0F fun s =>
    let pa := (s.cmdArg 0).toNat
    if pa % 8192 ≠ 0 ∨ !s.isDevice pa then s.cmdOut 2 0
    else if s.life.pages.contains pa then s.cmdOut 0 0
    else if 1024 ≤ s.life.pages.length then s.cmdOut 1 0
    else (s.putPages (s.life.pages ++ [pa])).cmdOut 0 0

/-- MEASEXT. -/
def execMeasext (s : State) : Host.Outcome State Fault Refusal :=
  s.command 0x10 fun s => (s.extend 7 ((List.range 6).flatMap fun k => leBytes 8 (s.cmdArg k).toNat)).cmdOut 0 0

end Sys2Proof.Machine
end

