-- ==== Sys2Proof/Machine/Ingress.lean ====
section
/-! DEFINITION. The ingress port (19 R455 to R457; 20 R461): peer writes, the signals that follow them, and the reset of its link. -/

namespace Sys2Proof.Machine

open Sys2Proof

/-- A drop at the ingress port (19 R456; 20 R468, KIND 8). -/
def State.peerDrop (s : State) (tenant : Option Nat) (pa : Nat) : State := s.errorRecord 8 52 tenant pa 0

/-- A peer write that is accepted waits for its turn; bytes beyond the buffer, and writes to a window that is not enabled, are dropped. -/
def State.peerAccept (s : State) (win off req : Nat) (data : List Byte) : State :=
  let w0 := Sparse.get 0 s.priv.iw0 win
  let w1 := Sparse.get 0 s.priv.iw1 win
  if !w1.getLsbD 63 then s.peerDrop none 0
  else
    let d := data.take (iwSize w1 - off)
    let s := if d.length < data.length then s.peerDrop (some (iwTenant w1)) 0 else s
    let hit := decide (off ≤ iwTrig w1) && decide (iwTrig w1 < off + d.length)
    if d.isEmpty then s
    else { s with life := { s.life with
      peerQ := s.life.peerQ ++ [{ win := win, pa := w0.toNat + off, req := req, data := d, trig := if hit then some w1 else none }] } }

/-- Writes the bytes of one line as a non-caching request, whose timestamp its requester's signals release (R457); one that is refused is
dropped. -/
def State.peerLine (s : State) (req pa : Nat) (d : List Byte) : State :=
  let off := pa % 128
  match s.tornPath 1 0 none pa with
  | (true, s) => s
  | (false, s) =>
  match s.ncLine (pa / 128) (some (rangeMask off d.length, List.replicate off 0 ++ d, [])) 0 none (some 1) with
  | (.nak, s) => s.peerDrop none pa
  | (.data _ ts, s) => { s with peerTs := Sparse.set 0 s.peerTs req (max (Sparse.get 0 s.peerTs req) ts) }
  | (_, s) => s

/-- Peer writes are performed in order, each once all its lines are ready; a write that covers TRIG is followed by its signal (19 R456, R457).
True where one must wait. -/
def State.pumpPeers (s : State) : Nat → Bool × State
  | 0 => (false, s)
  | n + 1 =>
    match s.life.peerQ with
    | [] => (false, s)
    | w :: r =>
      let ps := piecesOf w.pa w.data.length
      let (ok, s) := s.allReady (.engine 0) 1 0 true (ps.map fun p => (some p.1, p.2))
      if !ok then (true, s)
      else
        let s := ps.foldl (fun s p => s.peerLine w.req p.1 ((w.data.drop (p.1 - w.pa)).take p.2)) s
        let s : State := { s with life := { s.life with peerQ := r } }
        match w.trig with
        | none => s.pumpPeers n
        | some w1 =>
          let s : State := { s with life := { s.life with signals := s.life.signals ++ [(w.win, w.req, w1)] } }
          (s.at (s.now + 1) (.ingressSignal w.win)).pumpPeers n

/-- PEER_WRITE (19 R456): window 32 names none, and only tries those that wait again. -/
def execPeerWrite (win off requester : Nat) (data : List Byte) (s : State) : Host.Outcome State Fault Refusal :=
  if !s.life.booted then .next s
  else
    let s := if win < 32 then s.peerAccept win off requester data else s
    let (wait, s) := s.pumpPeers (s.life.peerQ.length + 1)
    if wait ∧ !(s.agenda.any fun p => p.2 matches .peerWrite ..) then .next (s.at (s.now + 4) (.peerWrite 32 0 0 [])) else .next s

/-- INGRESS_SIGNAL (19 R456, R457): the oldest signal of a window adds 1 to an event, or is its arrival in a tide group; it is a release at
SYSTEM scope of the ING writes of the requester. -/
def execIngressSignal (win : Nat) (s : State) : Host.Outcome State Fault Refusal :=
  match s.life.signals.find? fun p => p.1 == win with
  | none => .next s
  | some g =>
    -- every one of its bytes has been performed at SYSTEM scope (19 R456), at the sharers of a write-through line too
    if s.net.any fun m => m.code == mUPDATE && m.cause == some 1 then .next (s.at (s.now + 1) (.ingressSignal win))
    else
    let s : State := { s with life := { s.life with signals := s.life.signals.erase g } }
    let w1 := g.2.2
    let rel : Rel := { who := { who := .peer }, scope := .system, pts := Sparse.get 0 s.peerTs g.2.1, vc := [] }
    let t := iwTenant w1
    if !w1.getLsbD 59 then .next (s.evOp 0 0 (evKey t (iwTarget w1)) (.launch 0) 0 [rel])
    else
      let n := bits w1 0 8
      -- a change of JOIN counts from the next generation on (06 R186)
      if (s.tide n).tenant = some t then .next (s.tideArrive n (.window win) [rel]).2 else .next s

/-- PEER_READ (19 R455): Unsupported Request. -/
def execPeerRead (_win _off : Nat) (s : State) : Host.Outcome State Fault Refusal :=
  .next { s with priv := { s.priv with answer := [], poison := true } }

/-- INGRESS_PERST (20 R461): the window registers keep their values, and peer writes in flight are dropped. -/
def execIngressPerst (s : State) : Host.Outcome State Fault Refusal :=
  .next { s with life := { s.life with peerQ := [] } }

end Sys2Proof.Machine
end

