-- ==== Sys2Proof/Machine/Attest.lean ====
section
/-! DEFINITION. The SPDM responder over DOE (20 R460, R463): the order of requests, certificate slot 0 and the measurement blocks.  Payloads that
the spec does not give are opaque. -/

namespace Sys2Proof.Machine

open Sys2Proof

/-- A response of a kind over what it depends on, as the requester receives it, and the stage of negotiation after it: 1 version, 2
capabilities, 3 algorithms. -/
def State.spdmSay (s : State) (kind : Nat) (args : List Nat) (body : List Byte) (st : Nat) : State :=
  { s with life := { s.life with spdm := Config.spdmBytes kind args ++ body, spdmState := st } }

/-- An error response. -/
def State.spdmError (s : State) (kind : Nat) : State := s.spdmSay 255 [kind] [] s.life.spdmState

/-- A response that needs the stage of negotiation `need`. -/
def State.spdmAfter (s : State) (need kind : Nat) (f : State → State) : State := if s.life.spdmState < need then s.spdmError kind else f s

/-- The registers that are reported: in the recovery state only MEAS0 (20 R460). -/
def State.measShown (s : State) : List (BitVec 384) := if s.life.recovery then s.life.meas.take 1 else s.life.meas

/-- GET_VERSION: negotiation starts. -/
def execGetVersion (s : State) : Host.Outcome State Fault Refusal := .next (s.spdmSay 0 [] [] 1)

/-- The flags of the responder (20 R463; their places PRESUMED from SPDM 1.3, log entry 55): certificates, challenges, signed measurements; no session. -/
def spdmFlags : Nat := 2 + 4 + 2 * 2 ^ 3

/-- GET_CAPABILITIES. -/
def execGetCapabilities (s : State) : Host.Outcome State Fault Refusal := .next (s.spdmAfter 1 1 fun s => s.spdmSay 1 [] (leBytes 4 spdmFlags) 2)

/-- The algorithms selected (20 R463; places PRESUMED from SPDM 1.3, log entry 55): measurement hash and base hash SHA-384, no base signature algorithm, and one
entry of ExtAsym, that of Nelloard's registry. -/
def spdmAlgs : List Byte := leBytes 4 4 ++ leBytes 4 0 ++ leBytes 4 2 ++ [1, 0]

/-- NEGOTIATE_ALGORITHMS. -/
def execNegotiateAlgorithms (s : State) : Host.Outcome State Fault Refusal := .next (s.spdmAfter 2 2 fun s => s.spdmSay 2 [] spdmAlgs 3)

/-- A signature with the identity key over a message (20 R463). -/
def State.spdmSign (s : State) (msg : List Byte) : List Byte := Config.identitySign s.life.identity (sha384 msg)

/-- GET_DIGESTS. -/
def execGetDigests (s : State) : Host.Outcome State Fault Refusal := .next (s.spdmAfter 3 3 fun s => s.spdmSay 3 [] [] 3)

/-- GET_CERTIFICATE: slot 0 holds the chain. -/
def execGetCertificate (slot : Nat) (s : State) : Host.Outcome State Fault Refusal :=
  .next (s.spdmAfter 3 4 fun s => if slot = 0 then s.spdmSay 4 [] [] 3 else s.spdmError 4)

/-- CHALLENGE: signed with the identity key over the nonce and the measurements. -/
def execChallenge (nonce : List Byte) (s : State) : Host.Outcome State Fault Refusal :=
  .next (s.spdmAfter 3 5 fun s =>
    s.spdmSay 5 (nonce.map (·.toNat) ++ s.measShown.map (·.toNat)) (s.spdmSign (nonce ++ s.measShown.flatMap measBytes)) 3)

/-- The measurement blocks that an index asks for: 0 their number, n + 1 MEASn, 255 all; none for another. -/
def State.measBlocks (s : State) (idx : Nat) : Option (List Byte) :=
  if idx = 0 then some [BitVec.ofNat 8 s.measShown.length]
  else if idx = 255 then some (s.measShown.flatMap measBytes)
  else (s.measShown[idx - 1]?).map measBytes

/-- GET_MEASUREMENTS: index n + 1 returns MEASn as a digest block, 255 every block, and 0 their number.  The row's index carries the request's attribute that
asks for a signature as bit 8 (log entry 55): the blocks are then followed by one. -/
def execGetMeasurements (idx : Nat) (s : State) : Host.Outcome State Fault Refusal :=
  .next (s.spdmAfter 3 6 fun s =>
    match s.measBlocks (idx % 256) with
    | some b => s.spdmSay 6 [idx] (b ++ if idx / 256 % 2 = 1 then s.spdmSign b else []) 3
    | none => s.spdmError 6)

end Sys2Proof.Machine
end

