-- ==== Sys2Proof/Machine/Boot.lean ====
section
/-! DEFINITION. Reset and boot (20 R459 to R462, R470, R472), the scrub (R469) and self-refresh (R471). -/

namespace Sys2Proof.Machine

open Sys2Proof

/-- Cycles between two scrubs: 12 hours (20 R469). -/
def scrubPeriod : Nat := 90720000000000

/-- What outlives a reset: the flash, its copies that a reset tears left out, and the fuses (20 R458, R470). -/
def Life.keep (l : Life) (now : Nat) (brown : Bool) : Life :=
  let tear (cs : List FlashCopy) : List FlashCopy := cs.map fun c => { c with whole := c.whole && decide (c.ends ≤ now), ends := 0 }
  let ps := tear l.flashPages
  let ls := tear l.flashLayers
  { brown := brown, eccOff := l.eccOff, firmware := l.firmware, flashPages := ps, flashLayers := ls, pages := flashList ps, layers := flashList ls
    flashSeq := l.flashSeq, imgI0 := l.imgI0, imgW0 := l.imgW0 }

/-- The device at the start of a boot: every byte of host memory stands, and what is to happen from outside. -/
def State.cold (s : State) (brown : Bool) : State :=
  { tape := s.tape.map fun p => (p.1 - s.now, p.2), lag := s.lag, fresh := s.fresh, mem := s.mem.filter fun p => isHost p.1
    life := { s.life.keep s.now brown with upsets := s.life.upsets.map fun p => (p.1 - s.now, p.2) } }

/-- An image as numbers, of which its measurement is made. -/
def Image.nums (m : Image) : List Nat :=
  [m.imgid.toNat, m.cls, m.lat, m.ii, if m.wide then 1 else 0, m.inmask, m.outmask] ++ m.pair ++ m.cells.map (·.toNat) ++ m.routes ++
    m.luts.flatMap fun l => l.1 :: l.2.map (·.toNat)

/-- The limits that the firmware sets in a layer, core × 4 + layer: the platform may lower them, and cannot raise them (20 R471). -/
def bootLimit (k : Nat) : LayerLimit := { temp := min 100 (Config.platformTemp k), current := min 900 (Config.platformCurrent k) }

/-- The limits of the layers of every core. -/
def bootLimits : List Nat :=
  (List.range 96).flatMap fun c => (List.range 3).flatMap fun l => [(bootLimit (4 * c + l)).temp, (bootLimit (4 * c + l)).current]

/-- What MEAS0 to MEAS4 are extended with (20 R462): a digest of the fuses except the secret; the firmware container up to its signature, where the flash
holds one; and digests of the ECC setting, the layer limits and the retirement lists, of the protocol tables, and of the images of I0 and W0. -/
def State.bootExtends (s : State) (k : Nat) : List Byte :=
  let of (l : List Nat) : List Byte := measBytes (Config.bootDigest k l)
  let ecc := if s.life.eccOff then 1 else 0
  match k, s.life.firmware with
  | 0, _ => of [Config.fusePkd.toNat, Config.fuseFsvn, Config.isvn 0, ecc]
  | 1, some b => sha384 (b.take (fieldAt b 40 4))
  | 2, _ => of (ecc :: bootLimits ++ s.life.pages.length :: s.life.pages ++ s.life.layers)
  | 3, _ => of (shippedTables.flatMap fun t => t.1 :: t.2.flatMap fun e => [e.1, e.2])
  | 4, _ => of ((s.life.imgI0.getD texImage).nums ++ (s.life.imgW0.getD rastImage).nums)
  | _, _ => of []

/-- The boot extends MEAS`a` to MEAS`b - 1` in order (20 R462). -/
def State.bootMeas (s : State) (a b : Nat) : State := ((List.range b).drop a).foldl (fun s k => s.extend k (s.bootExtends k)) s

/-- The boot ROM's checks of a firmware container (20 R459): the layout of 17 R423 with its MAGIC, the public key by PKD, the signature under it, and the
security version by FSVN. -/
def firmwareGood (b : List Byte) : Bool :=
  fieldAt b 4 4 == 0x1C7A5E03 && Config.keyDigest b == Config.fusePkd &&
    signedBy (Config.firmwareKey b) (b.take (fieldAt b 40 4)) ((b.drop (fieldAt b 40 4)).take 96) && decide (Config.fuseFsvn ≤ fieldAt b 52 4)

/-- The stage at which a boot fails, if any. -/
def Life.fails (l : Life) : Option Nat := if l.firmware.all firmwareGood then l.bootFail else some 1

/-- Layers, as core × 4 + layer, are FAILED from the start: those of the flash list, and those whose self-test fails (11 R310; 20 R459, R470). -/
def State.failLayers (s : State) (l : List Nat) : State :=
  l.foldl (fun s k => s.modCore (k / 4) fun c => { c with layers := c.layers.set (k % 4) .failed }) s

/-- The firmware sets the limits of every layer. -/
def State.setLimits (s : State) : State := { s with life := { s.life with limits := (List.range 384).map bootLimit } }

/-- Does an image agree with a standard one in class, target, LAT, II and streams (12 R344)? -/
def Image.stands (m n : Image) : Bool :=
  m.cls == n.cls && m.wide == n.wide && m.lat == n.lat && m.ii == n.ii && m.inmask == n.inmask && m.outmask == n.outmask

/-- A container of a platform update is verified for the island that its TGT names (17 R425; 12 R344): one that is refused is reported, and the island keeps
its image. -/
def State.loadStd (s : State) (b : List Byte) : State :=
  let wide := Nat.testBit (fieldAt b 0 8) 23
  let refuse (n : Nat) : State := s.errorRecord 6 51 none n (fieldAt b 12 4)
  match checkImage b wide with
  | .error _ => refuse 0
  | .ok m =>
    if !m.stands (if wide then rastImage else texImage) then refuse 0
    else if wide then { s with life := { s.life with imgW0 := some m } } else { s with life := { s.life with imgI0 := some m } }

/-- The recovery state, after the last stage passed (20 R460). -/
def State.recover (s : State) (stage : Nat) : State := { s with life := { s.life with stage := stage, recovery := true } }

/-- THE BOOT (20 R459): stage 0 tests the layers; stage 1 derives the identity key and extends MEAS0 and MEAS1; stage 2 loads the tables, leaves every range
register zero, loads the images, sets the limits, records the layers that have failed, and extends MEAS2 to MEAS4.  A stage that fails leaves the recovery
state. -/
def State.boot (s : State) (brown : Bool) : State :=
  let c := (s.cold brown).failLayers s.life.selfFail
  match s.life.fails with
  | some 1 => (c.bootMeas 0 1).recover 0
  | f =>
    let c : State := { c with life := { c.life with identity := Config.identityKey Config.fuseSecret } }
    let c := c.bootMeas 0 2
    if f = some 2 then c.recover 1
    else
      let c : State := { c with tables := shippedTables }
      let c := ((s.life.nextImgs.foldl State.loadStd c).setLimits).failLayers c.life.layers
      let c := s.life.selfFail.foldl (fun c k => (c.retireLayer k).errorRecord 4 (coreSrc (k / 4)) none 0 (k % 4)) c
      let c := c.bootMeas 2 5
      { c with agenda := c.agenda ++ [(scrubPeriod, .scrub)], life := { c.life with stage := 3, booted := true } }

/-- RESET (20 R459, R461): a PERST# of the host link, or a fall of PWR_OK. -/
def execReset (s : State) : Host.Outcome State Fault Refusal := .next (s.boot false)

/-- BROWN_OUT (20 R472): nothing is saved, and BOOTSTAT shows it after the next boot. -/
def execBrownOut (s : State) : Host.Outcome State Fault Refusal := .next (s.boot true)

/-- An upset of stored or carried bits (20 R464 to R466, R469; 08 R246, R474): with ECC off the bits of memory change unseen.  A line of an instruction
cache or of the stacked cache, which hold no byte of their own, is fetched again and counted as a line of an L1 without written bytes is; a word of a
protocol table or of the management core's SRAM is recorded, and the firmware restores it from its own copy (DESIGN CHOICE, log entry 54).  A flit or a
transfer that its link replays has no other effect. -/
def State.upset (s : State) (u : Upset) : State :=
  match u with
  | .path g l => { s with life := { s.life with parity := s.life.parity ++ [(g, l)] } }
  | .vault c w => s.modCore c fun k => { k with badVault := if k.badVault.contains w then k.badVault else k.badVault ++ [w] }
  | .memory n =>
    if s.life.eccOff then
      let (w, s) := s.free
      s.setByte (64 * n) (w.setWidth 8)
    -- an access to a pinned line does not read GDDR7 (08 R251)
    else if s.isPinned (n / 2) then { s with life := { s.life with under := s.life.under ++ [n] } }
    else { s with life := { s.life with badMem := if s.life.badMem.contains n then s.life.badMem else s.life.badMem ++ [n] } }
  | .l1 c ln => if (s.l1 c ln).st = 0 then s else s.setL1 c ln { (s.l1 c ln) with bad := true }
  | .regs g r l => s.modGang g fun x => { x with badV := if x.badV.contains (r, l) then x.badV else x.badV ++ [(r, l)] }
  | .icache c ln =>
    if (s.core c).l1i.any fun p => p.1 == ln then (s.modCore c fun k => { k with l1i := k.l1i.filter fun p => p.1 != ln }).countError c else s
  | .stacked t ln =>
    if (s.tower t).stacked.any fun p => p.2.contains ln then
      (s.modTower t fun x => { x with stacked := x.stacked.map fun p => (p.1, p.2.filter (· != ln)) }).countError (96 + t)
    else s
  | .table slot => s.errorRecord 1 (homeSrc 0) none 0 slot
  | .sram w => s.errorRecord 1 51 none (8 * w) 0
  | .engine w => { s with life := { s.life with paths := s.life.paths ++ [w.key] } }
  | .host => { s with life := { s.life with paths := s.life.paths ++ [2] } }
  | .peer => { s with life := { s.life with paths := s.life.paths ++ [1] } }
  | .link => s
  | .corrected k =>
    if s.life.eccOff ∧ k = 98 then s
    else { s with priv := { s.priv with cecnt := Sparse.set 0 s.priv.cecnt k (Sparse.get 0 s.priv.cecnt k + 1) } }

/-- The upsets that happen by now. -/
def State.upsetsDue (s : State) : State :=
  if s.life.upsets.isEmpty then s
  else
    let due := s.life.upsets.filter fun p => decide (p.1 ≤ s.now)
    due.foldl (fun s p => s.upset p.2) { s with life := { s.life with upsets := s.life.upsets.filter fun p => !decide (p.1 ≤ s.now) } }

/-- Does an agent hold a line in M? -/
def State.heldM (s : State) (ln : Nat) : Bool :=
  s.kind (s.range ln).slot == .owned &&
    ((s.cores.any fun c => (Sparse.get ({} : L1Line) c.2.l1 ln).st == 4) || (s.bline ln).st == 4)

/-- SCRUB (20 R469): one record for each line with an uncorrectable unit, but for lines held in M; with ECC off nothing is detected (R465).  Pinned
lines are written back (08 R251). -/
def execScrub (s : State) : Host.Outcome State Fault Refusal :=
  if !s.life.booted then .next s
  else
    let s := s.writeBack fun ln => s.isPinned ln
    let bad := if s.life.eccOff then [] else ((s.life.badMem.map (· / 2)).dedup).filter fun ln => !s.heldM ln && !s.isPinned ln
    let s := bad.foldl (fun s ln => s.memError none ln) s
    if s.agenda.any fun p => p.2 == .scrub then .next s else .next (s.at (s.now + scrubPeriod) .scrub)

/-- May a memory controller enter self-refresh: 1 ms, 2,100,000 cycles, without a request? -/
def State.mayRest (s : State) (h : Nat) : Bool :=
  decide (h < 16) && s.life.booted && !(s.home h).asleep && decide ((s.home h).lastReq + 2100000 ≤ s.now)

/-- SELF_REFRESH_ENTRY (20 R471). -/
def execSelfRefreshEntry (h : Nat) (s : State) : Host.Outcome State Fault Refusal :=
  if s.mayRest h then .next (s.modHome h fun x => { x with asleep := true }) else .next s

end Sys2Proof.Machine
end

