-- ==== Sys2Proof/Machine/Control.lean ====
section
/-! DEFINITION. Control words (04 R118 to R132).  A control word says how the slices of the subgang stand after the packet; only the
one in the lowest slot takes effect. -/

namespace Sys2Proof.Machine

open Sys2Proof

/-- The form of a control word: only the one in the lowest slot takes effect, after the packet's last chain group (04 R118). -/
def State.control (s : State) (c : Cursor) (a : Ctl) : State :=
  if c.ctl = some c.slot then { s with cur := some { c with act := a, actAt := s.now } } else s

/-- BR (04 R121). -/
def execBr (off : BitVec 20) (s : State) : Host.Outcome State Fault Refusal :=
  s.runWord (.br off) fun c => s.control c (.goto (pcPlus c.pc off.toInt))

/-- BRK (04 R122): the K register is read at issue. -/
def execBrk (cc : BrkTest) (r : KReg) (off : BitVec 16) (s : State) : Host.Outcome State Fault Refusal :=
  s.runWord (.brk cc r off) fun c => s.control c (.brk cc ((s.gang c.gang).kreg r.val) (pcPlus c.pc off.toInt))

/-- The decision of BRS (04 R123). -/
def brsTaken (cc : BrsTest) (v : Int) : Bool :=
  match cc with
  | .z => decide (v = 0)
  | .nz => decide (v ≠ 0)
  | .ltz => decide (v < 0)
  | .gez => decide (v ≥ 0)
  | .gtz => decide (v > 0)
  | .lez => decide (v ≤ 0)

/-- BRS (04 R123): one decision for the subgang. -/
def execBrs (cc : BrsTest) (a : SReg) (off : BitVec 16) (s : State) : Host.Outcome State Fault Refusal :=
  s.runWord (.brs cc a off) fun c =>
    s.control c (.brs (brsTaken cc ((s.gang c.gang).sreg a.val).toInt) (pcPlus c.pc off.toInt))

/-- JMP (04 R124). -/
def execJmp (a : AReg) (s : State) : Host.Outcome State Fault Refusal :=
  s.runWord (.jmp a) fun c => s.control c (.goto (addrPc ((s.gang c.gang).areg a.val)))

/-- The link of a CALL: it arrives, and its log entry is freed, before the first packet at the target issues (04 R125). -/
def State.link (s : State) (c : Cursor) (i : Instr) (d : Nat) : State :=
  if c.ctl = some c.slot then s.oweAt c i [.a d] [.a d (pcAddr (pcPlus c.pc 1))] (s.now + 1) else s

/-- CALL through an A register (04 R124): the target is read before the link is written. -/
def execCallIndirect (d a : AReg) (s : State) : Host.Outcome State Fault Refusal :=
  s.runWord (.callIndirect d a) fun c =>
    (s.control c (.goto (addrPc ((s.gang c.gang).areg a.val)))).link c (.callIndirect d a) d.val

/-- RET (04 R124). -/
def execRet (a : AReg) (s : State) : Host.Outcome State Fault Refusal :=
  s.runWord (.ret a) fun c => s.control c (.goto (addrPc ((s.gang c.gang).areg a.val)))

/-- CALL (04 R125): the link goes to A15. -/
def execCall (off : BitVec 20) (s : State) : Host.Outcome State Fault Refusal :=
  s.runWord (.call off) fun c => (s.control c (.goto (pcPlus c.pc off.toInt))).link c (.call off) 15

/-- LOOP (04 R127). -/
def execLoop (a : SReg) (off : BitVec 16) (s : State) : Host.Outcome State Fault Refusal :=
  s.runWord (.loop a off) fun c =>
    s.control c (.loop (pcPlus c.pc off.toInt) (((s.gang c.gang).sreg a.val).setWidth 32))

/-- ENDL (04 R128). -/
def execEndl (s : State) : Host.Outcome State Fault Refusal := s.runWord .endl fun c => s.control c .endl

/-- JOIN (04 R129). -/
def execJoin (dist : BitVec 14) (s : State) : Host.Outcome State Fault Refusal :=
  s.runWord (.join dist) fun c => s.control c (.join dist.toNat)

/-- REGANG (04 R130): the slice waits with its PC at this packet; the end of the packet releases the lowest. -/
def execRegang (s : State) : Host.Outcome State Fault Refusal := s.runWord .regang fun c => s.control c .regang

/-- YIELD (04 R132). -/
def execYield (s : State) : Host.Outcome State Fault Refusal := s.runWord .yield fun c => s.control c .yield

/-- EXIT (04 R131). -/
def execExit (s : State) : Host.Outcome State Fault Refusal := s.runWord .exit fun c => s.control c .exit

end Sys2Proof.Machine
end

