-- ==== Sys2Proof/Machine/Float.lean ====
section
/-! DEFINITION. Floating-point words (05 R133 to R151). -/

namespace Sys2Proof.Machine

open Sys2Proof

/-! ## The control byte (03 R86, 05 R135) -/

/-- The control byte of the word that issues: 0x00 where X is 0. -/
def Cursor.ctlOf (c : Cursor) (x : Bool) : Nat := if x then ctlByte c.raw.toNat c.slot else 0
/-- The rounding mode: RMO where it is not zero, else MODE.RM. -/
def State.rmOf (s : State) (c : Cursor) (ctl : Nat) : Nat := if ctl / 32 = 0 then (s.gang c.gang).rm else ctl / 32 - 1
/-- SAT of a control byte. -/
def ctlSat (ctl : Nat) : Bool := decide (ctl % 2 = 1)
/-- ELEM of a control byte. -/
def ctlElem (ctl : Nat) : Nat := ctl / 8 % 4

/-- Operand A of an FP32 word in a lane, after its modifiers and FTZ. -/
def State.fpA (s : State) (c : Cursor) (ctl : Nat) (a : Src) (l : Nat) : Nat :=
  ftzIn (s.gang c.gang).ftz (modCode 32 (decide (ctl / 16 % 2 = 1)) (decide (ctl / 8 % 2 = 1)) (s.readW c Inline.f32 a l).toNat)
/-- Operand B of an FP32 word in a lane. -/
def State.fpB (s : State) (c : Cursor) (ctl : Nat) (b : Src) (l : Nat) : Nat :=
  ftzIn (s.gang c.gang).ftz (modCode 32 (decide (ctl / 4 % 2 = 1)) (decide (ctl / 2 % 2 = 1)) (s.readW c Inline.f32 b l).toNat)

/-- The form of an FP32 word: each active lane receives the code that `f` gives (05 R134). -/
def State.fpWord (s : State) (c : Cursor) (lat : Nat) (d : VReg) (f : Nat → Nat × BitVec 7) : State :=
  s.laneWord c lat d.val fun l => (BitVec.ofNat 32 (f l).1, (f l).2)

/-- FADD (05 R136), latency 4. -/
def execFadd (x : Bool) (d : VReg) (a b : Src) (s : State) : Host.Outcome State Fault Refusal :=
  s.runWord (.fadd x d a b) fun c =>
    let k := c.ctlOf x
    s.fpWord c 4 d fun l =>
      fF32.add (s.rmOf c k) (ctlSat k) (s.gang c.gang).ftz (fF32.read (s.fpA c k a l)) (fF32.read (s.fpB c k b l))

/-- FSUB (05 R136). -/
def execFsub (x : Bool) (d : VReg) (a b : Src) (s : State) : Host.Outcome State Fault Refusal :=
  s.runWord (.fsub x d a b) fun c =>
    let k := c.ctlOf x
    s.fpWord c 4 d fun l =>
      fF32.add (s.rmOf c k) (ctlSat k) (s.gang c.gang).ftz (fF32.read (s.fpA c k a l)) (fF32.read (s.fpB c k b l)).flip

/-- FMUL (05 R136). -/
def execFmul (x : Bool) (d : VReg) (a b : Src) (s : State) : Host.Outcome State Fault Refusal :=
  s.runWord (.fmul x d a b) fun c =>
    let k := c.ctlOf x
    s.fpWord c 4 d fun l =>
      fF32.mul (s.rmOf c k) (ctlSat k) (s.gang c.gang).ftz (fF32.read (s.fpA c k a l)) (fF32.read (s.fpB c k b l))

/-- FFMA (05 R136): the addend is the old destination, without modifiers. -/
def execFfma (x : Bool) (d : VReg) (a b : Src) (s : State) : Host.Outcome State Fault Refusal :=
  s.runWord (.ffma x d a b) fun c =>
    let k := c.ctlOf x
    let ftz := (s.gang c.gang).ftz
    s.fpWord c 4 d fun l =>
      fF32.fma (s.rmOf c k) (ctlSat k) ftz (fF32.read (s.fpA c k a l)) (fF32.read (s.fpB c k b l))
        (fF32.read (ftzIn ftz ((s.gang c.gang).vreg d.val l).toNat))

/-- FMIN (05 R137). -/
def execFmin (x : Bool) (d : VReg) (a b : Src) (s : State) : Host.Outcome State Fault Refusal :=
  s.runWord (.fmin x d a b) fun c =>
    let k := c.ctlOf x
    s.fpWord c 4 d fun l => fF32.minMax false (ctlSat k) (s.fpA c k a l) (s.fpB c k b l)

/-- FMAX (05 R137). -/
def execFmax (x : Bool) (d : VReg) (a b : Src) (s : State) : Host.Outcome State Fault Refusal :=
  s.runWord (.fmax x d a b) fun c =>
    let k := c.ctlOf x
    s.fpWord c 4 d fun l => fF32.minMax true (ctlSat k) (s.fpA c k a l) (s.fpB c k b l)

/-- FCMP (05 R138): the whole K register is replaced. -/
def execFcmp (x : Bool) (cc : Cond) (r : KReg) (a b : Src) (s : State) : Host.Outcome State Fault Refusal :=
  s.runWord (.fcmp x cc r a b) fun c =>
    let k := c.ctlOf x
    let t (l : Nat) : Bool × BitVec 7 := fcmpNum cc (fF32.read (s.fpA c k a l)) (fF32.read (s.fpB c k b l))
    s.emit c.gang (s.latVX c 4) [.k r.val (s.laneMask c fun l => (t l).1)] (orFlags ((s.lanes c).map fun l => (t l).2))

/-- FCLASS (05 R139). -/
def execFclass (x : Bool) (d : VReg) (a : Src) (s : State) : Host.Outcome State Fault Refusal :=
  s.runWord (.fclass x d a) fun c => s.fpWord c 4 d fun l => (2 ^ fclassBit (s.fpA c (c.ctlOf x) a l), 0)

/-- FRND (05 R140). -/
def execFrnd (x : Bool) (d : VReg) (a : Src) (s : State) : Host.Outcome State Fault Refusal :=
  s.runWord (.frnd x d a) fun c =>
    let k := c.ctlOf x
    s.fpWord c 4 d fun l => frndCode (s.rmOf c k) (ctlSat k) (s.fpA c k a l)

/-! ## Packed words (05 R141) -/

/-- The format of a packed word and its inline constants. -/
def packFmt (bf : Bool) : FFmt := if bf then fBF16 else fF16
def packCst (bf : Bool) : Inline → Word := if bf then Inline.bf16 else Inline.f16

/-- Element `e` of operand A of a packed word. -/
def State.hpA (s : State) (c : Cursor) (bf : Bool) (ctl : Nat) (a : Src) (l e : Nat) : FNum :=
  (packFmt bf).read (modCode 16 (decide (ctl / 16 % 2 = 1)) (decide (ctl / 8 % 2 = 1))
    ((s.readW c (packCst bf) a l).toNat / 65536 ^ e % 65536))
/-- Element `e` of operand B of a packed word. -/
def State.hpB (s : State) (c : Cursor) (bf : Bool) (ctl : Nat) (b : Src) (l e : Nat) : FNum :=
  (packFmt bf).read (modCode 16 (decide (ctl / 4 % 2 = 1)) (decide (ctl / 2 % 2 = 1))
    ((s.readW c (packCst bf) b l).toNat / 65536 ^ e % 65536))

/-- Two elements of a lane, with their flags. -/
def pairUp (f : Nat → Nat × BitVec 7) : Nat × BitVec 7 := ((f 0).1 + 65536 * (f 1).1, (f 0).2 ||| (f 1).2)

/-- HADD2 (05 R141), latency 4. -/
def execHadd2 (x bf : Bool) (d : VReg) (a b : Src) (s : State) : Host.Outcome State Fault Refusal :=
  s.runWord (.hadd2 x bf d a b) fun c =>
    let k := c.ctlOf x
    s.fpWord c 4 d fun l => pairUp fun e =>
      (packFmt bf).add (s.rmOf c k) (ctlSat k) false (s.hpA c bf k a l e) (s.hpB c bf k b l e)

/-- HMUL2 (05 R141). -/
def execHmul2 (x bf : Bool) (d : VReg) (a b : Src) (s : State) : Host.Outcome State Fault Refusal :=
  s.runWord (.hmul2 x bf d a b) fun c =>
    let k := c.ctlOf x
    s.fpWord c 4 d fun l => pairUp fun e =>
      (packFmt bf).mul (s.rmOf c k) (ctlSat k) false (s.hpA c bf k a l e) (s.hpB c bf k b l e)

/-- HFMA2 (05 R141). -/
def execHfma2 (x bf : Bool) (d : VReg) (a b : Src) (s : State) : Host.Outcome State Fault Refusal :=
  s.runWord (.hfma2 x bf d a b) fun c =>
    let k := c.ctlOf x
    s.fpWord c 4 d fun l => pairUp fun e =>
      (packFmt bf).fma (s.rmOf c k) (ctlSat k) false (s.hpA c bf k a l e) (s.hpB c bf k b l e)
        ((packFmt bf).read (((s.gang c.gang).vreg d.val l).toNat / 65536 ^ e % 65536))

/-! ## Dot products (05 R142, R143) -/

/-- Format and constants of an FP8 operand. -/
def Fp8.ffmt : Fp8 → FFmt
  | .e4m3 => fE4M3
  | .e5m2 => fE5M2
def Fp8.cst : Fp8 → Inline → Word
  | .e4m3 => Inline.e4m3
  | .e5m2 => Inline.e5m2

/-- DOT4.F8 (05 R142), latency 5. -/
def execDot4F8 (fa fb : Fp8) (d : VReg) (a b : Src) (s : State) : Host.Outcome State Fault Refusal :=
  s.runWord (.dot4F8 fa fb d a b) fun c =>
    let g := s.gang c.gang
    s.fpWord c 5 d fun l =>
      dot4F (Fp8.ffmt fa) (Fp8.ffmt fb) g.rm g.ftz (s.readW c (Fp8.cst fa) a l).toNat (s.readW c (Fp8.cst fb) b l).toNat
        (g.vreg d.val l).toNat

/-- DOT4.I8 (05 R143). -/
def execDot4I8 (ua ub : Bool) (d : VReg) (a b : Src) (s : State) : Host.Outcome State Fault Refusal :=
  s.runWord (.dot4I8 ua ub d a b) fun c =>
    s.laneWord c 5 d.val fun l =>
      (dot4I ua ub (s.readW c Inline.i8 a l) (s.readW c Inline.i8 b l) ((s.gang c.gang).vreg d.val l), 0)

/-! ## Conversions (05 R144 to R146) -/

/-- Inline constants of a conversion's source, repeated in every element (05 R144). -/
def cvtCst : Fmt → Inline → Word
  | .s8 | .u8 => Inline.i8
  | .s16 | .u16 => fun k => ((Inline.int32 k).setWidth 16 : BitVec 16) ++ ((Inline.int32 k).setWidth 16 : BitVec 16)
  | .s32 | .u32 | .s64 | .u64 | .i4 | .i2 | .i1 => Inline.int32
  | .f32 | .e2m1 => Inline.f32
  | .f16 => Inline.f16
  | .bf16 => Inline.bf16
  | .e4m3 => Inline.e4m3
  | .e5m2 => Inline.e5m2

/-- The bit at which the element of a side starts (05 R145). -/
def elemAt (w elem : Nat) : Nat := if w = 8 then 8 * elem else if w = 16 then 16 * (elem % 2) else 0

/-- The source element of a conversion in a lane (05 R145). -/
def State.cvtSrc (s : State) (c : Cursor) (src : Fmt) (elem : Nat) (a : Src) (l : Nat) : Nat :=
  let w := (Fmt.int src).1
  if w = 64 then (s.readD c (Fmt.int src).2 a l).toNat
  else (s.readW c (cvtCst src) a l).toNat / 2 ^ elemAt w elem % 2 ^ w

/-- The whole of a conversion (05 R146), latency 4. -/
def State.cvtWord (s : State) (c : Cursor) (x : Bool) (dst src : Fmt) (d : VReg) (a : Src) : State :=
  let k := c.ctlOf x
  let r (l : Nat) : Nat × BitVec 7 :=
    cvtCode src dst (s.rmOf c k) (ctlSat k) (s.gang c.gang).ftz (s.cvtSrc c src (ctlElem k) a l)
  let w := (Fmt.int dst).1
  if w = 64 then s.laneDWord c 4 d.val fun l => (BitVec.ofNat 64 (r l).1, (r l).2)
  else if w = 32 then s.fpWord c 4 d r
  else
    let at_ := elemAt w (ctlElem k)
    s.laneWord c 4 d.val fun l =>
      let m : Word := BitVec.ofNat 32 ((2 ^ w - 1) * 2 ^ at_)
      (((s.gang c.gang).vreg d.val l &&& ~~~m) ||| BitVec.ofNat 32 ((r l).1 * 2 ^ at_), (r l).2)

/-- CVT of a float source (05 R144). -/
def execCvtFromFloat (x : Bool) (dst src : Fmt) (d : VReg) (a : Src) (s : State) : Host.Outcome State Fault Refusal :=
  s.runWord (.cvtFromFloat x dst src d a) fun c => s.cvtWord c x dst src d a

/-- CVT of an integer source (05 R144). -/
def execCvtFromInt (x : Bool) (dst src : Fmt) (d : VReg) (a : Src) (s : State) : Host.Outcome State Fault Refusal :=
  s.runWord (.cvtFromInt x dst src d a) fun c => s.cvtWord c x dst src d a

/-! ## Special functions (05 R147, R148) -/

/-- The form of a special function. -/
def State.sfnWord (s : State) (c : Cursor) (x : Bool) (lat : Nat) (fn : SFn) (d : VReg) (a : Src) : State :=
  let k := c.ctlOf x
  s.fpWord c lat d fun l => sfnCode fn (s.rmOf c k) (ctlSat k) (s.gang c.gang).ftz (s.fpA c k a l)

/-- RCP, latency 8. -/
def execRcp (x : Bool) (d : VReg) (a : Src) (s : State) : Host.Outcome State Fault Refusal :=
  s.runWord (.rcp x d a) fun c => s.sfnWord c x 8 .rcp d a
/-- RSQ. -/
def execRsq (x : Bool) (d : VReg) (a : Src) (s : State) : Host.Outcome State Fault Refusal :=
  s.runWord (.rsq x d a) fun c => s.sfnWord c x 8 .rsq d a
/-- SQRT. -/
def execSqrt (x : Bool) (d : VReg) (a : Src) (s : State) : Host.Outcome State Fault Refusal :=
  s.runWord (.sqrt x d a) fun c => s.sfnWord c x 8 .sqrt d a
/-- LOG2. -/
def execLog2 (x : Bool) (d : VReg) (a : Src) (s : State) : Host.Outcome State Fault Refusal :=
  s.runWord (.log2 x d a) fun c => s.sfnWord c x 8 .log2 d a
/-- EXP2. -/
def execExp2 (x : Bool) (d : VReg) (a : Src) (s : State) : Host.Outcome State Fault Refusal :=
  s.runWord (.exp2 x d a) fun c => s.sfnWord c x 8 .exp2 d a
/-- SIN, latency 12. -/
def execSin (x : Bool) (d : VReg) (a : Src) (s : State) : Host.Outcome State Fault Refusal :=
  s.runWord (.sin x d a) fun c => s.sfnWord c x 12 .sin d a
/-- COS. -/
def execCos (x : Bool) (d : VReg) (a : Src) (s : State) : Host.Outcome State Fault Refusal :=
  s.runWord (.cos x d a) fun c => s.sfnWord c x 12 .cos d a

/-! ## EXPR (05 R149 to R151) -/

/-- An operator of EXPR on codes of its format; `half` is f16x2 (05 R150). -/
def exprOp (half : Bool) (rm : Nat) (ftz : Bool) (t : Tok) (xs : List Nat) : Nat × BitVec 7 :=
  let f := if half then fF16 else fF32
  let w := if half then 16 else 32
  let n (k : Nat) : Nat := (xs[k]?).getD 0
  let r (k : Nat) : FNum := f.read (n k)
  match t with
  | .a | .b | .c | .d => (0, 0)
  | .add => f.add rm false ftz (r 0) (r 1)
  | .sub => f.add rm false ftz (r 0) (r 1).flip
  | .mul => f.mul rm false ftz (r 0) (r 1)
  | .fma => f.fma rm false ftz (r 0) (r 1) (r 2)
  | .min => f.minMax false false (n 0) (n 1)
  | .max => f.minMax true false (n 0) (n 1)
  | .neg => (modCode w true false (n 0), 0)
  | .abs => (modCode w false true (n 0), 0)
  | .rcp => if half then rcpF16 rm (n 0) else sfnCode .rcp rm false ftz (n 0)
  | .sel => (if n 0 < 2 ^ (w - 1) then n 1 else n 2, 0)

/-- The token walk (05 R150). -/
def exprWalk (half : Bool) (rm : Nat) (ftz : Bool) (inp : Tok → Nat) : List Tok → List Nat → BitVec 7 → Nat × BitVec 7
  | [], st, fl => (st.headD 0, fl)
  | t :: r, st, fl =>
    if t.arity = 0 then exprWalk half rm ftz inp r (inp t :: st) fl
    else
      let q := exprOp half rm ftz t (st.take t.arity).reverse
      exprWalk half rm ftz inp r (q.1 :: st.drop t.arity) (fl ||| q.2)

/-- EXPR (05 R149 to R151), latency 4 + 2 n. -/
def execExpr (half : Bool) (dst : VReg) (a b c d : Src) (toks : List Tok) (s : State) : Host.Outcome State Fault Refusal :=
  s.runWord (.expr half dst a b c d toks) fun cu =>
    let g := s.gang cu.gang
    let cst := if half then Inline.f16 else Inline.f32
    let inp (l : Nat) (t : Tok) : Nat := match t with
      | .a => (s.readW cu cst a l).toNat
      | .b => (s.readW cu cst b l).toNat
      | .c => (s.readW cu cst c l).toNat
      | .d => (s.readW cu cst d l).toNat
      | .add | .sub | .mul | .fma | .min | .max | .neg | .abs | .rcp | .sel => 0
    s.fpWord cu (4 + 2 * exprOps toks) dst fun l =>
      if half then pairUp fun e => exprWalk true g.rm false (fun t => inp l t / 65536 ^ e % 65536) toks [] 0
      else exprWalk false g.rm g.ftz (fun t => ftzIn g.ftz (inp l t)) toks [] 0

end Sys2Proof.Machine
end

