-- ==== Sys2Proof/Machine/CrossLane.lean ====
section
/-! DEFINITION. Cross-lane words (05 R152 to R159). -/

namespace Sys2Proof.Machine

open Sys2Proof

/-- A lane is in reach when its slice belongs to the issuing subgang (05 R152). -/
def Cursor.reach (c : Cursor) (l : Nat) : Bool := c.slices.contains (l / 4)

/-- The form of SHFL and BCAST: each reading lane receives its source lane's A, or its own and a bit of K7 where the source is out
of reach (05 R152); latency 4. -/
def State.crossWord (s : State) (c : Cursor) (i : Instr) (d a : VReg) : State :=
  let g := s.gang c.gang
  let src (l : Nat) : Option Nat := (s.sourceLanes c i l).head?
  let far := (s.lanes c).filter fun l => match src l with
    | some q => !c.reach q
    | none => false
  let vals := (s.lanes c).map fun l =>
    (l, match src l with
      | some q => if c.reach q then g.vreg a.val q else g.vreg a.val l
      | none => g.vreg a.val l)
  s.emit c.gang (s.latVX c 4) (.v d.val vals :: (if far.isEmpty then [] else [.k7 (laneBits far)]))

/-- SHFL (05 R153). -/
def execShfl (m : ShflMode) (d a : VReg) (b : Src) (s : State) : Host.Outcome State Fault Refusal :=
  s.runWord (.shfl m d a b) fun c => s.crossWord c (.shfl m d a b) d a

/-- BCAST (05 R154). -/
def execBcast (d a : VReg) (b : Src) (s : State) : Host.Outcome State Fault Refusal :=
  s.runWord (.bcast d a b) fun c => s.crossWord c (.bcast d a b) d a

/-- One byte of PERM: the 16 source bytes of the slice are `q`, counted from its first lane (05 R155). -/
def permByte (g : Gang) (a : VReg) (l sel : Nat) : Nat :=
  if 128 ≤ sel then 0 else (g.vreg a.val (4 * (l / 4) + sel % 16 / 4)).toNat / 256 ^ (sel % 4) % 256

/-- PERM (05 R155). -/
def execPerm (d a : VReg) (b : Src) (s : State) : Host.Outcome State Fault Refusal :=
  s.runWord (.perm d a b) fun c =>
    s.laneWord c 4 d.val fun l =>
      (BitVec.ofNat 32 (((List.range 4).map fun j =>
        permByte (s.gang c.gang) a l ((s.readI c b l).toNat / 256 ^ j % 256) * 256 ^ j).foldl (· + ·) 0), 0)

/-- BALLOT (05 R156), latency 3.  With kd = K7 the register is replaced as R156 says, bits that were set included (DESIGN CHOICE, log entry
49: R152 says that no cross-lane word clears a bit of K7). -/
def execBallot (k : KReg) (a : VReg) (s : State) : Host.Outcome State Fault Refusal :=
  s.runWord (.ballot k a) fun c =>
    s.emit c.gang (s.latVX c 3) [.k k.val (s.laneMask c fun l => (s.gang c.gang).vreg a.val l != 0)]

/-- VOTE (05 R157); of kd = K7 as BALLOT (DESIGN CHOICE, log entry 49). -/
def execVote (m : VoteMode) (k : KReg) (a : VReg) (s : State) : Host.Outcome State Fault Refusal :=
  s.runWord (.vote m k a) fun c =>
    let vs := (s.lanes c).map fun l => (s.gang c.gang).vreg a.val l
    let t := match m with
      | .any => vs.any fun v => v != 0
      | .all => vs.all fun v => v != 0
      | .eq => vs.all fun v => v == vs.headD 0
    s.emit c.gang (s.latVX c 3) [.k k.val (if t then laneBits (s.lanes c) else 0)]

/-! ## SCAN and REDUCE (05 R158, R159) -/

/-- The identity of a scan. -/
def scanId (op : ScanOp) (ty : ScanTy) : Word :=
  match op, ty with
  | .add, _ => 0
  | .min, .s32 => 0x7FFFFFFF
  | .min, .u32 => 0xFFFFFFFF
  | .min, .f32 => 0x7F800000
  | .max, .s32 => 0x80000000
  | .max, .u32 => 0
  | .max, .f32 => 0xFF800000

/-- The first value of a scan: a NaN becomes canonical. -/
def scanCanon (ty : ScanTy) (x : Word) : Word × BitVec 7 :=
  match ty with
  | .f32 => if (fF32.read x.toNat).isNan then (0x7FC00000, ivIf (fF32.read x.toNat).sig) else (x, 0)
  | .s32 | .u32 => (x, 0)

/-- The combination of a scan. -/
def scanComb (op : ScanOp) (ty : ScanTy) (rm : Nat) (ftz : Bool) (a x : Word) : Word × BitVec 7 :=
  match ty with
  | .f32 =>
    let r := match op with
      | .add => fF32.add rm false ftz (fF32.read a.toNat) (fF32.read x.toNat)
      | .min => fF32.minMax false false a.toNat x.toNat
      | .max => fF32.minMax true false a.toNat x.toNat
    (BitVec.ofNat 32 r.1, r.2)
  | .s32 | .u32 =>
    let lt (p q : Word) : Bool := decide (asInt (ty == .s32) p < asInt (ty == .s32) q)
    match op with
    | .add => (a + x, 0)
    | .min => (if lt x a then x else a, 0)
    | .max => (if lt a x then x else a, 0)

/-- The inclusive scan of lane values: for each lane the accumulation before it and after it, and the flags. -/
def scanGo (op : ScanOp) (ty : ScanTy) (rm : Nat) (ftz : Bool) :
    Option Word → List (Nat × Word) → List (Nat × Option Word × Word) × BitVec 7
  | _, [] => ([], 0)
  | acc, (l, x) :: r =>
    let x' := if ty = .f32 then BitVec.ofNat 32 (ftzIn ftz x.toNat) else x
    let n := match acc with
      | none => scanCanon ty x'
      | some a => scanComb op ty rm ftz a x'
    let q := scanGo op ty rm ftz (some n.1) r
    ((l, acc, n.1) :: q.1, n.2 ||| q.2)

/-- The scan of a register over the active lanes. -/
def State.scanOf (s : State) (c : Cursor) (op : ScanOp) (ty : ScanTy) (a : VReg) :
    List (Nat × Option Word × Word) × BitVec 7 :=
  let g := s.gang c.gang
  scanGo op ty g.rm g.ftz none ((s.lanes c).map fun l => (l, g.vreg a.val l))

/-- SCAN (05 R158), latency 8. -/
def execScan (op : ScanOp) (excl : Bool) (ty : ScanTy) (d a : VReg) (s : State) : Host.Outcome State Fault Refusal :=
  s.runWord (.scan op excl ty d a) fun c =>
    let r := s.scanOf c op ty a
    s.emit c.gang (s.latVX c 8)
      [.v d.val (r.1.map fun p => (p.1, if excl then p.2.1.getD (scanId op ty) else p.2.2))] r.2

/-- REDUCE (05 R159), latency 8. -/
def execReduce (op : ScanOp) (ty : ScanTy) (d : VSDst) (a : VReg) (s : State) : Host.Outcome State Fault Refusal :=
  s.runWord (.reduce op ty d a) fun c =>
    let r := s.scanOf c op ty a
    let acc : Word := (r.1.getLast?.map fun p => p.2.2).getD (scanId op ty)
    match d with
    | .v d => s.emit c.gang (s.latVX c 8) [.v d.val ((s.lanes c).map fun l => (l, acc))] r.2
    | .s d => s.emit c.gang (s.latVX c 8) [.s d.val (if ty = .s32 then acc.signExtend 64 else acc.setWidth 64)] r.2

end Sys2Proof.Machine
end

