-- ==== Sys2Proof/Machine/Integer.lean ====
section
/-! DEFINITION. Vector integer words (04 R99 to R108). -/

namespace Sys2Proof.Machine

open Sys2Proof

/-- IADD (04 R101), latency 2 (01 R49). -/
def execIadd (ty : IntTy) (d : VReg) (a b : Src) (s : State) : Host.Outcome State Fault Refusal :=
  s.runWord (.iadd ty d a b) fun c =>
    if ty.wide then s.laneDWord c 2 d.val fun l => addI ty.signed (s.readD c ty.signed a l) (s.readD c ty.signed b l)
    else s.laneWord c 2 d.val fun l => addI ty.signed (s.readI c a l) (s.readI c b l)

/-- ISUB (04 R101). -/
def execIsub (ty : IntTy) (d : VReg) (a b : Src) (s : State) : Host.Outcome State Fault Refusal :=
  s.runWord (.isub ty d a b) fun c =>
    if ty.wide then s.laneDWord c 2 d.val fun l => subI ty.signed (s.readD c ty.signed a l) (s.readD c ty.signed b l)
    else s.laneWord c 2 d.val fun l => subI ty.signed (s.readI c a l) (s.readI c b l)

/-- IMUL (04 R101), latency 4. -/
def execImul (hi uns : Bool) (d : VReg) (a b : Src) (s : State) : Host.Outcome State Fault Refusal :=
  s.runWord (.imul hi uns d a b) fun c => s.laneWord c 4 d.val fun l => mulI hi uns (s.readI c a l) (s.readI c b l)

/-- IMAD (04 R101), latency 4. -/
def execImad (uns : Bool) (d : VReg) (a b : Src) (s : State) : Host.Outcome State Fault Refusal :=
  s.runWord (.imad uns d a b) fun c =>
    s.laneWord c 4 d.val fun l => madI uns (s.readI c a l) (s.readI c b l) (s.readI c (.v d) l)

/-- IDIV (04 R102, 02 R60), latency 24. -/
def execIdiv (uns : Bool) (d : VReg) (a b : Src) (s : State) : Host.Outcome State Fault Refusal :=
  s.runWord (.idiv uns d a b) fun c => s.laneWord c 24 d.val fun l => divI uns (s.readI c a l) (s.readI c b l)

/-- IREM (04 R102, 02 R60), latency 24. -/
def execIrem (uns : Bool) (d : VReg) (a b : Src) (s : State) : Host.Outcome State Fault Refusal :=
  s.runWord (.irem uns d a b) fun c => s.laneWord c 24 d.val fun l => remI uns (s.readI c a l) (s.readI c b l)

/-- MOVI (04 R108). -/
def execMovi (d : VReg) (imm : BitVec 16) (s : State) : Host.Outcome State Fault Refusal :=
  s.runWord (.movi d imm) fun c => s.laneWord c 2 d.val fun _ => (imm.signExtend 32, 0)

/-- IMIN (04 R101). -/
def execImin (uns : Bool) (d : VReg) (a b : Src) (s : State) : Host.Outcome State Fault Refusal :=
  s.runWord (.imin uns d a b) fun c => s.laneWord c 2 d.val fun l =>
    (if asInt (!uns) (s.readI c b l) < asInt (!uns) (s.readI c a l) then s.readI c b l else s.readI c a l, 0)

/-- IMAX (04 R101). -/
def execImax (uns : Bool) (d : VReg) (a b : Src) (s : State) : Host.Outcome State Fault Refusal :=
  s.runWord (.imax uns d a b) fun c => s.laneWord c 2 d.val fun l =>
    (if asInt (!uns) (s.readI c a l) < asInt (!uns) (s.readI c b l) then s.readI c b l else s.readI c a l, 0)

/-- IABS (04 R101). -/
def execIabs (d : VReg) (a : Src) (s : State) : Host.Outcome State Fault Refusal :=
  s.runWord (.iabs d a) fun c => s.laneWord c 2 d.val fun l =>
    (if (s.readI c a l).msb then -(s.readI c a l) else s.readI c a l, if s.readI c a l = 0x80000000 then flIOV else 0)

/-- INEG (04 R101). -/
def execIneg (d : VReg) (a : Src) (s : State) : Host.Outcome State Fault Refusal :=
  s.runWord (.ineg d a) fun c => s.laneWord c 2 d.val fun l =>
    (-(s.readI c a l), if s.readI c a l = 0x80000000 then flIOV else 0)

/-- BREV (04 R105). -/
def execBrev (d : VReg) (a : Src) (s : State) : Host.Outcome State Fault Refusal :=
  s.runWord (.brev d a) fun c => s.laneWord c 2 d.val fun l => ((s.readI c a l).reverse, 0)

/-- ICMP (04 R103): the whole K register is replaced. -/
def execIcmp (cc : Cond) (ty : IntTy) (k : KReg) (a b : Src) (s : State) : Host.Outcome State Fault Refusal :=
  s.runWord (.icmp cc ty k a b) fun c =>
    s.emit c.gang (s.latVX c 2) [.k k.val (s.laneMask c fun l =>
      if ty.wide then cmpI cc (asInt ty.signed (s.readD c ty.signed a l)) (asInt ty.signed (s.readD c ty.signed b l))
      else cmpI cc (asInt ty.signed (s.readI c a l)) (asInt ty.signed (s.readI c b l)))]

/-- AND (04 R105). -/
def execAnd (d : VReg) (a b : Src) (s : State) : Host.Outcome State Fault Refusal :=
  s.runWord (.and d a b) fun c => s.laneWord c 2 d.val fun l => (s.readI c a l &&& s.readI c b l, 0)

/-- OR (04 R105). -/
def execOr (d : VReg) (a b : Src) (s : State) : Host.Outcome State Fault Refusal :=
  s.runWord (.or d a b) fun c => s.laneWord c 2 d.val fun l => (s.readI c a l ||| s.readI c b l, 0)

/-- XOR (04 R105). -/
def execXor (d : VReg) (a b : Src) (s : State) : Host.Outcome State Fault Refusal :=
  s.runWord (.xor d a b) fun c => s.laneWord c 2 d.val fun l => (s.readI c a l ^^^ s.readI c b l, 0)

/-- ANDN (04 R105). -/
def execAndn (d : VReg) (a b : Src) (s : State) : Host.Outcome State Fault Refusal :=
  s.runWord (.andn d a b) fun c => s.laneWord c 2 d.val fun l => (s.readI c a l &&& ~~~(s.readI c b l), 0)

/-- NOT (04 R105). -/
def execNot (d : VReg) (a : Src) (s : State) : Host.Outcome State Fault Refusal :=
  s.runWord (.not d a) fun c => s.laneWord c 2 d.val fun l => (~~~(s.readI c a l), 0)

/-- POPC (04 R105). -/
def execPopc (d : VReg) (a : Src) (s : State) : Host.Outcome State Fault Refusal :=
  s.runWord (.popc d a) fun c => s.laneWord c 2 d.val fun l => (BitVec.ofNat 32 (popCount (s.readI c a l)), 0)

/-- CLZ (04 R105). -/
def execClz (d : VReg) (a : Src) (s : State) : Host.Outcome State Fault Refusal :=
  s.runWord (.clz d a) fun c => s.laneWord c 2 d.val fun l => (BitVec.ofNat 32 (leadZeros (s.readI c a l)), 0)

/-- CTZ (04 R105). -/
def execCtz (d : VReg) (a : Src) (s : State) : Host.Outcome State Fault Refusal :=
  s.runWord (.ctz d a) fun c => s.laneWord c 2 d.val fun l => (BitVec.ofNat 32 (trailZeros (s.readI c a l)), 0)

/-- SHL (04 R106). -/
def execShl (d : VReg) (a b : Src) (s : State) : Host.Outcome State Fault Refusal :=
  s.runWord (.shl d a b) fun c => s.laneWord c 2 d.val fun l => (shlW (s.readI c a l) (s.readI c b l), 0)

/-- SHR (04 R106). -/
def execShr (d : VReg) (a b : Src) (s : State) : Host.Outcome State Fault Refusal :=
  s.runWord (.shr d a b) fun c => s.laneWord c 2 d.val fun l => (shrW (s.readI c a l) (s.readI c b l), 0)

/-- SAR (04 R106). -/
def execSar (d : VReg) (a b : Src) (s : State) : Host.Outcome State Fault Refusal :=
  s.runWord (.sar d a b) fun c => s.laneWord c 2 d.val fun l => (sarW (s.readI c a l) (s.readI c b l), 0)

/-- ROT (04 R106). -/
def execRot (d : VReg) (a b : Src) (s : State) : Host.Outcome State Fault Refusal :=
  s.runWord (.rot d a b) fun c => s.laneWord c 2 d.val fun l => (rotW (s.readI c a l) (s.readI c b l), 0)

/-- BFE (04 R107). -/
def execBfe (sgn : Bool) (d : VReg) (a b : Src) (s : State) : Host.Outcome State Fault Refusal :=
  s.runWord (.bfe sgn d a b) fun c => s.laneWord c 2 d.val fun l => (bfeW sgn (s.readI c a l) (s.readI c b l), 0)

/-- BFI (04 R107). -/
def execBfi (d : VReg) (a b : Src) (s : State) : Host.Outcome State Fault Refusal :=
  s.runWord (.bfi d a b) fun c => s.laneWord c 2 d.val fun l =>
    (bfiW (s.readI c (.v d) l) (s.readI c a l) (s.readI c b l), 0)

/-- SEL (04 R104). -/
def execSel (k : Fin 4) (d : VReg) (a b : Src) (s : State) : Host.Outcome State Fault Refusal :=
  s.runWord (.sel k d a b) fun c => s.laneWord c 2 d.val fun l =>
    (if ((s.gang c.gang).kreg k.val).getLsbD l then s.readI c a l else s.readI c b l, 0)

/-- MOV (04 R108). -/
def execMov (w : Bool) (d : VReg) (a : Src) (s : State) : Host.Outcome State Fault Refusal :=
  s.runWord (.mov w d a) fun c =>
    if w then s.laneDWord c 2 d.val fun l => (s.readD c false a l, 0) else s.laneWord c 2 d.val fun l => (s.readI c a l, 0)

end Sys2Proof.Machine
end

