-- ==== Sys2Proof/Machine/Scalar.lean ====
section
/-! DEFINITION. MOVS, scalar, address and mask words (04 R109 to R117). -/

namespace Sys2Proof.Machine

open Sys2Proof

/-- The form of a scalar word: one S register, whatever EXEC holds (04 R110). -/
def State.scalarWord (s : State) (c : Cursor) (lat : Nat) (d : SReg) (x : DWord) : State := s.emit c.gang lat [.s d.val x]

/-- SADD (04 R111), latency 1. -/
def execSadd (d : SReg) (a b : Src) (s : State) : Host.Outcome State Fault Refusal :=
  s.runWord (.sadd d a b) fun c => s.scalarWord c 1 d (s.readS c a + s.readS c b)

/-- SSUB (04 R111). -/
def execSsub (d : SReg) (a b : Src) (s : State) : Host.Outcome State Fault Refusal :=
  s.runWord (.ssub d a b) fun c => s.scalarWord c 1 d (s.readS c a - s.readS c b)

/-- SAND (04 R111). -/
def execSand (d : SReg) (a b : Src) (s : State) : Host.Outcome State Fault Refusal :=
  s.runWord (.sand d a b) fun c => s.scalarWord c 1 d (s.readS c a &&& s.readS c b)

/-- SOR (04 R111). -/
def execSor (d : SReg) (a b : Src) (s : State) : Host.Outcome State Fault Refusal :=
  s.runWord (.sor d a b) fun c => s.scalarWord c 1 d (s.readS c a ||| s.readS c b)

/-- SSHL (04 R111). -/
def execSshl (d : SReg) (a b : Src) (s : State) : Host.Outcome State Fault Refusal :=
  s.runWord (.sshl d a b) fun c =>
    s.scalarWord c 1 d (if (s.readS c b).toNat ≥ 64 then 0 else s.readS c a <<< (s.readS c b).toNat)

/-- SSHR (04 R111). -/
def execSshr (d : SReg) (a b : Src) (s : State) : Host.Outcome State Fault Refusal :=
  s.runWord (.sshr d a b) fun c =>
    s.scalarWord c 1 d (if (s.readS c b).toNat ≥ 64 then 0 else s.readS c a >>> (s.readS c b).toNat)

/-- SMUL (04 R111), latency 3. -/
def execSmul (d : SReg) (a b : Src) (s : State) : Host.Outcome State Fault Refusal :=
  s.runWord (.smul d a b) fun c => s.scalarWord c 3 d (s.readS c a * s.readS c b)

/-- SCMP (04 R111). -/
def execScmp (cc : SCond) (d : SReg) (a b : Src) (s : State) : Host.Outcome State Fault Refusal :=
  s.runWord (.scmp cc d a b) fun c =>
    let x := s.readS c a
    let y := s.readS c b
    let r := match cc with
      | .eq => x == y
      | .ne => x != y
      | .ltS => x.slt y
      | .ltU => x.ult y
    s.scalarWord c 1 d (if r then 1 else 0)

/-- MOVS (04 R109), latency 3: the lowest active lane to an S register, or an S register to the active lanes. -/
def execMovs (f : MovsForm) (s : State) : Host.Outcome State Fault Refusal :=
  s.runWord (.movs f) fun c =>
    match f with
    | .toS d a =>
      match s.lanes c with
      | [] => s
      | l :: _ => s.emit c.gang 3 [.s d.val (((s.gang c.gang).vreg a.val l).setWidth 64)]
    | .toV d a =>
      let w : Word := ((s.gang c.gang).sreg a.val).setWidth 32
      s.emit c.gang 3 [.v d.val ((s.lanes c).map fun l => (l, w))]

/-- ADDA (04 R113), latency 2. -/
def execAdda (d a : AReg) (b : Src) (s : State) : Host.Outcome State Fault Refusal :=
  s.runWord (.adda d a b) fun c => s.emit c.gang 2 [.a d.val ((s.gang c.gang).areg a.val + (s.readS c b).signExtend 80)]

/-- LEA (04 R113). -/
def execLea (sh : Fin 5) (d a : AReg) (b : Src) (s : State) : Host.Outcome State Fault Refusal :=
  s.runWord (.lea sh d a b) fun c =>
    s.emit c.gang 2 [.a d.val ((s.gang c.gang).areg a.val + ((s.readS c b).signExtend 80 <<< sh.val))]

/-- MOVA (04 R114). -/
def execMova (f : MovaForm) (s : State) : Host.Outcome State Fault Refusal :=
  s.runWord (.mova f) fun c =>
    let x := s.gang c.gang
    match f with
    | .a d a b => s.emit c.gang 2 [.a d.val (((x.areg a.val >>> 64).setWidth 16 : BitVec 16) ++ s.readS c b)]
    | .lo d a => s.emit c.gang 2 [.s d.val ((x.areg a.val).setWidth 64)]
    | .hi d a => s.emit c.gang 2 [.s d.val ((x.areg a.val >>> 64).setWidth 64)]

/-- KAND (04 R115), latency 1. -/
def execKand (d a b : KReg) (s : State) : Host.Outcome State Fault Refusal :=
  s.runWord (.kand d a b) fun c => s.emit c.gang 1 [.k d.val ((s.gang c.gang).kreg a.val &&& (s.gang c.gang).kreg b.val)]

/-- KOR (04 R115). -/
def execKor (d a b : KReg) (s : State) : Host.Outcome State Fault Refusal :=
  s.runWord (.kor d a b) fun c => s.emit c.gang 1 [.k d.val ((s.gang c.gang).kreg a.val ||| (s.gang c.gang).kreg b.val)]

/-- KNOT (04 R115): bits at and above the gang width are 0. -/
def execKnot (d a : KReg) (s : State) : Host.Outcome State Fault Refusal :=
  s.runWord (.knot d a) fun c =>
    s.emit c.gang 1 [.k d.val (~~~((s.gang c.gang).kreg a.val) &&& widthMask (s.gang c.gang).width)]

/-- KPOP (04 R115). -/
def execKpop (d : SReg) (a : KReg) (s : State) : Host.Outcome State Fault Refusal :=
  s.runWord (.kpop d a) fun c => s.emit c.gang 1 [.s d.val (BitVec.ofNat 64 (popCount ((s.gang c.gang).kreg a.val)))]

/-- The lane mask that SETX gives a slice (04 R116). -/
def setxMask (x : Gang) (k : Nat) (m : DWord) : BitVec 4 :=
  let held := (sliceAt x.slices k).stack.foldl (fun h e => h ||| e.2) (0 : BitVec 4)
  ((m &&& widthMask x.width) >>> (4 * k)).setWidth 4 &&& ~~~held

/-- SETX (04 R116), latency 1. -/
def execSetx (a : KReg) (s : State) : Host.Outcome State Fault Refusal :=
  s.runWord (.setx a) fun c =>
    let x := s.gang c.gang
    s.emit c.gang 1 [.exec (c.slices.map fun k => (k, setxMask x k (x.kreg a.val)))]

/-- GETX (04 R117): the EXEC of the whole gang. -/
def execGetx (d : KReg) (s : State) : Host.Outcome State Fault Refusal :=
  s.runWord (.getx d) fun c => s.emit c.gang 1 [.k d.val (execMask (s.gang c.gang).slices)]

end Sys2Proof.Machine
end

