-- ==== Sys2Proof/Machine/Dispatch.lean ====
section
/-! DEFINITION. One arm for each constructor of Instr: the direct call of its meaning. -/

namespace Sys2Proof.Machine

open Sys2Proof

/-- The effect of an instruction word, or of a step of the device, on a state. -/
def exec (i : Instr) (s : State) : Host.Outcome State Fault Refusal :=
  match i with
  | .packetDecode g => Sys2Proof.Machine.execPacketDecode g s
  | .resultWriteback g => Sys2Proof.Machine.execResultWriteback g s
  | .variableResultArrival g => Sys2Proof.Machine.execVariableResultArrival g s
  | .switchParkEnd g => Sys2Proof.Machine.execSwitchParkEnd g s
  | .dataFault g tag k lanes => Sys2Proof.Machine.execDataFault g tag k lanes s
  | .gangResume g => Sys2Proof.Machine.execGangResume g s
  | .iadd ty d a b => Sys2Proof.Machine.execIadd ty d a b s
  | .isub ty d a b => Sys2Proof.Machine.execIsub ty d a b s
  | .imul hi uns d a b => Sys2Proof.Machine.execImul hi uns d a b s
  | .imad uns d a b => Sys2Proof.Machine.execImad uns d a b s
  | .idiv uns d a b => Sys2Proof.Machine.execIdiv uns d a b s
  | .irem uns d a b => Sys2Proof.Machine.execIrem uns d a b s
  | .movi d imm => Sys2Proof.Machine.execMovi d imm s
  | .imin uns d a b => Sys2Proof.Machine.execImin uns d a b s
  | .imax uns d a b => Sys2Proof.Machine.execImax uns d a b s
  | .iabs d a => Sys2Proof.Machine.execIabs d a s
  | .ineg d a => Sys2Proof.Machine.execIneg d a s
  | .brev d a => Sys2Proof.Machine.execBrev d a s
  | .icmp cc ty k a b => Sys2Proof.Machine.execIcmp cc ty k a b s
  | .and d a b => Sys2Proof.Machine.execAnd d a b s
  | .or d a b => Sys2Proof.Machine.execOr d a b s
  | .xor d a b => Sys2Proof.Machine.execXor d a b s
  | .andn d a b => Sys2Proof.Machine.execAndn d a b s
  | .not d a => Sys2Proof.Machine.execNot d a s
  | .popc d a => Sys2Proof.Machine.execPopc d a s
  | .clz d a => Sys2Proof.Machine.execClz d a s
  | .ctz d a => Sys2Proof.Machine.execCtz d a s
  | .shl d a b => Sys2Proof.Machine.execShl d a b s
  | .shr d a b => Sys2Proof.Machine.execShr d a b s
  | .sar d a b => Sys2Proof.Machine.execSar d a b s
  | .rot d a b => Sys2Proof.Machine.execRot d a b s
  | .bfe sgn d a b => Sys2Proof.Machine.execBfe sgn d a b s
  | .bfi d a b => Sys2Proof.Machine.execBfi d a b s
  | .sel k d a b => Sys2Proof.Machine.execSel k d a b s
  | .mov wide d a => Sys2Proof.Machine.execMov wide d a s
  | .sadd d a b => Sys2Proof.Machine.execSadd d a b s
  | .ssub d a b => Sys2Proof.Machine.execSsub d a b s
  | .sand d a b => Sys2Proof.Machine.execSand d a b s
  | .sor d a b => Sys2Proof.Machine.execSor d a b s
  | .sshl d a b => Sys2Proof.Machine.execSshl d a b s
  | .sshr d a b => Sys2Proof.Machine.execSshr d a b s
  | .smul d a b => Sys2Proof.Machine.execSmul d a b s
  | .scmp cc d a b => Sys2Proof.Machine.execScmp cc d a b s
  | .movs f => Sys2Proof.Machine.execMovs f s
  | .adda d a b => Sys2Proof.Machine.execAdda d a b s
  | .lea sh d a b => Sys2Proof.Machine.execLea sh d a b s
  | .mova f => Sys2Proof.Machine.execMova f s
  | .kand d a b => Sys2Proof.Machine.execKand d a b s
  | .kor d a b => Sys2Proof.Machine.execKor d a b s
  | .knot d a => Sys2Proof.Machine.execKnot d a s
  | .kpop d a => Sys2Proof.Machine.execKpop d a s
  | .setx a => Sys2Proof.Machine.execSetx a s
  | .getx d => Sys2Proof.Machine.execGetx d s
  | .br off => Sys2Proof.Machine.execBr off s
  | .brk cc k off => Sys2Proof.Machine.execBrk cc k off s
  | .brs cc a off => Sys2Proof.Machine.execBrs cc a off s
  | .jmp a => Sys2Proof.Machine.execJmp a s
  | .callIndirect d a => Sys2Proof.Machine.execCallIndirect d a s
  | .ret a => Sys2Proof.Machine.execRet a s
  | .call off => Sys2Proof.Machine.execCall off s
  | .loop a off => Sys2Proof.Machine.execLoop a off s
  | .join dist => Sys2Proof.Machine.execJoin dist s
  | .fadd x d a b => Sys2Proof.Machine.execFadd x d a b s
  | .fsub x d a b => Sys2Proof.Machine.execFsub x d a b s
  | .fmul x d a b => Sys2Proof.Machine.execFmul x d a b s
  | .ffma x d a b => Sys2Proof.Machine.execFfma x d a b s
  | .fmin x d a b => Sys2Proof.Machine.execFmin x d a b s
  | .fmax x d a b => Sys2Proof.Machine.execFmax x d a b s
  | .fcmp x cc k a b => Sys2Proof.Machine.execFcmp x cc k a b s
  | .fclass x d a => Sys2Proof.Machine.execFclass x d a s
  | .frnd x d a => Sys2Proof.Machine.execFrnd x d a s
  | .hadd2 x bf d a b => Sys2Proof.Machine.execHadd2 x bf d a b s
  | .hmul2 x bf d a b => Sys2Proof.Machine.execHmul2 x bf d a b s
  | .hfma2 x bf d a b => Sys2Proof.Machine.execHfma2 x bf d a b s
  | .dot4F8 fa fb d a b => Sys2Proof.Machine.execDot4F8 fa fb d a b s
  | .dot4I8 ua ub d a b => Sys2Proof.Machine.execDot4I8 ua ub d a b s
  | .cvtFromFloat x dst src d a => Sys2Proof.Machine.execCvtFromFloat x dst src d a s
  | .cvtFromInt x dst src d a => Sys2Proof.Machine.execCvtFromInt x dst src d a s
  | .rcp x d a => Sys2Proof.Machine.execRcp x d a s
  | .rsq x d a => Sys2Proof.Machine.execRsq x d a s
  | .sqrt x d a => Sys2Proof.Machine.execSqrt x d a s
  | .log2 x d a => Sys2Proof.Machine.execLog2 x d a s
  | .exp2 x d a => Sys2Proof.Machine.execExp2 x d a s
  | .sin x d a => Sys2Proof.Machine.execSin x d a s
  | .cos x d a => Sys2Proof.Machine.execCos x d a s
  | .expr half dst a b c d toks => Sys2Proof.Machine.execExpr half dst a b c d toks s
  | .shfl m d a b => Sys2Proof.Machine.execShfl m d a b s
  | .bcast d a b => Sys2Proof.Machine.execBcast d a b s
  | .perm d a b => Sys2Proof.Machine.execPerm d a b s
  | .ballot k a => Sys2Proof.Machine.execBallot k a s
  | .vote m k a => Sys2Proof.Machine.execVote m k a s
  | .scan op excl ty d a => Sys2Proof.Machine.execScan op excl ty d a s
  | .reduce op ty d a => Sys2Proof.Machine.execReduce op ty d a s
  | .ld sz hint d o ba => Sys2Proof.Machine.execLd sz hint d o ba s
  | .st sz hint d o ba => Sys2Proof.Machine.execSt sz hint d o ba s
  | .ldg sz hint d o ba => Sys2Proof.Machine.execLdg sz hint d o ba s
  | .stg sz hint d o ba => Sys2Proof.Machine.execStg sz hint d o ba s
  | .ldAcq wide sc d o ba => Sys2Proof.Machine.execLdAcq wide sc d o ba s
  | .stRel wide sc d o ba => Sys2Proof.Machine.execStRel wide sc d o ba s
  | .atom op sc d o ba => Sys2Proof.Machine.execAtom op sc d o ba s
  | .pref hint o ba => Sys2Proof.Machine.execPref hint o ba s
  | .ldv sz d o ba => Sys2Proof.Machine.execLdv sz d o ba s
  | .stv sz d o ba => Sys2Proof.Machine.execStv sz d o ba s
  | .atomv op d o ba => Sys2Proof.Machine.execAtomv op d o ba s
  | .towpathRequestArrival n => Sys2Proof.Machine.execTowpathRequestArrival n s
  | .fence sc => Sys2Proof.Machine.execFence sc s
  | .fenceX sc p1 p2 => Sys2Proof.Machine.execFenceX sc p1 p2 s
  | .afence sc ax ay => Sys2Proof.Machine.execAfence sc ax ay s
  | .nbinit nb cnt => Sys2Proof.Machine.execNbinit nb cnt s
  | .nbarr d nb => Sys2Proof.Machine.execNbarr d nb s
  | .nbwait d nb => Sys2Proof.Machine.execNbwait d nb s
  | .nbwaitComplete g tag => Sys2Proof.Machine.execNbwaitComplete g tag s
  | .tgarr d grp => Sys2Proof.Machine.execTgarr d grp s
  | .tgwait d grp => Sys2Proof.Machine.execTgwait d grp s
  | .tgwaitComplete g tag => Sys2Proof.Machine.execTgwaitComplete g tag s
  | .tgjoin grp => Sys2Proof.Machine.execTgjoin grp s
  | .tgleave grp => Sys2Proof.Machine.execTgleave grp s
  | .evsig e => Sys2Proof.Machine.execEvsig e s
  | .evwait d e => Sys2Proof.Machine.execEvwait d e s
  | .evtest d e => Sys2Proof.Machine.execEvtest d e s
  | .eventOverflowOperation tower => Sys2Proof.Machine.execEventOverflowOperation tower s
  | .qbind q desc => Sys2Proof.Machine.execQbind q desc s
  | .qpush q vs => Sys2Proof.Machine.execQpush q vs s
  | .qpop d q => Sys2Proof.Machine.execQpop d q s
  | .qpeek d q => Sys2Proof.Machine.execQpeek d q s
  | .qpopRecordArrival g q => Sys2Proof.Machine.execQpopRecordArrival g q s
  | .qdepth d q => Sys2Proof.Machine.execQdepth d q s
  | .shape h sk => Sys2Proof.Machine.execShape h sk s
  | .copy follow tomem h rng nb => Sys2Proof.Machine.execCopy follow tomem h rng nb s
  | .copyCsr h rng nb => Sys2Proof.Machine.execCopyCsr h rng nb s
  | .copyPlane follow tomem h rng nb => Sys2Proof.Machine.execCopyPlane follow tomem h rng nb s
  | .copyQ h rng nb => Sys2Proof.Machine.execCopyQ h rng nb s
  | .copyqRecordDelivery cp => Sys2Proof.Machine.execCopyqRecordDelivery cp s
  | .copyComplete cp => Sys2Proof.Machine.execCopyComplete cp s
  | .followOnIssue cp => Sys2Proof.Machine.execFollowOnIssue cp s
  | .cpstat d h => Sys2Proof.Machine.execCpstat d h s
  | .mma t ha hb => Sys2Proof.Machine.execMma t ha hb s
  | .mmaI t ha hb => Sys2Proof.Machine.execMmaI t ha hb s
  | .mmaAd t ha hb sv => Sys2Proof.Machine.execMmaAd t ha hb sv s
  | .mmaQ t qa hb dsc => Sys2Proof.Machine.execMmaQ t qa hb dsc s
  | .passStart c => Sys2Proof.Machine.execPassStart c s
  | .passEnd c => Sys2Proof.Machine.execPassEnd c s
  | .layerFail c layer => Sys2Proof.Machine.execLayerFail c layer s
  | .stagingRecordMove c mi => Sys2Proof.Machine.execStagingRecordMove c mi s
  | .adapterFillComplete c n => Sys2Proof.Machine.execAdapterFillComplete c n s
  | .matrixComplete c mi => Sys2Proof.Machine.execMatrixComplete c mi s
  | .macq t => Sys2Proof.Machine.execMacq t s
  | .macqComplete g t => Sys2Proof.Machine.execMacqComplete g t s
  | .mrel t => Sys2Proof.Machine.execMrel t s
  | .mlda d t pos => Sys2Proof.Machine.execMlda d t pos s
  | .msta vs t pos => Sys2Proof.Machine.execMsta vs t pos s
  | .mclr t => Sys2Proof.Machine.execMclr t s
  | .adinv id => Sys2Proof.Machine.execAdinv id s
  | .islpush mark q vs tag => Sys2Proof.Machine.execIslpush mark q vs tag s
  | .islrecv d q cnt => Sys2Proof.Machine.execIslrecv d q cnt s
  | .islrecvComplete g tag => Sys2Proof.Machine.execIslrecvComplete g tag s
  | .islstat d isel => Sys2Proof.Machine.execIslstat d isel s
  | .rdsr d n => Sys2Proof.Machine.execRdsr d n s
  | .wrsr n src => Sys2Proof.Machine.execWrsr n src s
  | .trap code => Sys2Proof.Machine.execTrap code s
  | .brkpt code => Sys2Proof.Machine.execBrkpt code s
  | .dbgmark code => Sys2Proof.Machine.execDbgmark code s
  | .sleep a => Sys2Proof.Machine.execSleep a s
  | .sleepExpiry g => Sys2Proof.Machine.execSleepExpiry g s
  | .getinfo d a => Sys2Proof.Machine.execGetinfo d a s
  | .gets n => Sys2Proof.Machine.execGets n s
  | .upgo n => Sys2Proof.Machine.execUpgo n s
  | .upgs n => Sys2Proof.Machine.execUpgs n s
  | .upgn n => Sys2Proof.Machine.execUpgn n s
  | .wbmo n => Sys2Proof.Machine.execWbmo n s
  | .wbmx n => Sys2Proof.Machine.execWbmx n s
  | .wbc n => Sys2Proof.Machine.execWbc n s
  | .wrt n => Sys2Proof.Machine.execWrt n s
  | .renew n => Sys2Proof.Machine.execRenew n s
  | .invack n => Sys2Proof.Machine.execInvack n s
  | .invackl n => Sys2Proof.Machine.execInvackl n s
  | .fwdack n => Sys2Proof.Machine.execFwdack n s
  | .fwdackx n => Sys2Proof.Machine.execFwdackx n s
  | .rcldata n => Sys2Proof.Machine.execRcldata n s
  | .rclack n => Sys2Proof.Machine.execRclack n s
  | .requestRetry h line => Sys2Proof.Machine.execRequestRetry h line s
  | .noncachingRequest n => Sys2Proof.Machine.execNoncachingRequest n s
  | .datas n => Sys2Proof.Machine.execDatas n s
  | .datae n => Sys2Proof.Machine.execDatae n s
  | .datam n => Sys2Proof.Machine.execDatam n s
  | .upgack n => Sys2Proof.Machine.execUpgack n s
  | .wback n => Sys2Proof.Machine.execWback n s
  | .inv n => Sys2Proof.Machine.execInv n s
  | .fwds n => Sys2Proof.Machine.execFwds n s
  | .fwdx n => Sys2Proof.Machine.execFwdx n s
  | .recall n => Sys2Proof.Machine.execRecall n s
  | .update n => Sys2Proof.Machine.execUpdate n s
  | .renack n => Sys2Proof.Machine.execRenack n s
  | .rebase n => Sys2Proof.Machine.execRebase n s
  | .rebaseAnswer n => Sys2Proof.Machine.execRebaseAnswer n s
  | .nak n => Sys2Proof.Machine.execNak n s
  | .leaseFlushTimer c line => Sys2Proof.Machine.execLeaseFlushTimer c line s
  | .selfRefreshEntry h => Sys2Proof.Machine.execSelfRefreshEntry h s
  | .hostReadShared pa => Sys2Proof.Machine.execHostReadShared pa s
  | .hostReadOwn pa => Sys2Proof.Machine.execHostReadOwn pa s
  | .memrd pa => Sys2Proof.Machine.execMemrd pa s
  | .memwr pa data mask => Sys2Proof.Machine.execMemwr pa data mask s
  | .qtail t q val => Sys2Proof.Machine.execQtail t q val s
  | .qprogWrite t q val => Sys2Proof.Machine.execQprogWrite t q val s
  | .qdWrite t q k val => Sys2Proof.Machine.execQdWrite t q k val s
  | .switchOut t q => Sys2Proof.Machine.execSwitchOut t q s
  | .switchIn t q => Sys2Proof.Machine.execSwitchIn t q s
  | .cancel t req => Sys2Proof.Machine.execCancel t req s
  | .cancelTimeout g => Sys2Proof.Machine.execCancelTimeout g s
  | .rootWrite t val => Sys2Proof.Machine.execRootWrite t val s
  | .tlbInvalidate t val => Sys2Proof.Machine.execTlbInvalidate t val s
  | .tlbInvalidateComplete t => Sys2Proof.Machine.execTlbInvalidateComplete t s
  | .imgflush t val => Sys2Proof.Machine.execImgflush t val s
  | .trbaseWrite t val => Sys2Proof.Machine.execTrbaseWrite t val s
  | .cecntClear k => Sys2Proof.Machine.execCecntClear k s
  | .registerWrite off size val => Sys2Proof.Machine.execRegisterWrite off size val s
  | .recordIntake t q => Sys2Proof.Machine.execRecordIntake t q s
  | .launchStart lent => Sys2Proof.Machine.execLaunchStart lent s
  | .starvationExpiry lent => Sys2Proof.Machine.execStarvationExpiry lent s
  | .bindPost tower b0 b1 => Sys2Proof.Machine.execBindPost tower b0 b1 s
  | .bindAccept tower n => Sys2Proof.Machine.execBindAccept tower n s
  | .clusterReserve tower cgrp => Sys2Proof.Machine.execClusterReserve tower cgrp s
  | .clusterBackoffExpiry tower cgrp => Sys2Proof.Machine.execClusterBackoffExpiry tower cgrp s
  | .crewRetire crew => Sys2Proof.Machine.execCrewRetire crew s
  | .pageWalk tower n => Sys2Proof.Machine.execPageWalk tower n s
  | .pageResponse tower n ans => Sys2Proof.Machine.execPageResponse tower n ans s
  | .swapoutTimer crew => Sys2Proof.Machine.execSwapoutTimer crew s
  | .vacate tower cores => Sys2Proof.Machine.execVacate tower cores s
  | .crewSaveComplete crew => Sys2Proof.Machine.execCrewSaveComplete crew s
  | .crewRestore crew core => Sys2Proof.Machine.execCrewRestore crew core s
  | .borrowCommand c => Sys2Proof.Machine.execBorrowCommand c s
  | .borrowRestoreComplete c => Sys2Proof.Machine.execBorrowRestoreComplete c s
  | .islandRecordEntry isl => Sys2Proof.Machine.execIslandRecordEntry isl s
  | .islandRecordExit isl => Sys2Proof.Machine.execIslandRecordExit isl s
  | .i1ImageLoad c => Sys2Proof.Machine.execI1ImageLoad c s
  | .i1ImageLoadComplete c => Sys2Proof.Machine.execI1ImageLoadComplete c s
  | .ingressSignal win => Sys2Proof.Machine.execIngressSignal win s
  | .hostWriteback pa data => Sys2Proof.Machine.execHostWriteback pa data s
  | .hostDropHalf pa => Sys2Proof.Machine.execHostDropHalf pa s
  | .birsp tower line => Sys2Proof.Machine.execBirsp tower line s
  | .hostSnoop pa => Sys2Proof.Machine.execHostSnoop pa s
  | .msixVectorUnmask v => Sys2Proof.Machine.execMsixVectorUnmask v s
  | .peerWrite win off requester data => Sys2Proof.Machine.execPeerWrite win off requester data s
  | .peerRead win off => Sys2Proof.Machine.execPeerRead win off s
  | .getCertificate slot => Sys2Proof.Machine.execGetCertificate slot s
  | .challenge nonce => Sys2Proof.Machine.execChallenge nonce s
  | .getMeasurements idx => Sys2Proof.Machine.execGetMeasurements idx s
  | .nop => Sys2Proof.Machine.execNop s
  | .endl => Sys2Proof.Machine.execEndl s
  | .regang => Sys2Proof.Machine.execRegang s
  | .yield => Sys2Proof.Machine.execYield s
  | .exit => Sys2Proof.Machine.execExit s
  | .endGang => Sys2Proof.Machine.execEndGang s
  | .halt => Sys2Proof.Machine.execHalt s
  | .ingressPerst => Sys2Proof.Machine.execIngressPerst s
  | .tcreate => Sys2Proof.Machine.execTcreate s
  | .tdestroy => Sys2Proof.Machine.execTdestroy s
  | .coremask => Sys2Proof.Machine.execCoremask s
  | .rtset => Sys2Proof.Machine.execRtset s
  | .coresp => Sys2Proof.Machine.execCoresp s
  | .scgran => Sys2Proof.Machine.execScgran s
  | .tidealloc => Sys2Proof.Machine.execTidealloc s
  | .tideisl => Sys2Proof.Machine.execTideisl s
  | .pin => Sys2Proof.Machine.execPin s
  | .unpin => Sys2Proof.Machine.execUnpin s
  | .tabload => Sys2Proof.Machine.execTabload s
  | .rangewr => Sys2Proof.Machine.execRangewr s
  | .wload => Sys2Proof.Machine.execWload s
  | .wgrant => Sys2Proof.Machine.execWgrant s
  | .pgretire => Sys2Proof.Machine.execPgretire s
  | .measext => Sys2Proof.Machine.execMeasext s
  | .starve => Sys2Proof.Machine.execStarve s
  | .invalidCommand => Sys2Proof.Machine.execInvalidCommand s
  | .commandEnd => Sys2Proof.Machine.execCommandEnd s
  | .getVersion => Sys2Proof.Machine.execGetVersion s
  | .getCapabilities => Sys2Proof.Machine.execGetCapabilities s
  | .negotiateAlgorithms => Sys2Proof.Machine.execNegotiateAlgorithms s
  | .getDigests => Sys2Proof.Machine.execGetDigests s
  | .reset => Sys2Proof.Machine.execReset s
  | .brownOut => Sys2Proof.Machine.execBrownOut s
  | .scrub => Sys2Proof.Machine.execScrub s

end Sys2Proof.Machine
end

