-- ==== Sys2Proof/Machine/Place.lean ====
section
/-! DEFINITION. A packet placed for the next step: the device past its boot with one resident crew of one gang, as a launch that has
been dispatched leaves it (15 R380), its code page mapped and its line in the L1 instruction cache (log entry 38). -/

namespace Sys2Proof.Machine

open Sys2Proof

/-- The code address used for a placed packet. -/
def placePa : Nat := 0x100000

/-- Tenant 0, LENT 0, crew 0 on core 0: one gang of width 16 with 96 V registers, all lanes active. -/
def placeCrew : Crew :=
  { here := true, core := 0, ngangs := 1, width := 16, nv := 96, wsize := 2 ^ 20, gran := [], tok := true, qmask := 0xFFFF }

def placeGang : Gang :=
  { here := true, width := 16, nv := 96, crew := 0, gid := 0
    slices := (List.range 4).map fun _ => { live := true, pc := BitVec.ofNat 76 (placePa / 16), mask := 15 } }

/-- The packet's bytes stored where the gang fetches. -/
def State.placeWord (s : State) (nbits w : Nat) : State :=
  let bs := leBytes 16 (w % 2 ^ nbits)
  let s := { s with agenda := [], tape := [], cur := none, phase := 1, life := { s.life with booted := true, stage := 3 } }
  let s := s.setBytes placePa bs
  let s := (s.setCrew 0 placeCrew).setGang 0 placeGang
  let s := s.modTen 0 fun t => { t with live := true }
  let s := s.setLaunch 0 { used := true, started := true, disp := 1, bound := 1 }
  s.modCore 0 fun c =>
    { c with
      tlb := [{ tenant := 0, vpage := placePa / 8192, ppage := placePa / 8192, size := 1, r := true, w := true, x := true }]
      l1i := [(placePa / 128, bs)]
      tokOwner := some 0 }

end Sys2Proof.Machine
end

