-- ==== Sys2Proof/Machine/Sequence.lean ====
section
/-! DEFINITION. What the device does next: the words of the chain group that issues, acts that are due, happenings of the tape, the
gang that issues, and the passing of a cycle. -/

namespace Sys2Proof.Machine

open Sys2Proof

/-- The turn of a cycle in which an act takes place (`State.phase`; 06 R175): the own core's gangs reach the vault first, then its copies and
matrix engine, then the towpath.  DESIGN CHOICE (log entry 33): the order of acts of one turn, which no rule gives, and that of what does not touch
a vault before the quarters. -/
def actTurn : Instr → Nat
  | .copyComplete _ | .copyqRecordDelivery _ | .followOnIssue _ | .passStart _ | .passEnd _ | .stagingRecordMove .. | .adapterFillComplete ..
  | .matrixComplete .. => 5
  | .towpathRequestArrival _ => 6
  | _ => 0

/-- The first act of the agenda that is due in this turn, without it. -/
def dueAgenda (now turn : Nat) : List (Nat × Instr) → Option (Instr × List (Nat × Instr))
  | [] => none
  | p :: r =>
    if p.1 ≤ now ∧ actTurn p.2 = turn then some (p.2, r) else (dueAgenda now turn r).map fun q => (q.1, p :: q.2)

/-- An act of gang `g` that is due: a result lands or arrives, an operation goes on, a take is served, a park ends. -/
def State.gangAct (s : State) (g : Nat) (x : Gang) : Option Instr :=
  if x.wb.any fun e => e.dueIn s.now 0 then some (.resultWriteback g)
  else if x.here && ((x.arrival s.now).isSome || (x.mover s.now).isSome) then some (.variableResultArrival g)
  else match s.servable g x with
    | some q => some (.qpopRecordArrival g (BitVec.ofNat 4 q).toFin)
    | none => if x.parked && (x.pend.isEmpty || x.stopNext) then some (.switchParkEnd g) else none

/-- An act of an island that is due. -/
def State.islAct (s : State) (k : Nat) : Option Instr :=
  if s.canLeave k then some (.islandRecordExit k) else if s.canEnter k then some (.islandRecordEntry k) else none

/-- An act of a core's matrix engine that is due. -/
def State.engineAct (s : State) (c : Nat) : Option Instr :=
  let k := s.core c
  if (s.nextTurn k).isSome then some (.passStart c)
  else (k.minsts.find? s.canStage).map fun m => .stagingRecordMove c m.id

/-- An act of a core that is due: its islands, its borrow. -/
def State.coreAct (s : State) (c : Nat) : Option Instr :=
  let k := s.core c
  match [8 * c, 8 * c + 1].findSome? s.islAct with
  | some i => some i
  | none =>
    if s.mayLoad c then some (.i1ImageLoad c)
    else if s.borrowTurn c k then some (.borrowCommand c)
    else if s.borrowOver c k then some (.borrowRestoreComplete c)
    else none

/-- An act of a crew that is due: it retires, its swap-out timer, its save. -/
def State.crewAct (s : State) (u : Nat) (cr : Crew) : Option Instr :=
  if s.canRetire u cr then some (.crewRetire u)
  else if s.timerTurn u cr then some (.swapoutTimer u)
  else if s.saveTurn u cr then some (.crewSaveComplete u)
  else none

/-- An act of a tower that is due: a walk ends, a wide island, the dispatch of a posted crew or cluster. -/
def State.towerAct (s : State) (t : Nat) : Option Instr :=
  match (s.tower t).walks.findIdx? fun w => w.ready s.now with
  | some n => some (.pageWalk t n)
  | none =>
    match (List.range 4).findSome? fun k => s.islAct (8 * (48 * t) + 4 + k) with
    | some i => some i
    | none => s.nextDispatch t

/-- Is an act of the scheduler put off until what it reads is ready (10 R285)? -/
def State.awaited (s : State) (i : Instr) : Bool := s.agenda.any fun a => a.2 == i

/-- A record that can be taken in, of any queue. -/
def State.nextIntake (s : State) : Option (Nat × Nat) :=
  s.tenants.findSome? fun t => (t.2.queues.find? fun q => s.canIntake t.1 q.1 && !s.awaited (.recordIntake t.1 q.1)).map fun q => (t.1, q.1)

/-- An act of the scheduler that is due: intake, the start of a launch, a bind record, a restore. -/
def State.schedAct (s : State) : Option Instr :=
  match s.nextIntake with
  | some p => some (.recordIntake p.1 p.2)
  | none =>
    match s.lents.find? fun p => s.canStart p.2 && !s.awaited (.launchStart p.1) with
    | some p => some (.launchStart p.1)
    | none =>
      match s.nextBind, s.nextRestore with
      | some b, some p =>
        -- a saved crew is placed like a new one, before the new crews of its launch (16 R408)
        let la := s.launch (s.lentOf b.2.1)
        if la.midCluster || decide (s.rank la < s.rank (s.launch (s.crew p.1).lent)) then some (.bindPost b.1 b.2.1 b.2.2) else some (.crewRestore p.1 p.2)
      | some b, none => some (.bindPost b.1 b.2.1 b.2.2)
      | none, r => r.map fun p => .crewRestore p.1 p.2

/-- Cores that hold something. -/
def State.liveCores (s : State) : List Nat := (s.cores.map (·.1) ++ s.gangs.map (·.2.core)).dedup

/-- The act of this turn that is not in the agenda.  Acts of one turn take place in this order. -/
def State.turnAct (s : State) : Option Instr :=
  match s.phase with
  | 0 =>
    s.netAct false <|> (s.gangs.findSome? fun p => s.gangAct p.1 p.2) <|> (s.liveCores.findSome? s.coreAct) <|>
      ([0, 1].findSome? s.towerAct) <|> (s.crews.findSome? fun p => s.crewAct p.1 p.2) <|> s.schedAct <|>
      ((if s.now < 2100000 then [] else List.range 16).find? s.mayRest).map .selfRefreshEntry
  | 5 => s.liveCores.findSome? s.engineAct
  | 6 => s.netAct true
  | q + 1 => (s.gangs.find? fun p => p.2.quarter == q && p.2.wb.any fun e => e.dueIn s.now (q + 1)).map fun p => .resultWriteback p.1

/-- The act that is due in this turn, and the state without its agenda entry. -/
def State.dueAct (s : State) : Option (Instr × State) :=
  match dueAgenda s.now s.phase s.agenda with
  | some (i, r) => some (i, { s with agenda := r })
  | none => s.turnAct.map fun i => (i, s)

/-- The next turn of the cycle, or the next cycle, in which the upsets of stored bits of its time happen. -/
def State.tick (s : State) : State :=
  if s.phase < 6 then { s with phase := s.phase + 1 } else ({ s with now := s.now + 1, phase := 0 } : State).upsetsDue

/-- Is a row an instruction word, which only a gang issues? -/
def isWord (i : Instr) : Bool := pipeOf i != .none || (i matches .nop)

/-- The happening of the tape that takes place now, at the start of a cycle, and the state without it; an instruction word in the tape is
none. -/
def State.tapeAct (s : State) : Option (Option Instr × State) :=
  match s.tape with
  | [] => none
  | (t, i) :: r =>
    if t ≤ s.now ∧ s.phase = 0 then some (if isWord i then none else some i, { s with tape := r }) else none

/-- May quarter `q` of the core issue in this cycle (01 R31)? -/
def State.quarterFree (s : State) (x : Gang) : Bool := Sparse.get 0 (s.core x.core).lastIssue x.quarter != s.now + 1

/-- The gang that issues next in the turn of its quarter: of each quarter the ready gang that issued longest ago (01 R34); the quarters of a
core come in ascending number (01 R19).  DESIGN CHOICE (log entry 8): of gangs that issued equally long ago, none since its dispatch, the one
with the lowest key, for R34 names no tie-break. -/
def State.pickGang (s : State) : Option Nat :=
  let ready := s.gangs.filter fun p => s.phase == p.2.quarter + 1 && s.quarterFree p.2 && (s.nextOf p.1).isSome
  match ready with
  | [] => none
  | p :: r =>
    some ((r.filter fun q => q.2.core == p.2.core && q.2.quarter == p.2.quarter).foldl
      (fun b q => if q.2.lastIssue < b.2.lastIssue then q else b) p).1

/-- The word of the chain group that issues now, with the state in which it issues; the lowest word with a trap issues alone,
for its group has no effect (00 R13). -/
def State.nextWord (s : State) (c : Cursor) : Option (Instr × State) :=
  let start := c.words.length == c.group.length
  let trapped := c.group.find? fun w => (s.wordTrap { c with slot := w.slot } w.i).isSome
  match start, trapped with
  | true, some w => some (w.i, { s with cur := some { c with slot := w.slot, words := [] } })
  | _, _ =>
    match c.words with
    | [] => none
    | w :: r => some (w.i, { s with cur := some { c with slot := w.slot, words := r } })

end Sys2Proof.Machine
end

