-- ==== Sys2Proof/Machine/Step.lean ====
section
/-! DEFINITION. One step of the device. -/

namespace Sys2Proof.Machine

open Sys2Proof

/-- The next word of the chain group that issues, or the end of the group (01 R31). -/
def stepWord (s : State) (c : Cursor) : Host.Outcome State Fault Refusal :=
  match s.nextWord c with
  | some (i, s') => exec i s'
  | none => .next (s.endGroup c)

/-- A gang issues: its packet is fetched and decoded, and the first word of its chain group runs. -/
def stepIssue (s : State) (g : Nat) : Host.Outcome State Fault Refusal :=
  match exec (.packetDecode g) s with
  | .next s' =>
    match s'.cur with
    | some c => stepWord s' c
    | none => .next s'
  | .fault r => .fault r
  | .refused r => .refused r

/-- One step: the words of a group that issues; else an act that is due; else a happening of the tape; else a gang issues; else
the next turn of the cycle or the next cycle. -/
def step (s : State) : Host.Outcome State Fault Refusal :=
  match s.cur with
  | some c => stepWord s c
  | none =>
    match s.dueAct with
    | some (i, s') => exec i s'
    | none =>
      match s.tapeAct with
      | some (some i, s') => exec i s'
      | some (none, s') => .next s'
      | none =>
        match s.pickGang with
        | some g => stepIssue s g
        | none => .next s.tick

/-- The device with a crew of one gang whose next packet starts with the bits `w` (03 R74). -/
def State.withFetchWord (s : State) (nbits w : Nat) : State := s.placeWord nbits w

end Sys2Proof.Machine
end

