-- ==== Sys2Proof/Safety.lean ====
section
/-! DEFINITION. The terms in which the claims are made: a word that issues without a trap, a result in flight, the registers a word
leaves alone, canonical maps. -/

namespace Sys2Proof.Machine

open Sys2Proof

/-! ## Words that issue -/

/-- The word `i` issues in `s` with the cursor `c` and takes no trap: no register that it names is pending in its lanes, and the
checks of its entry pass (00 R13, 01 R42). -/
def Issues (s : State) (c : Cursor) (i : Instr) : Prop := s.cur = some c ∧ s.wordTrap c i = none

/-- The gang of the word that issues. -/
def State.gangOf (s : State) (c : Cursor) : Gang := s.gang c.gang

/-- Wherever it issues without a trap, the word `i` completes, with a next state that `R` describes. -/
def Completes (i : Instr) (R : State → Cursor → State → Prop) : Prop :=
  ∀ s c, Issues s c i → ∃ t, exec i s = .next t ∧ R s c t

/-- `t` is `s` with one result more in flight for gang `g`: the youngest, visible `lat` cycles from now (01 R39).  Everything
else is as in `s`. -/
def InFlight (s t : State) (g lat : Nat) (ws : List Write) (fl : BitVec 7) : Prop :=
  t = s.setGang g { s.gang g with
    wb := (s.gang g).wb ++ [{ due := s.now + lat, seq := (s.gang g).nextSeq, writes := ws, flags := fl }]
    nextSeq := (s.gang g).nextSeq + 1 }

/-- A latency of pipes V0, V1 and X: one cycle longer for a gang of width 64 (01 R49). -/
def widthLat (s : State) (c : Cursor) (lat : Nat) : Nat := lat + if (s.gangOf c).width = 64 then 1 else 0

/-- The word has a fixed-latency result `ws` and flags `fl`, and no other effect at issue. -/
def HasResult (i : Instr) (lat : State → Cursor → Nat) (ws : State → Cursor → List Write)
    (fl : State → Cursor → BitVec 7) : Prop :=
  Completes i fun s c t => InFlight s t c.gang (lat s c) (ws s c) (fl s c)

/-- A vector word: each active lane of V register `d`, and no other lane, receives a value with which `P` holds, and FLAGS receives
the lanes' flags together (04 R100, 05 R134). -/
def VectorResult (i : Instr) (lat d : Nat) (P : State → Cursor → Nat → Word → BitVec 7 → Prop) : Prop :=
  Completes i fun s c t => ∃ f : Nat → Word × BitVec 7,
    (∀ l ∈ s.lanes c, P s c l (f l).1 (f l).2) ∧
    InFlight s t c.gang (widthLat s c lat) [.v d ((s.lanes c).map fun l => (l, (f l).1))]
      (orFlags ((s.lanes c).map fun l => (f l).2))

/-- A vector word whose lanes' values and flags are functions of the lane. -/
def VectorValue (i : Instr) (lat d : Nat) (val : State → Cursor → Nat → Word) (fl : State → Cursor → Nat → BitVec 7) : Prop :=
  VectorResult i lat d fun s c l r f => r = val s c l ∧ f = fl s c l

/-- A vector word with a 64-bit result in an even-odd pair (03 R80, 04 R99). -/
def PairValue (i : Instr) (lat d : Nat) (val : State → Cursor → Nat → DWord) (fl : State → Cursor → Nat → BitVec 7) : Prop :=
  Completes i fun s c t =>
    InFlight s t c.gang (widthLat s c lat)
      [.v d ((s.lanes c).map fun l => (l, (val s c l).extractLsb' 0 32)),
       .v (d + 1) ((s.lanes c).map fun l => (l, (val s c l).extractLsb' 32 32))]
      (orFlags ((s.lanes c).map fun l => fl s c l))

/-- A word that replaces a whole K register by the mask of the active lanes that pass a test (04 R103). -/
def MaskResult (i : Instr) (lat k : Nat) (P : State → Cursor → Nat → Bool) (fl : State → Cursor → BitVec 7) : Prop :=
  Completes i fun s c t => ∃ m : DWord, (∀ l, l < 64 → m.getLsbD l = ((s.lanes c).contains l && P s c l)) ∧
    InFlight s t c.gang (widthLat s c lat) [.k k m] (fl s c)

/-- No flag in any lane. -/
def noFlags : State → Cursor → Nat → BitVec 7 := fun _ _ _ => 0

/-- The word has the scalar, address or mask result `ws`, whatever EXEC holds, and sets no flag (04 R110, R112, R115). -/
def WholeResult (i : Instr) (lat : Nat) (ws : State → Cursor → Write) : Prop :=
  HasResult i (fun _ _ => lat) (fun s c => [ws s c]) fun _ _ => 0

/-- A control word of cycle `s.now` that is recorded in its packet's cursor: when the packet ends, with the lanes `act` of the subgang active,
slice `n` below 16 in the state `q` will stand as `f s c act n q` (04 R118, R119). -/
def Recorded (s : State) (c : Cursor) (t : State) (f : State → Cursor → DWord → Nat → Slice → Slice) : Prop :=
  ∃ a : Ctl, t = { s with cur := some { c with act := a, actAt := s.now } } ∧
    ∀ act n q, n < 16 → a.apply s.now act n q = f s c act n q

/-- A control word that takes effect is recorded in its packet's cursor, and nothing else changes; one that does not acts as NOP
(04 R118). -/
def Steers (i : Instr) (f : State → Cursor → DWord → Nat → Slice → Slice) : Prop :=
  Completes i fun s c t => (c.ctl = some c.slot → Recorded s c t f) ∧ (c.ctl ≠ some c.slot → t = s)

/-- A slice that takes a transfer to `pc` (04 R118). -/
def Slice.taken (k : Slice) (now : Nat) (pc : PAddr) : Slice := { k with pc := pc, ready := now + 2 }

/-- `x` after it has started the operation `o` as its next in cycle `now`, which owes the registers `regs` in the lanes `m` (01 R41).  The
operation's place among the quarters' issues, whether a data fault was held, and the gang's clock are the model's record of the order of
issue (01 R19, R46; 09 R259, R270). -/
def Gang.owing (x : Gang) (now : Nat) (o : Op) (regs : List PReg) (m : DWord) : Gang :=
  { x with
    pend := x.pend ++ regs.map fun r => { reg := r, lanes := m, tag := x.nextTag }
    ops := x.ops ++ [{ o with tag := x.nextTag, born := 4 * now + x.quarter, late := x.faulted, clk := x.clk }]
    clk := if isRelease o.i then x.clk + 1 else x.clk
    nextTag := x.nextTag + 1 }

/-- An operation of the word `i` at the word's place, of these lanes. -/
def opOf (c : Cursor) (i : Instr) (lanes : DWord) : Op := { tag := 0, pc := c.pc, slot := c.slot, i := i, lanes := lanes }

/-- `s` after the gang of the word that issues has started `o`. -/
def State.starting (s : State) (c : Cursor) (o : Op) (regs : List PReg) : State :=
  s.modGang c.gang fun x => x.owing s.now o regs o.lanes

/-- Gang `g` stands as `x`, and every other gang as before. -/
def GangOnly (s t : State) (g : Nat) (x : Gang) : Prop := t.gang g = x ∧ ∀ j, j ≠ g → t.gang j = s.gang j

/-- `s` after it has taken the next lag of the environment (01 R477). -/
def State.lagged (s : State) : State := { s with lag := s.lag.tail }

/-- A release at CORE or wider sends the dirty LEASE bytes of its core's L1 to their homes when it issues (10 R294). -/
def State.flushedFor (s : State) (c : Cursor) (i : Instr) : State :=
  if flushes i then s.flushCore (s.gangOf c).core else s

/-- The word owes the results `ws` to the registers `regs`: they are pending, and the result, which takes a log entry, arrives one cycle and
the next lag of the environment after now; the operation records the operand `x` (01 R41, R45, R477). -/
def Owes (i : Instr) (regs : List PReg) (ws : State → Cursor → List Write) (x : State → Cursor → DWord := fun _ _ => 0) : Prop :=
  Completes i fun s c t =>
    t = s.lagged.setGang c.gang
      { (s.gangOf c).owing s.now { opOf c i (BitVec.allOnes 64) with logged := true, x := x s c } regs (BitVec.allOnes 64) with
        arr := (s.gangOf c).arr ++ [(s.now + 1 + s.lag.headD 0, (s.gangOf c).nextTag, ws s c)] }

/-- A status word, whose value is taken when the word is performed: when its result arrives, register `d` gets `v` of the moment and of the
word's recorded operand (06 R196; 07 R215, R229). -/
def ArrivesAs (i : Instr) (d : SReg) (v : State → Nat → DWord → DWord) : Prop :=
  ∀ (s : State) (g tag due : Nat) (o : Op), (s.gang g).arrival s.now = some (due, tag, []) → s.op? g tag = some o → o.i = i →
    ∃ t, exec (.variableResultArrival g) s = .next t ∧ ∀ r, (t.gang g).sreg r = if r = d.val then v s g o.x else (s.gang g).sreg r

/-- A memory word: with an active lane it records each lane's 80-bit address and data, its destination is pending in those lanes, and
its accesses are made from 20 cycles on; with no active lane it does nothing (06 R161 to R164; 08 R252). -/
def AccessesMemory (i : Instr) (logged : Bool) (addr : State → Cursor → Nat → Addr) (data : State → Cursor → Nat → Nat × Nat)
    (regs : List PReg) : Prop :=
  Completes i fun s c t =>
    (s.lanes c = [] → t = s) ∧
    (s.lanes c ≠ [] →
      t = (s.lagged.flushedFor c i).starting c
        { opOf c i (laneBits (s.lanes c)) with
          acc := (s.lanes c).map fun l => { lane := l, addr := (addr s c l).toNat, data := (data s c l).1, data2 := (data s c l).2 }
          logged := logged
          due := s.now + 20 + s.lag.headD 0
          y := BitVec.ofNat 64 (s.gangOf c).nextSeq } regs)

/-- Little-endian bytes of a crew's window, as a number. -/
def State.windowNat (s : State) (u off n : Nat) : Nat := leNat ((List.range n).map fun k => s.vaultRead u (off + k))

/-- A word of the barrier, event and group kind starts as an operation with its recorded operand; its S destination is pending
(06 R164, R180).  `acks` is 1 for an arrival that counts, whose release is under way. -/
def State.syncing (s : State) (c : Cursor) (i : Instr) (regs : List PReg) (x : DWord) (acks : Nat := 0) : State :=
  (s.flushedFor c i).starting c
    { opOf c i (BitVec.allOnes 64) with
      x := x, y := BitVec.ofNat 64 (s.gangOf c).nextSeq, logged := !regs.isEmpty, due := s.now, acks := acks } regs

/-! ## Values of floating-point codes -/

/-- The exact value of a finite number; 0 for the others. -/
def FNum.val : FNum → ℚ
  | .fin neg m e => (if neg then -1 else 1) * m * 2 ^ e
  | .nan _ => 0
  | .inf _ => 0

/-- `n × 2 ^ q` is the multiple of `2 ^ q` that mode `rm` takes for the magnitude `v` of a number of sign `neg` (02 R55). -/
def Nearest (rm : Nat) (neg : Bool) (v : ℝ) (q : Int) (n : Nat) : Prop :=
  let u : ℝ := 2 ^ q
  let below : Prop := n * u ≤ v ∧ v < n * u + u
  let above : Prop := v ≤ n * u ∧ n * u < v + u
  match rm with
  | 0 => |n * u - v| ≤ u / 2 ∧ (|n * u - v| = u / 2 → n % 2 = 0)
  | 1 => below
  | 2 => if neg then below else above
  | 3 => if neg then above else below
  | _ => |n * u - v| ≤ u / 2 ∧ (|n * u - v| = u / 2 → v < n * u)

/-- `r` is the code and the flags of the number of sign `neg` and magnitude `v` rounded to a format (02 R54, R56): tiny results on the subnormal
grid, or a zero where they are flushed; overflow; else the rounded value. -/
def Rounded (f : FFmt) (rm : Nat) (sat ftz neg : Bool) (v : ℝ) (r : Nat × BitVec 7) : Prop :=
  ∃ (q : Int) (n : Nat), (2 : ℝ) ^ (q + f.mw) ≤ v ∧ v < 2 ^ (q + f.mw + 1) ∧ Nearest rm neg v q n ∧
    let x : ℝ := n * 2 ^ q
    let least : ℝ := 2 ^ (1 - (f.bias : Int))
    let most : ℝ := ((f.read f.maxc).val : ℚ)
    let grid : Int := 1 - (f.bias : Int) - f.mw
    (x < least → ftz = true → r = (f.signed neg 0, flUF ||| flIX)) ∧
    (x < least → ftz = false → ∃ k : Nat, Nearest rm neg v grid k ∧ r.1 = f.signed neg k ∧
      (k * (2 : ℝ) ^ grid = v → r.2 = 0) ∧ (k * (2 : ℝ) ^ grid ≠ v → r.2 = flUF ||| flIX)) ∧
    (most < x → r = (if overflowInf rm neg then (f.infinite sat neg).1 else f.signed neg f.maxc, flOF ||| flIX)) ∧
    (least ≤ x → x ≤ most → r.1 < 2 * f.sbit ∧ (∃ m e, f.read r.1 = .fin neg m e ∧ m * (2 : ℝ) ^ e = x) ∧
      (x = v → r.2 = 0) ∧ (x ≠ v → r.2 = flIX))

/-! ## Steps of the pipeline, of the engines and of the outside -/

/-- `t` has, beside the messages of `s`, a write of the management core on its way, of 32 bytes at `pa`, which as little-endian words are `w`
and which the register of `d` counts (19 R444; 20 R468). -/
def RingWrites (s t : State) (pa : Nat) (d : Counted) (w : List Nat) : Prop :=
  ∃ m, t.net = s.net ++ [m] ∧ m.code = mNC ∧ m.src = .mgmt ∧ m.dst = .home (lineHome (pa / 128)) ∧ m.line = pa / 128 ∧ m.write = true ∧
    m.done = d ∧ (∀ k, k < 128 → m.mask.getLsbD k = (decide (pa % 128 ≤ k) && decide (k < pa % 128 + 32))) ∧
    (List.range 4).map (fun k => leNat ((m.data.drop (pa % 128 + 8 * k)).take 8)) = w ∧
    ∀ k, k < 32 → ∃ r : Rel, Sparse.get [] m.rels (pa % 128 + k) = [r] ∧ r.scope = .host

/-- In every state with `P` the step `i` completes, with a next state that `R` describes. -/
def Happens (i : Instr) (P : State → Prop) (R : State → State → Prop) : Prop :=
  ∀ s, P s → ∃ t, exec i s = .next t ∧ R s t

/-- The numbers of a crew's copies are below the next one, and no two are equal. -/
def Crew.numbered (cr : Crew) : Prop := (cr.copies.map (·.id)).Nodup ∧ ∀ p ∈ cr.copies, p.id < cr.nextCopy

/-- A write of the management core to a line of device memory is performed at once (10 R285): the line is free, of MOESI-INV, and no agent holds it. -/
def State.writesAtOnce (s : State) (ln : Nat) : Prop :=
  s.mgmtFree ln = true ∧ s.kind (s.range ln).slot = .owned ∧ (s.hline ln).st = 8 ∧ (s.hline ln).rcl = 0 ∧ (s.hline ln).frozen = false

/-- An engine's access at a virtual address reaches a physical address at once (10 R285; 12 R335; 16 R392): the L2 TLB translates it, the line is free, of
MOESI-INV, and no agent holds it, and neither the line nor the engine's path has an error. -/
def State.engAtOnce (s : State) (k : EngCtx) (need va pa : Nat) : Prop :=
  let ln := pa / 128
  let l := s.hline ln
  k.refused = [] ∧ k.check = none ∧ s.xlate2 (k.core / 48) k.tenant va need = some pa ∧ pa % 128 = va % 128 ∧ isHost pa = false ∧
    s.lineChanging ln = false ∧ (∀ q ∈ (s.home (lineHome ln)).stalled, q.line ≠ ln) ∧ l.freeAt ≤ s.now ∧ l.hold ≤ s.now ∧ s.readyFor ln = [] ∧
    s.kind (s.range ln).slot = .owned ∧ l.st = 8 ∧ l.rcl = 0 ∧ l.frozen = false ∧ l.owner = none ∧
    (∀ b ∈ s.life.badMem, b / 2 ≠ ln) ∧ k.who.key ∉ s.life.paths

/-- The gangs that a borrow of a core holds have their registers listed once and within their sizes, each at its own place in its quarter's register
file (01 R28), and the spill area of the core is clear. -/
def State.victimsApart (s : State) (c : Nat) : Prop :=
  Sparse.wf {} s.gangs = true ∧ (∀ b ∈ (s.core c).vault, b.1 < 3670016) ∧
    (∀ p ∈ s.victims c, Sparse.wf 0 p.2.v = true ∧ (∀ e ∈ p.2.v, e.1 / 64 < p.2.nv ∧ e.1 % 64 < p.2.width) ∧ p.2.width ≤ 64 ∧
      p.2.quarter < 4 ∧ p.2.rbase + 4 * p.2.nv * p.2.width ≤ 131072) ∧
    ∀ p ∈ s.victims c, ∀ q ∈ s.victims c, p.1 ≠ q.1 → p.2.quarter = q.2.quarter →
      p.2.rbase + 4 * p.2.nv * p.2.width ≤ q.2.rbase ∨ q.2.rbase + 4 * q.2.nv * q.2.width ≤ p.2.rbase

/-- The bytes of the V registers of a gang stand in the spill area of its core (16 R400, R401). -/
def State.regsSpilled (s : State) (c : Nat) (place regs : Gang) : Prop :=
  ∀ r l k, r < regs.nv → l < regs.width → k < 4 →
    Sparse.get 0 (s.core c).vault (place.spillAt r l + k) = (regs.vreg r l).extractLsb' (8 * k) 8

/-- Message `n` of the net, of class `code`, has arrived at the home of its line, whose range uses the table of `slot` (10 R276, R280, R281). -/
def AtHome (s : State) (n : Nat) (m : Msg) (code slot : Nat) : Prop :=
  s.net[n]? = some m ∧ m.due ≤ s.now ∧ m.dst = .home (lineHome m.line) ∧ s.classify m = code ∧ (s.range m.line).slot = slot

end Sys2Proof.Machine
end

