-- ==== Sys2Proof/Certificates/Slice0/Obligations.lean ====
section
/-! DEFINITION. The statements for the provers. -/

open Sys2Proof Sys2Proof.Machine

/-- 04 R101, 02 R59: IADD and ISUB give the sum and the difference modulo 2^32 or 2^64, and set IOV in a lane of a signed form whose exact
result lies outside the range. 04 R101: IMIN, IMAX, IABS and INEG. -/
def Obligations.IntegerSumsAndExtremes : Prop :=
  (
    ∀ (ty : IntTy) (d : VReg) (a b : Src),
      (ty.wide = false →
        VectorValue (.iadd ty d a b) 2 d.val (fun s c l => s.readI c a l + s.readI c b l)
          (fun s c l => if ty.signed && BitVec.saddOverflow (s.readI c a l) (s.readI c b l) then flIOV else 0) ∧
        VectorValue (.isub ty d a b) 2 d.val (fun s c l => s.readI c a l - s.readI c b l)
          (fun s c l => if ty.signed && BitVec.ssubOverflow (s.readI c a l) (s.readI c b l) then flIOV else 0)) ∧
      (ty.wide = true →
        PairValue (.iadd ty d a b) 2 d.val (fun s c l => s.readD c ty.signed a l + s.readD c ty.signed b l)
          (fun s c l => if ty.signed && BitVec.saddOverflow (s.readD c ty.signed a l) (s.readD c ty.signed b l) then flIOV else 0) ∧
        PairValue (.isub ty d a b) 2 d.val (fun s c l => s.readD c ty.signed a l - s.readD c ty.signed b l)
          (fun s c l => if ty.signed && BitVec.ssubOverflow (s.readD c ty.signed a l) (s.readD c ty.signed b l) then flIOV else 0))
  ) ∧
  (
    ∀ (uns : Bool) (d : VReg) (a b : Src),
      let below (x y : Word) : Bool := if uns then x.ult y else x.slt y
      VectorResult (.imin uns d a b) 2 d.val (fun s c l r f =>
        (r = s.readI c a l ∨ r = s.readI c b l) ∧ below (s.readI c a l) r = false ∧ below (s.readI c b l) r = false ∧ f = 0) ∧
      VectorResult (.imax uns d a b) 2 d.val (fun s c l r f =>
        (r = s.readI c a l ∨ r = s.readI c b l) ∧ below r (s.readI c a l) = false ∧ below r (s.readI c b l) = false ∧ f = 0) ∧
      VectorResult (.iabs d a) 2 d.val (fun s c l r f =>
        (s.readI c a l = 0x80000000 → r = 0x80000000 ∧ f = flIOV) ∧
        (s.readI c a l ≠ 0x80000000 → r.toInt = ((s.readI c a l).toInt.natAbs : Int) ∧ f = 0)) ∧
      VectorResult (.ineg d a) 2 d.val (fun s c l r f =>
        (s.readI c a l = 0x80000000 → r = 0x80000000 ∧ f = flIOV) ∧
        (s.readI c a l ≠ 0x80000000 → r.toInt = -(s.readI c a l).toInt ∧ f = 0))
  )

/-- 04 R101: IMUL and IMAD; the high half of IMUL is bits [63:32] of the 64-bit product and sets no flag. -/
def Obligations.MultiplyGivesLowOrHighHalf : Prop :=
  ∀ (uns : Bool) (d : VReg) (a b : Src),
    VectorValue (.imul false uns d a b) 4 d.val (fun s c l => s.readI c a l * s.readI c b l)
      (fun s c l => if !uns && BitVec.smulOverflow (s.readI c a l) (s.readI c b l) then flIOV else 0) ∧
    VectorValue (.imul true uns d a b) 4 d.val
      (fun s c l => if uns then ((s.readI c a l).setWidth 64 * (s.readI c b l).setWidth 64).extractLsb' 32 32
        else ((s.readI c a l).signExtend 64 * (s.readI c b l).signExtend 64).extractLsb' 32 32) noFlags ∧
    VectorValue (.imad uns d a b) 4 d.val (fun s c l => s.readI c a l * s.readI c b l + (s.gangOf c).vreg d.val l)
      (fun s c l =>
        let x : Int := (s.readI c a l).toInt * (s.readI c b l).toInt + ((s.gangOf c).vreg d.val l).toInt
        if !uns && (decide (x < -2147483648) || decide (2147483647 < x)) then flIOV else 0)

/-- 02 R60: IDIV truncates toward zero, IREM has the sign of the dividend, and the table's edge cases. -/
def Obligations.DivisionTruncatesWithListedEdgeCases : Prop :=
  ∀ (uns : Bool) (d : VReg) (a b : Src),
    let flags (s : State) (c : Cursor) (l : Nat) : BitVec 7 :=
      if s.readI c b l = 0 then flIDZ
      else if uns = false ∧ s.readI c a l = 0x80000000 ∧ s.readI c b l = 0xFFFFFFFF then flIOV else 0
    VectorValue (.idiv uns d a b) 24 d.val
      (fun s c l => if s.readI c b l = 0 then 0xFFFFFFFF
        else if uns then (s.readI c a l).udiv (s.readI c b l) else (s.readI c a l).sdiv (s.readI c b l)) flags ∧
    VectorValue (.irem uns d a b) 24 d.val
      (fun s c l => if s.readI c b l = 0 then s.readI c a l
        else if uns then (s.readI c a l).umod (s.readI c b l) else (s.readI c a l).srem (s.readI c b l)) flags

/-- 04 R105: the logic and bit words, bit by bit; none sets a flag. 04 R104, R108: SEL, MOV and MOVI copy bit patterns. 03 R79, R81, R82; 01 R18;
04 R99, R110: what an operand of each code reads, as a 32-bit or a 64-bit operand of a lane and as a scalar: V and S registers, the specials,
the literals, and the inline constants in each type. That a scalar reads LANE and SLICEID of the lowest lane of its subgang's lowest slice is the
model's choice (log entry 3). -/
def Obligations.LogicBitsSelectsAndMoves : Prop :=
  (
    ∀ (s : State) (c : Cursor) (x : Src) (l : Nat),
      let n := x.code
      let g := s.gangOf c
      let cr := s.crew g.crew
      let w6 : DWord := ((s.launch cr.lent).words[6]?).getD 0
      let gx := (w6.extractLsb' 16 16).toNat
      let gy := (w6.extractLsb' 32 16).toNat
      let sp (lane : Nat) : Nat :=
        if n = 112 then lane else if n = 113 then lane / 4 else if n = 114 then g.gid else if n = 115 then cr.idx
        else if n = 116 then cr.idx % gx else if n = 117 then cr.idx / gx % gy else if n = 118 then cr.idx / (gx * gy) else s.now
      let low := 4 * (c.slices.headD 0)
      let word (cst : List Word) : Word :=
        if n < 96 then g.vreg n l else if n < 112 then (g.sreg (n - 96)).setWidth 32 else if n < 120 then BitVec.ofNat 32 (sp l)
        else if n = 120 then c.raw else if n = 121 then c.lit else (cst[n - 122]?).getD 0
      let int : DWord := if n = 123 then 1 else if n = 124 then -1 else if n = 125 then 2 else 0
      s.readI c x l = word [0, 1, 0xFFFFFFFF, 2] ∧
      s.readW c Inline.f32 x l = word [0, 0x3F800000, 0xBF800000, 0x40000000, 0x3F000000, 0xBF000000] ∧
      s.readW c Inline.f16 x l = word [0, 0x3C003C00, 0xBC00BC00, 0x40004000, 0x38003800, 0xB800B800] ∧
      s.readW c Inline.bf16 x l = word [0, 0x3F803F80, 0xBF80BF80, 0x40004000, 0x3F003F00, 0xBF00BF00] ∧
      s.readW c Inline.e4m3 x l = word [0, 0x38383838, 0xB8B8B8B8, 0x40404040, 0x30303030, 0xB0B0B0B0] ∧
      s.readW c Inline.e5m2 x l = word [0, 0x3C3C3C3C, 0xBCBCBCBC, 0x40404040, 0x38383838, 0xB8B8B8B8] ∧
      s.readW c Inline.i8 x l = word [0, 0x01010101, 0xFFFFFFFF, 0x02020202] ∧
      (∀ sgn, s.readD c sgn x l =
        if n < 96 then g.vreg (n + 1) l ++ g.vreg n l else if n < 112 then g.sreg (n - 96)
        else if n < 120 then (BitVec.ofNat 32 (sp l)).setWidth 64
        else if n < 122 then (let k := if n = 120 then c.raw else c.lit; if sgn then k.signExtend 64 else k.setWidth 64) else int) ∧
      (96 ≤ n → s.readS c x =
        if n < 112 then g.sreg (n - 96) else if n < 120 then BitVec.ofNat 64 (sp low)
        else if n = 120 then c.raw.signExtend 64 else if n = 121 then c.lit.signExtend 64 else int) ∧
      (96 ≤ n → s.readO c x =
        if n < 112 then g.sreg (n - 96) else if n < 120 then BitVec.ofNat 64 (sp low)
        else if n = 120 then c.raw.setWidth 64 else if n = 121 then c.lit.setWidth 64 else int)
  ) ∧
  (
    ∀ (d : VReg) (a b : Src),
      let bitwise (i : Instr) (op : Bool → Bool → Bool) : Prop := VectorResult i 2 d.val fun s c l r f =>
        f = 0 ∧ ∀ j, j < 32 → r.getLsbD j = op ((s.readI c a l).getLsbD j) ((s.readI c b l).getLsbD j)
      let counting (i : Instr) (P : Word → Nat → Prop) : Prop := VectorResult i 2 d.val fun s c l r f =>
        f = 0 ∧ P (s.readI c a l) r.toNat
      bitwise (.and d a b) (fun x y => x && y) ∧
      bitwise (.or d a b) (fun x y => x || y) ∧
      bitwise (.xor d a b) (fun x y => x != y) ∧
      bitwise (.andn d a b) (fun x y => x && !y) ∧
      bitwise (.not d a) (fun x _ => !x) ∧
      counting (.popc d a) (fun x n => n = ((Finset.range 32).filter fun j => x.getLsbD j = true).card) ∧
      counting (.clz d a) (fun x n => (x = 0 → n = 32) ∧
        (x ≠ 0 → n < 32 ∧ x.getLsbD (31 - n) = true ∧ ∀ j, 31 - n < j → x.getLsbD j = false)) ∧
      counting (.ctz d a) (fun x n => (x = 0 → n = 32) ∧
        (x ≠ 0 → n < 32 ∧ x.getLsbD n = true ∧ ∀ j, j < n → x.getLsbD j = false)) ∧
      VectorResult (.brev d a) 2 d.val (fun s c l r f => f = 0 ∧ ∀ j, j < 32 → r.getLsbD j = (s.readI c a l).getLsbD (31 - j))
  ) ∧
  (
    ∀ (k : Fin 4) (d : VReg) (a b : Src) (imm : BitVec 16),
      VectorValue (.sel k d a b) 2 d.val
        (fun s c l => if ((s.gangOf c).kreg k.val).getLsbD l then s.readI c a l else s.readI c b l) noFlags ∧
      VectorValue (.mov false d a) 2 d.val (fun s c l => s.readI c a l) noFlags ∧
      PairValue (.mov true d a) 2 d.val (fun s c l => s.readD c false a l) noFlags ∧
      VectorValue (.movi d imm) 2 d.val (fun _ _ _ => imm.signExtend 32) noFlags
  )

/-- 04 R106: the shift count is the whole operand, taken as unsigned; no shift sets a flag. The words are 0x0C with T 0 to 3; an operand field
that 03 R80 and 04 R99 do not admit makes the word undefined. -/
def Obligations.ShiftsUseTheWholeCount : Prop :=
  ∀ (d : VReg) (a b : Src),
    let shifts (i : Instr) (P : Word → Nat → Nat → Bool) : Prop := VectorResult i 2 d.val fun s c l r f =>
      f = 0 ∧ ∀ j, j < 32 → r.getLsbD j = P (s.readI c a l) (s.readI c b l).toNat j
    shifts (.shl d a b) (fun x n j => decide (n ≤ j) && x.getLsbD (j - n)) ∧
    shifts (.shr d a b) (fun x n j => x.getLsbD (j + n)) ∧
    shifts (.sar d a b) (fun x n j => x.getLsbD (min 31 (j + n))) ∧
    shifts (.rot d a b) (fun x n j => x.getLsbD ((j + 32 - n % 32) % 32)) ∧
    let coded (n : Nat) (i : Instr) : Prop :=
      let w := decodeWord (0x0C * 2 ^ 23 + d.val * 2 ^ 16 + a.code * 2 ^ 9 + b.code * 2 ^ 2 + n)
      (i.wf = true → w = .ok i) ∧ (i.wf = false → ∃ e, w = .error e)
    coded 0 (.shl d a b) ∧ coded 1 (.shr d a b) ∧ coded 2 (.sar d a b) ∧ coded 3 (.rot d a b)

/-- 04 R107: BFE extracts and BFI inserts the field of `len` bits at `pos`, cut at bit 31. The words are 0x0D with T 0 to 2; T 3, or an operand
field that 03 R80 and 04 R99 do not admit, makes the word undefined. -/
def Obligations.BitFieldExtractAndInsert : Prop :=
  ∀ (sgn : Bool) (d : VReg) (a b : Src),
    let pos (s : State) (c : Cursor) (l : Nat) : Nat := (s.readI c b l).toNat % 256
    let len (s : State) (c : Cursor) (l : Nat) : Nat := (s.readI c b l).toNat / 256 % 256
    VectorResult (.bfe sgn d a b) 2 d.val (fun s c l r f => f = 0 ∧
      ((32 ≤ pos s c l ∨ len s c l = 0) → r = 0) ∧
      (pos s c l < 32 → 0 < len s c l → ∀ j, j < 32 → r.getLsbD j =
        if j < min (len s c l) (32 - pos s c l) then (s.readI c a l).getLsbD (pos s c l + j)
        else sgn && (s.readI c a l).getLsbD (pos s c l + min (len s c l) (32 - pos s c l) - 1))) ∧
    VectorResult (.bfi d a b) 2 d.val (fun s c l r f => f = 0 ∧ ∀ j, j < 32 → r.getLsbD j =
      if pos s c l ≤ j ∧ j < pos s c l + len s c l then (s.readI c a l).getLsbD (j - pos s c l)
      else ((s.gangOf c).vreg d.val l).getLsbD j) ∧
    let word (n : Nat) := decodeWord (0x0D * 2 ^ 23 + d.val * 2 ^ 16 + a.code * 2 ^ 9 + b.code * 2 ^ 2 + n)
    let coded (n : Nat) (i : Instr) : Prop := (i.wf = true → word n = .ok i) ∧ (i.wf = false → ∃ e, word n = .error e)
    coded 0 (.bfe false d a b) ∧ coded 1 (.bfe true d a b) ∧ coded 2 (.bfi d a b) ∧ ∃ e, word 3 = .error e

/-- 04 R103, 05 R138, R156, R157: the words that replace a whole K register; FCMP compares by value, with −0 equal to +0, and answers false with
a NaN but for NE and UNORD; IV for a signalling NaN, and for any NaN in LT, LE, GT and GE. -/
def Obligations.CompareAndVoteReplaceTheMask : Prop :=
  (∀ (cc : Cond) (x y : FNum),
    let below (x y : FNum) : Prop := match x, y with
      | .inf p, .inf q => p = true ∧ q = false
      | .inf p, .fin _ _ _ => p = true
      | .fin _ _ _, .inf q => q = false
      | .fin _ _ _, .fin _ _ _ => x.val < y.val
      | _, _ => False
    let holds : Prop := match cc with
      | .eq => ¬ below x y ∧ ¬ below y x
      | .ne => below x y ∨ below y x
      | .lt => below x y
      | .le => ¬ below y x
      | .gt => below y x
      | .ge => ¬ below x y
      | .ord => True
      | .unord => False
    (x.isNan = false → y.isNan = false → ((fcmpNum cc x y).1 = true ↔ holds) ∧ (fcmpNum cc x y).2 = 0) ∧
    (x.isNan = true ∨ y.isNan = true → ((fcmpNum cc x y).1 = true ↔ cc = .ne ∨ cc = .unord) ∧
      (fcmpNum cc x y).2 = if cc = .lt ∨ cc = .le ∨ cc = .gt ∨ cc = .ge ∨ x.sig = true ∨ y.sig = true then flIV else 0)) ∧
  ∀ (k : KReg) (a b : Src) (va : VReg) (cc : Cond) (ty : IntTy) (x : Bool),
    (ty.wide = false → MaskResult (.icmp cc ty k a b) 2 k.val
      (fun s c l => if ty.signed then cmpI cc (s.readI c a l).toInt (s.readI c b l).toInt
        else cmpI cc (s.readI c a l).toNat (s.readI c b l).toNat) (fun _ _ => 0)) ∧
    (ty.wide = true → MaskResult (.icmp cc ty k a b) 2 k.val
      (fun s c l => if ty.signed then cmpI cc (s.readD c true a l).toInt (s.readD c true b l).toInt
        else cmpI cc (s.readD c false a l).toNat (s.readD c false b l).toNat) (fun _ _ => 0)) ∧
    MaskResult (.fcmp x cc k a b) 4 k.val
      (fun s c l => (fcmpNum cc (fF32.read (s.fpA c (c.ctlOf x) a l)) (fF32.read (s.fpB c (c.ctlOf x) b l))).1)
      (fun s c => orFlags ((s.lanes c).map fun l =>
        (fcmpNum cc (fF32.read (s.fpA c (c.ctlOf x) a l)) (fF32.read (s.fpB c (c.ctlOf x) b l))).2)) ∧
    MaskResult (.ballot k va) 3 k.val (fun s c l => (s.gangOf c).vreg va.val l != 0) (fun _ _ => 0) ∧
    MaskResult (.vote .any k va) 3 k.val (fun s c _ => (s.lanes c).any fun j => (s.gangOf c).vreg va.val j != 0)
      (fun _ _ => 0) ∧
    MaskResult (.vote .all k va) 3 k.val (fun s c _ => !((s.lanes c).any fun j => (s.gangOf c).vreg va.val j == 0))
      (fun _ _ => 0) ∧
    MaskResult (.vote .eq k va) 3 k.val
      (fun s c _ => (s.lanes c).all fun i => (s.lanes c).all fun j => (s.gangOf c).vreg va.val i == (s.gangOf c).vreg va.val j)
      (fun _ _ => 0)

/-- 04 R110, R111: the scalar words compute modulo 2^64, execute whatever EXEC holds and set no flag. 04 R109, R112 to R114: MOVS, and the
address words modulo 2^80. 04 R115 to R117, 01 R36: the mask words, SETX, whose masks cannot name a lane held on a stack or beyond the
gang, and GETX, which reads the lane masks of every live slice. -/
def Obligations.ScalarAddressAndMaskWords : Prop :=
  (
    ∀ (d : SReg) (a b : Src),
      let gives (i : Instr) (lat : Nat) (f : DWord → DWord → DWord) : Prop :=
        WholeResult i lat fun s c => .s d.val (f (s.readS c a) (s.readS c b))
      gives (.sadd d a b) 1 (fun x y => BitVec.ofNat 64 (x.toNat + y.toNat)) ∧
      gives (.ssub d a b) 1 (fun x y => BitVec.ofInt 64 ((x.toNat : Int) - y.toNat)) ∧
      gives (.sand d a b) 1 (fun x y => x &&& y) ∧
      gives (.sor d a b) 1 (fun x y => x ||| y) ∧
      gives (.sshl d a b) 1 (fun x y => BitVec.ofNat 64 (x.toNat * 2 ^ y.toNat)) ∧
      gives (.sshr d a b) 1 (fun x y => BitVec.ofNat 64 (x.toNat / 2 ^ y.toNat)) ∧
      gives (.smul d a b) 3 (fun x y => BitVec.ofNat 64 (x.toNat * y.toNat)) ∧
      gives (.scmp .eq d a b) 1 (fun x y => if x.toNat = y.toNat then 1 else 0) ∧
      gives (.scmp .ne d a b) 1 (fun x y => if x.toNat = y.toNat then 0 else 1) ∧
      gives (.scmp .ltS d a b) 1 (fun x y => if x.toInt < y.toInt then 1 else 0) ∧
      gives (.scmp .ltU d a b) 1 (fun x y => if x.toNat < y.toNat then 1 else 0)
  ) ∧
  (
    ∀ (sd : SReg) (vd va : VReg) (sa : SReg) (ad aa : AReg) (b : Src) (n : Fin 5),
      (∀ s c, Issues s c (.movs (.toS sd va)) → ∃ t, exec (.movs (.toS sd va)) s = .next t ∧
        (∀ l, (s.lanes c).head? = some l → InFlight s t c.gang 3 [.s sd.val (((s.gangOf c).vreg va.val l).setWidth 64)] 0) ∧
        (s.lanes c = [] → t = s)) ∧
      HasResult (.movs (.toV vd sa)) (fun _ _ => 3)
        (fun s c => [.v vd.val ((s.lanes c).map fun l => (l, ((s.gangOf c).sreg sa.val).setWidth 32))]) (fun _ _ => 0) ∧
      WholeResult (.adda ad aa b) 2 (fun s c => .a ad.val (BitVec.ofInt 80 (((s.gangOf c).areg aa.val).toInt + (s.readS c b).toInt))) ∧
      WholeResult (.lea n ad aa b) 2
        (fun s c => .a ad.val (BitVec.ofInt 80 (((s.gangOf c).areg aa.val).toInt + (s.readS c b).toInt * 2 ^ n.val))) ∧
      WholeResult (.mova (.a ad aa b)) 2
        (fun s c => .a ad.val (BitVec.ofNat 80 (((s.gangOf c).areg aa.val).toNat / 2 ^ 64 * 2 ^ 64 + (s.readS c b).toNat))) ∧
      WholeResult (.mova (.lo sd aa)) 2 (fun s c => .s sd.val (BitVec.ofNat 64 (((s.gangOf c).areg aa.val).toNat % 2 ^ 64))) ∧
      WholeResult (.mova (.hi sd aa)) 2 (fun s c => .s sd.val (BitVec.ofNat 64 (((s.gangOf c).areg aa.val).toNat / 2 ^ 64)))
  ) ∧
  (
    ∀ (d a b : KReg) (sd : SReg),
      let mask (i : Instr) (P : State → Cursor → Nat → Bool) : Prop :=
        Completes i fun s c t => ∃ m : DWord, (∀ l, l < 64 → m.getLsbD l = P s c l) ∧ InFlight s t c.gang 1 [.k d.val m] 0
      mask (.kand d a b) (fun s c l => ((s.gangOf c).kreg a.val).getLsbD l && ((s.gangOf c).kreg b.val).getLsbD l) ∧
      mask (.kor d a b) (fun s c l => ((s.gangOf c).kreg a.val).getLsbD l || ((s.gangOf c).kreg b.val).getLsbD l) ∧
      mask (.knot d a) (fun s c l => decide (l < (s.gangOf c).width) && !((s.gangOf c).kreg a.val).getLsbD l) ∧
      mask (.getx d) (fun s c l =>
        (sliceAt (s.gangOf c).slices (l / 4)).live && (sliceAt (s.gangOf c).slices (l / 4)).mask.getLsbD (l % 4)) ∧
      WholeResult (.kpop sd a) 1 (fun s c =>
        .s sd.val (BitVec.ofNat 64 ((Finset.range 64).filter fun j => ((s.gangOf c).kreg a.val).getLsbD j = true).card)) ∧
      Completes (.setx a) (fun s c t => ∃ m : Nat → BitVec 4,
        (∀ k j, k < 16 → j < 4 → (m k).getLsbD j =
          (((s.gangOf c).kreg a.val).getLsbD (4 * k + j) && decide (4 * k + j < (s.gangOf c).width) &&
            !((sliceAt (s.gangOf c).slices k).stack.any fun e => e.2.getLsbD j))) ∧
        InFlight s t c.gang 1 [.exec (c.slices.map fun k => (k, m k))] 0)
  )

/-- 04 R118, R121 to R124: the branches act when the packet ends, with the slice's own decision for BRK .nz and .z and one decision for the
subgang for the others, on operands read at issue.  That a BRK decides by the lanes that are active when it takes effect is the model's
choice (log entry 5). -/
def Obligations.BranchesMoveTheSlicesOfTheSubgang : Prop :=
  ∀ (o20 : BitVec 20) (o16 : BitVec 16) (k : KReg) (sa : SReg) (aa : AReg),
    let goTo (s : State) (q : Slice) (p : PAddr) : Slice := q.taken s.now p
    let next (q : Slice) : Slice := { q with pc := q.pc + 1 }
    let target (c : Cursor) : PAddr := c.pc + BitVec.ofInt 76 o16.toInt
    let kbits (s : State) (c : Cursor) (n : Nat) : BitVec 4 := (((s.gangOf c).kreg k.val) >>> (4 * n)).setWidth 4
    let split (s : State) (c : Cursor) (q : Slice) (t : BitVec 4) : Slice :=
      if q.mask ≠ 0 ∧ t = q.mask then goTo s q (target c)
      else if t = 0 then next q
      else { goTo s q (target c) with mask := t, stack := (q.pc + 1, q.mask &&& ~~~t) :: q.stack }
    let once (P : State → Cursor → DWord → Prop) [∀ s c m, Decidable (P s c m)] (s : State) (c : Cursor) (act : DWord) (_ : Nat) (q : Slice) :
        Slice := if P s c act then goTo s q (target c) else next q
    let v (s : State) (c : Cursor) : Int := ((s.gangOf c).sreg sa.val).toInt
    Steers (.br o20) (fun s c _ _ q => goTo s q (c.pc + BitVec.ofInt 76 o20.toInt)) ∧
    Steers (.brk .nz k o16) (fun s c _ n q => split s c q (q.mask &&& kbits s c n)) ∧
    Steers (.brk .z k o16) (fun s c _ n q => split s c q (q.mask &&& ~~~(kbits s c n))) ∧
    Steers (.brk .any k o16) (once fun s c act => ∃ l ∈ List.range 64, act.getLsbD l = true ∧ ((s.gangOf c).kreg k.val).getLsbD l = true) ∧
    Steers (.brk .all k o16) (once fun s c act => ∀ l ∈ List.range 64, act.getLsbD l = true → ((s.gangOf c).kreg k.val).getLsbD l = true) ∧
    Steers (.brs .z sa o16) (once fun s c _ => v s c = 0) ∧
    Steers (.brs .nz sa o16) (once fun s c _ => v s c ≠ 0) ∧
    Steers (.brs .ltz sa o16) (once fun s c _ => v s c < 0) ∧
    Steers (.brs .gez sa o16) (once fun s c _ => 0 ≤ v s c) ∧
    Steers (.brs .gtz sa o16) (once fun s c _ => 0 < v s c) ∧
    Steers (.brs .lez sa o16) (once fun s c _ => v s c ≤ 0) ∧
    Steers (.jmp aa) (fun s c _ _ q => goTo s q (((s.gangOf c).areg aa.val).extractLsb' 4 76)) ∧
    Steers (.ret aa) (fun s c _ _ q => goTo s q (((s.gangOf c).areg aa.val).extractLsb' 4 76))

/-- 04 R124, R125: CALL reads its target before it writes its link, the address of the packet after its own, in all 80 bits; the link is
pending until it arrives one cycle later. 04 R127 to R132: loops, JOIN, REGANG, YIELD and EXIT in each slice of the subgang. 04 R118, R130,
R132; 07 R234: what the control word recorded happens to the live slices of the subgang when the last chain group of the packet has issued,
with the lane masks of that time, which is the model's choice (log entry 5); the slices at the lowest REGANG go on once every live slice waits;
END ends every slice; a YIELD keeps its gang from issuing in the next 2 cycles. 15 R386: a gang that a cancel has reached, and whose switch
packet parks on a wait, ends there. -/
def Obligations.CallsLoopsJoinsAndEndings : Prop :=
  (
    ∀ (o20 : BitVec 20) (ad aa : AReg),
      let calls (i : Instr) (d : Nat) (target : State → Cursor → PAddr) : Prop :=
        Completes i fun s c t =>
          (c.ctl = some c.slot → ∃ u, Recorded s c u (fun _ _ _ _ q => q.taken s.now (target s c)) ∧
            t = u.setGang c.gang
                  { (s.gangOf c).owing s.now { opOf c i (BitVec.allOnes 64) with logged := true } [PReg.a d] (BitVec.allOnes 64) with
                    arr := (s.gangOf c).arr ++ [(s.now + 1, (s.gangOf c).nextTag, [Write.a d ((c.pc + 1) ++ (0 : BitVec 4))])] }) ∧
          (c.ctl ≠ some c.slot → t = s)
      calls (.call o20) 15 (fun _ c => c.pc + BitVec.ofInt 76 o20.toInt) ∧
      calls (.callIndirect ad aa) ad.val (fun s c => ((s.gangOf c).areg aa.val).extractLsb' 4 76)
  ) ∧
  (
    ∀ (sa : SReg) (o16 : BitVec 16) (dist : BitVec 14),
      Steers (.loop sa o16) (fun s c _ _ q =>
        let e := c.pc + BitVec.ofInt 76 o16.toInt
        let n : Word := ((s.gangOf c).sreg sa.val).setWidth 32
        let fs := q.frames.dropWhile fun f => f.endl == e
        if n = 0 then { q with frames := fs, pc := e + 1, ready := s.now + 2 }
        else { q with frames := { start := q.pc + 1, endl := e, count := n } :: fs.take 3, pc := q.pc + 1 }) ∧
      Steers .endl (fun s _ _ _ q =>
        match q.frames.dropWhile fun f => f.endl != q.pc with
        | [] => { q with frames := [], pc := q.pc + 1 }
        | f :: r =>
          if f.count = 1 then { q with frames := r, pc := q.pc + 1 }
          else { q with frames := { f with count := f.count - 1 } :: r, pc := f.start, ready := s.now + 2 }) ∧
      Steers (.join dist) (fun s _ _ _ q =>
        match q.stack with
        | [] => { q with pc := q.pc + 1 }
        | (p, m) :: r =>
          if p = q.pc then { q with mask := q.mask ||| m, stack := r, pc := q.pc + 1 }
          else if p = q.pc - dist.setWidth 76 then
            { q with mask := m, stack := if q.mask = 0 then r else (q.pc, q.mask) :: r, pc := p, ready := s.now + 2 }
          else { q with pc := q.pc + 1 }) ∧
      Steers .regang (fun _ _ _ _ q => { q with wait := true }) ∧
      Steers .exit (fun _ _ _ _ q => { q with live := false, wait := false, mask := 0, stack := [], frames := [] }) ∧
      Completes .yield (fun s c t =>
        (c.ctl = some c.slot → t = { s with cur := some { c with act := .yield, actAt := s.now } }) ∧ (c.ctl ≠ some c.slot → t = s)) ∧
      Steers .yield (fun _ _ _ _ q => { q with pc := q.pc + 1 })
  ) ∧
  (
    ∀ (s : State) (c : Cursor), s.cur = some c → c.words = [] → c.group ≠ [] → c.groups = [] → (s.gangOf c).faulted = false →
      ∃ t, step s = .next t ∧ t.cur = none ∧
        let y := t.gang c.gang
        let moved : List Slice := (s.gangOf c).slices.zipIdx.map fun p =>
          if p.2 ∈ c.slices ∧ p.1.live = true then c.act.apply c.actAt (laneBits (s.lanes c)) p.2 p.1 else p.1
        let allWait : Prop := (∃ q ∈ moved, q.live = true) ∧ ∀ q ∈ moved, q.live = true → q.wait = true
        let lowest (q : Slice) : Prop := q.live = true ∧ ∀ p ∈ moved, p.live = true → q.pc.toNat ≤ p.pc.toNat
        let cancelled : Prop := (s.gangOf c).cancelAt ≠ none ∧ c.switch = true ∧ ∃ o ∈ (s.gangOf c).ops, isWait o.i = true
        (c.fin = true ∨ cancelled → ∀ q ∈ y.slices, q.live = false) ∧
        (c.fin = false → ¬ cancelled → ¬ allWait → y.slices = moved) ∧
        (c.fin = false → ¬ cancelled → allWait → y.slices.length = moved.length ∧ ∀ (n : Nat) (q : Slice), moved[n]? = some q →
          (lowest q → y.slices[n]? = some { q with wait := false, pc := q.pc + 1, ready := c.actAt + 2 }) ∧
          (¬ lowest q → y.slices[n]? = some q)) ∧
        (c.act = .yield → ¬ cancelled → y.notBefore = max (s.gangOf c).notBefore (s.now + 3)) ∧
        (c.act ≠ .yield → ¬ cancelled → y.notBefore = (s.gangOf c).notBefore)
  )

/-- 05 R136, R137, R140, R147: each FP32 word completes with the rounded code of its operation, on operands after their modifiers and FTZ;
FSUB adds the negated operand; the latencies of 01 R49. 02 R56: a product and a sum of finite values is the exact product or sum, rounded once;
the sign of an exact zero; a fused product is exact before the sum; infinities, which SAT turns into the largest finite magnitude. 05 R140:
FRND gives the integral value of its mode, of the operand's sign. 05 R147, R148: the special operands; RCP and SQRT are correctly rounded in rm,
RSQ to nearest; the exact results of LOG2 and EXP2, and EXP2 at the ends of its range; every other result of RSQ, LOG2, EXP2, SIN and COS sets
IX. -/
def Obligations.FloatWordsGiveRoundedResults : Prop :=
  (∀ (f : FFmt) (rm : Nat) (sat ftz p q : Bool) (m n : Nat) (e k : Int),
    let part (neg : Bool) (m : Nat) (e : Int) : Int :=
      let u : Nat := m * 2 ^ (e - min e k).toNat
      if neg then -(u : Int) else u
    let part' (neg : Bool) (n : Nat) (k : Int) : Int :=
      let u : Nat := n * 2 ^ (k - min e k).toNat
      if neg then -(u : Int) else u
    let v : Int := part p m e + part' q n k
    let sum := f.add rm sat ftz (.fin p m e) (.fin q n k)
    let product := f.mul rm sat ftz (.fin p m e) (.fin q n k)
    (m * n ≠ 0 → product = f.round rm sat ftz (p != q) (m * n) (e + k) false) ∧
    (m * n = 0 → product = (f.signed (p != q) 0, 0)) ∧
    (v ≠ 0 → sum = f.round rm sat ftz (decide (v < 0)) v.natAbs (min e k) false) ∧
    (v = 0 → sum = (f.signed (if m = 0 ∧ n = 0 ∧ p = q then p else decide (rm = 3)) 0, 0)) ∧
    (∀ z, f.fma rm sat ftz (.fin p m e) (.fin q n k) z = f.add rm sat ftz (.fin (p != q) (m * n) (e + k)) z) ∧
    (∀ z, m ≠ 0 → f.fma rm sat ftz (.fin p m e) (.inf q) z = f.add rm sat ftz (.inf (p != q)) z ∧
      f.fma rm sat ftz (.inf q) (.fin p m e) z = f.add rm sat ftz (.inf (p != q)) z ∧
      f.mul rm sat ftz (.fin p m e) (.inf q) = f.infinite sat (p != q) ∧ f.mul rm sat ftz (.inf q) (.fin p m e) = f.infinite sat (p != q)) ∧
    (∀ z, f.fma rm sat ftz (.inf p) (.inf q) z = f.add rm sat ftz (.inf (p != q)) z ∧
      f.mul rm sat ftz (.inf p) (.inf q) = f.infinite sat (p != q)) ∧
    f.add rm sat ftz (.inf p) (.inf p) = f.infinite sat p ∧ f.add rm sat ftz (.inf p) (.fin q n k) = f.infinite sat p ∧
    f.add rm sat ftz (.fin q n k) (.inf p) = f.infinite sat p ∧
    f.infinite true p = (f.signed p f.maxc, flOF ||| flIX) ∧ (∀ c, f.infc = some c → f.infinite false p = (f.signed p c, 0))) ∧
  (∀ (rm : Nat) (sat : Bool) (c : Nat), c < 2 ^ 32 →
    let r := frndCode rm sat c
    (∀ b, fF32.read c = .nan b → r = (0x7FC00000, if b then flIV else 0)) ∧
    (∀ n, fF32.read c = .inf n → r = if sat then (fF32.signed n 0x7F7FFFFF, flOF ||| flIX) else (c, 0)) ∧
    (∀ neg m e, fF32.read c = .fin neg m e → (m = 0 ∨ 0 ≤ e → r = (c, 0)) ∧
      (m ≠ 0 → e < 0 → ∃ n : Nat, Nearest rm neg (m * (2 : ℝ) ^ e) 0 n ∧ r.2 = 0 ∧ (n = 0 → r.1 = fF32.signed neg 0) ∧
        ∃ m' e', fF32.read r.1 = .fin neg m' e' ∧ m' * (2 : ℝ) ^ e' = n))) ∧
  (∀ (rm : Nat) (ftz : Bool) (c : Nat), c < 2 ^ 32 →
    let raw (fn : SFn) : Nat × BitVec 7 := sfnCode fn rm false ftz c
    let x := fF32.read (ftzIn ftz c)
    let inf (neg : Bool) : Nat := fF32.signed neg 0x7F800000
    let inexact (fn : SFn) : Prop := (raw fn).2.getLsbD 4 = true
    (∀ fn, sfnCode fn rm true ftz c = if (raw fn).1 % 2 ^ 31 = 0x7F800000 then ((raw fn).1 - 1, (raw fn).2 ||| flOF ||| flIX) else raw fn) ∧
    (∀ b fn, x = .nan b → raw fn = (0x7FC00000, if b then flIV else 0)) ∧
    (∀ n, x = .inf n → raw .rcp = (fF32.signed n 0, 0) ∧ raw .rsq = (if n then (0x7FC00000, flIV) else (0, 0)) ∧
      raw .sqrt = (if n then (0x7FC00000, flIV) else (inf false, 0)) ∧ raw .log2 = (if n then (0x7FC00000, flIV) else (inf false, 0)) ∧
      raw .exp2 = (if n then 0 else inf false, 0) ∧ raw .sin = (0x7FC00000, flIV) ∧ raw .cos = (0x7FC00000, flIV)) ∧
    (∀ n e, x = .fin n 0 e → raw .rcp = (inf n, flDZF) ∧ raw .rsq = (inf n, flDZF) ∧ raw .sqrt = (fF32.signed n 0, 0) ∧
      raw .log2 = (inf true, flDZF) ∧ raw .exp2 = (0x3F800000, 0) ∧ raw .sin = (fF32.signed n 0, 0) ∧ raw .cos = (0x3F800000, 0)) ∧
    (∀ neg m e, x = .fin neg m e → m ≠ 0 →
      let v : ℝ := m * 2 ^ e
      Rounded fF32 rm false ftz neg (1 / v) (raw .rcp) ∧
      (neg = true → raw .sqrt = (0x7FC00000, flIV) ∧ raw .rsq = (0x7FC00000, flIV) ∧ raw .log2 = (0x7FC00000, flIV)) ∧
      (neg = false → Rounded fF32 rm false ftz false (Real.sqrt v) (raw .sqrt) ∧ Rounded fF32 0 false ftz false (1 / Real.sqrt v) (raw .rsq) ∧
        (v = 1 → raw .log2 = (0, 0)) ∧
        (∀ k : Int, k ≠ 0 → v = 2 ^ k → Rounded fF32 0 false ftz (decide (k < 0)) k.natAbs (raw .log2)) ∧
        ((∀ k : Int, v ≠ 2 ^ k) → inexact .log2)) ∧
      (neg = false → 128 ≤ v → raw .exp2 = (inf false, flOF ||| flIX)) ∧
      (neg = true → 150 ≤ v → raw .exp2 = (0, flUF ||| flIX)) ∧
      (∀ k : Int, -150 < k → k < 128 → (if neg then -v else v) = k → Rounded fF32 0 false ftz false ((2 : ℝ) ^ k) (raw .exp2)) ∧
      ((∀ k : Int, (if neg then -v else v) ≠ k) → inexact .exp2) ∧ inexact .sin ∧ inexact .cos)) ∧
  ∀ (x : Bool) (d : VReg) (a b : Src),
    let gives (i : Instr) (lat : Nat) (f : State → Cursor → Nat → Nat × BitVec 7) : Prop :=
      VectorValue i lat d.val (fun s c l => BitVec.ofNat 32 (f s c l).1) (fun s c l => (f s c l).2)
    let va (s : State) (c : Cursor) (l : Nat) : FNum := fF32.read (s.fpA c (c.ctlOf x) a l)
    let vb (s : State) (c : Cursor) (l : Nat) : FNum := fF32.read (s.fpB c (c.ctlOf x) b l)
    let vd (s : State) (c : Cursor) (l : Nat) : FNum :=
      fF32.read (ftzIn (s.gangOf c).ftz ((s.gangOf c).vreg d.val l).toNat)
    let rm (s : State) (c : Cursor) : Nat := s.rmOf c (c.ctlOf x)
    let sat (c : Cursor) : Bool := ctlSat (c.ctlOf x)
    let ftz (s : State) (c : Cursor) : Bool := (s.gangOf c).ftz
    gives (.fadd x d a b) 4 (fun s c l => fF32.add (rm s c) (sat c) (ftz s c) (va s c l) (vb s c l)) ∧
    gives (.fsub x d a b) 4 (fun s c l => fF32.add (rm s c) (sat c) (ftz s c) (va s c l) (vb s c l).flip) ∧
    gives (.fmul x d a b) 4 (fun s c l => fF32.mul (rm s c) (sat c) (ftz s c) (va s c l) (vb s c l)) ∧
    gives (.ffma x d a b) 4 (fun s c l => fF32.fma (rm s c) (sat c) (ftz s c) (va s c l) (vb s c l) (vd s c l)) ∧
    gives (.fmin x d a b) 4 (fun s c l => fF32.minMax false (sat c) (s.fpA c (c.ctlOf x) a l) (s.fpB c (c.ctlOf x) b l)) ∧
    gives (.fmax x d a b) 4 (fun s c l => fF32.minMax true (sat c) (s.fpA c (c.ctlOf x) a l) (s.fpB c (c.ctlOf x) b l)) ∧
    gives (.frnd x d a) 4 (fun s c l => frndCode (rm s c) (sat c) (s.fpA c (c.ctlOf x) a l)) ∧
    gives (.rcp x d a) 8 (fun s c l => sfnCode .rcp (rm s c) (sat c) (ftz s c) (s.fpA c (c.ctlOf x) a l)) ∧
    gives (.rsq x d a) 8 (fun s c l => sfnCode .rsq (rm s c) (sat c) (ftz s c) (s.fpA c (c.ctlOf x) a l)) ∧
    gives (.sqrt x d a) 8 (fun s c l => sfnCode .sqrt (rm s c) (sat c) (ftz s c) (s.fpA c (c.ctlOf x) a l)) ∧
    gives (.log2 x d a) 8 (fun s c l => sfnCode .log2 (rm s c) (sat c) (ftz s c) (s.fpA c (c.ctlOf x) a l)) ∧
    gives (.exp2 x d a) 8 (fun s c l => sfnCode .exp2 (rm s c) (sat c) (ftz s c) (s.fpA c (c.ctlOf x) a l)) ∧
    gives (.sin x d a) 12 (fun s c l => sfnCode .sin (rm s c) (sat c) (ftz s c) (s.fpA c (c.ctlOf x) a l)) ∧
    gives (.cos x d a) 12 (fun s c l => sfnCode .cos (rm s c) (sat c) (ftz s c) (s.fpA c (c.ctlOf x) a l))

/-- 05 R139: FCLASS sets exactly one bit, that of the operand's class, and no flag. -/
def Obligations.FclassNamesTheClassOfTheCode : Prop :=
  ∀ (x : Bool) (d : VReg) (a : Src),
    VectorResult (.fclass x d a) 4 d.val fun s c l r f =>
      let v := s.fpA c (c.ctlOf x) a l
      let m := v % 2 ^ 31
      let neg : Prop := 2 ^ 31 ≤ v
      f = 0 ∧ ∃ n, n < 10 ∧ r = 1 <<< n ∧
        (n = 0 ↔ 0x7F800000 < m ∧ m < 0x7FC00000) ∧ (n = 1 ↔ 0x7FC00000 ≤ m) ∧
        (n = 2 ↔ neg ∧ m = 0x7F800000) ∧ (n = 9 ↔ ¬neg ∧ m = 0x7F800000) ∧
        (n = 3 ↔ neg ∧ 0x800000 ≤ m ∧ m < 0x7F800000) ∧ (n = 8 ↔ ¬neg ∧ 0x800000 ≤ m ∧ m < 0x7F800000) ∧
        (n = 4 ↔ neg ∧ 0 < m ∧ m < 0x800000) ∧ (n = 7 ↔ ¬neg ∧ 0 < m ∧ m < 0x800000) ∧
        (n = 5 ↔ neg ∧ m = 0) ∧ (n = 6 ↔ ¬neg ∧ m = 0)

/-- 02 R55: rounding `m × 2 ^ e` to a multiple of `2 ^ (e + k)`: nearest with ties to even, toward zero, up, down, and nearest with ties
away, for modes 0 to 4. 02 R56, R54: an exact non-zero value is rounded once to a format: a tiny one to the subnormal grid, or to a zero where
FTZ holds, UF and IX as it is inexact; one beyond the largest finite magnitude by the table of overflow, with OF and IX. That FTZ flushes a tiny
value that the grid would deliver as the smallest normal is the model's choice (log entry 26). -/
def Obligations.RoundingModesChooseTheNeighbour : Prop :=
  (∀ f ∈ [fF32, fF16, fBF16, fE4M3, fE5M2], ∀ (rm : Nat) (sat ftz neg : Bool) (m : Nat) (e : Int), m ≠ 0 →
    Rounded f rm sat ftz neg (m * (2 : ℝ) ^ e) (f.round rm sat ftz neg m e false)) ∧
  ∀ (neg : Bool) (m : Nat) (e : Int) (k : Nat), 0 < k →
    let n (rm : Nat) : Nat := (roundAt rm neg m e false (e + k)).1
    let u : Nat := 2 ^ k
    (∀ rm, (roundAt rm neg m e false (e + k)).2 = decide (¬ u ∣ m)) ∧
    (2 * (n 0 * u) ≤ 2 * m + u ∧ 2 * m ≤ 2 * (n 0 * u) + u ∧
      ((2 * (n 0 * u) = 2 * m + u ∨ 2 * m = 2 * (n 0 * u) + u) → n 0 % 2 = 0)) ∧
    (n 1 * u ≤ m ∧ m < n 1 * u + u) ∧
    (if neg then n 2 * u ≤ m ∧ m < n 2 * u + u else m ≤ n 2 * u ∧ n 2 * u < m + u) ∧
    (if neg then m ≤ n 3 * u ∧ n 3 * u < m + u else n 3 * u ≤ m ∧ m < n 3 * u + u) ∧
    (2 * (n 4 * u) ≤ 2 * m + u ∧ 2 * m < 2 * (n 4 * u) + u)

/-- 02 R53, R57, 05 R136, R137: NaN operands give the canonical NaN, with IV for a signalling one, and so do the invalid cases; FMIN and
FMAX give the other operand where one is a quiet NaN. -/
def Obligations.InvalidOperationsGiveTheCanonicalNan : Prop :=
  ∀ (f : FFmt) (rm : Nat) (sat ftz : Bool) (x y z : FNum),
    let nan (iv : Bool) : Nat × BitVec 7 := (f.nanc.getD 0, if iv then flIV else 0)
    (x.isNan = true ∨ y.isNan = true →
      f.add rm sat ftz x y = nan (x.sig || y.sig) ∧ f.mul rm sat ftz x y = nan (x.sig || y.sig)) ∧
    (∀ n, f.add rm sat ftz (.inf n) (.inf (!n)) = nan true) ∧
    (∀ n m e, f.mul rm sat ftz (.inf n) (.fin m 0 e) = nan true ∧ f.mul rm sat ftz (.fin m 0 e) (.inf n) = nan true ∧
      f.fma rm sat ftz (.inf n) (.fin m 0 e) z = nan true ∧ f.fma rm sat ftz (.fin m 0 e) (.inf n) z = nan true) ∧
    (∀ mx cx cy, (f.read cx).sig = true ∨ (f.read cy).sig = true → f.minMax mx sat cx cy = nan true) ∧
    (∀ mx cx cy, f.read cx = .nan false → f.read cy = .nan false → f.minMax mx sat cx cy = nan false) ∧
    (∀ mx cx cy, f.read cx = .nan false → (f.read cy).isNan = false → (∀ n, f.read cy ≠ .inf n) →
      f.minMax mx sat cx cy = (cy, 0) ∧ f.minMax mx sat cy cx = (cy, 0))

/-- 05 R141 to R143: the packed words act on each element alone; the dot products. DOT4.F8 rounds the exact sum of its products and its addend
once; NaNs, invalid cases and infinities; the zero-sum rule, in which four products of −0 sum to −0 by the model's choice (log entry 27). -/
def Obligations.PackedWordsAndDotProducts : Prop :=
  (∀ fa ∈ [fE4M3, fE5M2], ∀ fb ∈ [fE4M3, fE5M2], ∀ (rm : Nat) (ftz : Bool) (a b d : Nat), d < 2 ^ 32 →
    let x (k : Nat) : FNum := fa.read (a / 256 ^ k % 256)
    let y (k : Nat) : FNum := fb.read (b / 256 ^ k % 256)
    let z := fF32.read (ftzIn ftz d)
    let r := dot4F fa fb rm ftz a b d
    let zeroTimesInf : Prop := ∃ k < 4, (∃ n m e, x k = .inf n ∧ y k = .fin m 0 e) ∨ ∃ n m e, x k = .fin m 0 e ∧ y k = .inf n
    let hasInf (s : Bool) : Prop := z = .inf s ∨ ∃ k < 4, ∃ p q, (p != q) = s ∧
      ((x k = .inf p ∧ y k = .inf q) ∨ (∃ m e, m ≠ 0 ∧ x k = .inf p ∧ y k = .fin q m e) ∨ ∃ m e, m ≠ 0 ∧ x k = .fin p m e ∧ y k = .inf q)
    let invalid : Prop := zeroTimesInf ∨ (hasInf true ∧ hasInf false) ∨ z.sig = true
    let someNan : Prop := z.isNan = true ∨ ∃ k < 4, (x k).isNan = true ∨ (y k).isNan = true
    (invalid → r = (0x7FC00000, flIV)) ∧
    (¬ invalid → someNan → r = (0x7FC00000, 0)) ∧
    (¬ invalid → ¬ someNan → ∀ s, hasInf s → r = (fF32.signed s 0x7F800000, 0)) ∧
    (∀ (p q : Nat → Bool) (m n : Nat → Nat) (e k : Nat → Int) (zn : Bool) (zm : Nat) (ze : Int),
      (∀ j, j < 4 → x j = .fin (p j) (m j) (e j) ∧ y j = .fin (q j) (n j) (k j)) → z = .fin zn zm ze →
      let v : ℚ := (x 0).val * (y 0).val + (x 1).val * (y 1).val + (x 2).val * (y 2).val + (x 3).val * (y 3).val + z.val
      (v ≠ 0 → Rounded fF32 rm false ftz (decide (v < 0)) ((|v| : ℚ) : ℝ) r) ∧
      (v = 0 → r = (fF32.signed (if zm = 0 ∧ ∀ j ∈ List.range 4, m j * n j = 0 then
          (if zn = true ∧ ∀ j ∈ List.range 4, p j ≠ q j then true else decide (rm = 3) && (zn || (List.range 4).any fun j => p j != q j))
        else decide (rm = 3)) 0, 0)))) ∧
  ∀ (x bf : Bool) (d : VReg) (a b : Src) (fa fb : Fp8) (ua ub : Bool),
    let k (c : Cursor) : Nat := c.ctlOf x
    let f := packFmt bf
    let packed (i : Instr) (el : State → Cursor → Nat → Nat → Nat × BitVec 7) : Prop :=
      VectorValue i 4 d.val (fun s c l => BitVec.ofNat 32 ((el s c l 0).1 + 65536 * (el s c l 1).1))
        (fun s c l => (el s c l 0).2 ||| (el s c l 1).2)
    let elem (u : Bool) (w : Word) (n : Nat) : Int :=
      if u then ((w.extractLsb' (8 * n) 8).toNat : Int) else (w.extractLsb' (8 * n) 8).toInt
    let sum (p q : Word) : Int :=
      elem ua p 0 * elem ub q 0 + elem ua p 1 * elem ub q 1 + elem ua p 2 * elem ub q 2 + elem ua p 3 * elem ub q 3
    packed (.hadd2 x bf d a b) (fun s c l e =>
      f.add (s.rmOf c (k c)) (ctlSat (k c)) false (s.hpA c bf (k c) a l e) (s.hpB c bf (k c) b l e)) ∧
    packed (.hmul2 x bf d a b) (fun s c l e =>
      f.mul (s.rmOf c (k c)) (ctlSat (k c)) false (s.hpA c bf (k c) a l e) (s.hpB c bf (k c) b l e)) ∧
    packed (.hfma2 x bf d a b) (fun s c l e =>
      f.fma (s.rmOf c (k c)) (ctlSat (k c)) false (s.hpA c bf (k c) a l e) (s.hpB c bf (k c) b l e)
        (f.read (((s.gangOf c).vreg d.val l).extractLsb' (16 * e) 16).toNat)) ∧
    VectorValue (.dot4F8 fa fb d a b) 5 d.val
      (fun s c l => BitVec.ofNat 32 (dot4F (Fp8.ffmt fa) (Fp8.ffmt fb) (s.gangOf c).rm (s.gangOf c).ftz (s.readW c (Fp8.cst fa) a l).toNat
        (s.readW c (Fp8.cst fb) b l).toNat ((s.gangOf c).vreg d.val l).toNat).1)
      (fun s c l => (dot4F (Fp8.ffmt fa) (Fp8.ffmt fb) (s.gangOf c).rm (s.gangOf c).ftz (s.readW c (Fp8.cst fa) a l).toNat
        (s.readW c (Fp8.cst fb) b l).toNat ((s.gangOf c).vreg d.val l).toNat).2) ∧
    VectorValue (.dot4I8 ua ub d a b) 5 d.val
      (fun s c l => BitVec.ofInt 32 (((s.gangOf c).vreg d.val l).toInt + sum (s.readW c Inline.i8 a l) (s.readW c Inline.i8 b l)))
      noFlags

/-- 05 R144 to R146: a conversion writes a pair, a lane, or the element that ELEM names, and leaves the lane's other bits alone. 02 R58, 05 R146:
the converted value and the flags from float to float, from integer to float and from integer to integer, with SAT and without. -/
def Obligations.ConversionsPlaceTheirElement : Prop :=
  (∀ (src dst : Fmt) (rm : Nat) (sat ftz : Bool) (c : Nat), c < 2 ^ (Fmt.int src).1 →
    let r := cvtCode src dst rm sat ftz c
    let sw := (Fmt.int src).1
    let dw := (Fmt.int dst).1
    let i : Int := if (Fmt.int src).2 = true ∧ 2 ^ (sw - 1) ≤ c then (c : Int) - 2 ^ sw else c
    let lo : Int := if (Fmt.int dst).2 then -(2 ^ (dw - 1) : Int) else 0
    let hi : Int := if (Fmt.int dst).2 then 2 ^ (dw - 1) - 1 else 2 ^ dw - 1
    let holdsAll : Prop := ((Fmt.int src).2 = (Fmt.int dst).2 ∧ sw ≤ dw) ∨ ((Fmt.int src).2 = false ∧ (Fmt.int dst).2 = true ∧ sw < dw)
    (∀ f g, Fmt.float src = some f → Fmt.float dst = some g → dst ≠ .e2m1 →
      let x := f.read (if src = .f32 then ftzIn ftz c else c)
      (∀ b, x = .nan b → r = (g.nan, if b then flIV else 0)) ∧
      (∀ n, x = .inf n → sat = false → r = (match g.infc with
        | some a => (g.signed n a, 0)
        | none => (g.nan, flIV))) ∧
      (∀ n, x = .inf n → sat = true → r = (g.signed n g.maxc, flOF ||| flIX)) ∧
      (∀ n e, x = .fin n 0 e → r = (g.signed n 0, 0)) ∧
      (∀ n m e, m ≠ 0 → x = .fin n m e → Rounded g rm sat (ftz && decide (dst = .f32)) n (m * (2 : ℝ) ^ e) r)) ∧
    (∀ g, Fmt.float src = none → Fmt.float dst = some g → dst ≠ .e2m1 →
      (i = 0 → r = (0, 0)) ∧ (i ≠ 0 → Rounded g rm sat false (decide (i < 0)) i.natAbs r)) ∧
    (Fmt.float src = none → Fmt.float dst = none →
      (sat = false ∨ holdsAll ∨ (lo ≤ i ∧ i ≤ hi) → (r.1 : Int) = i % 2 ^ dw ∧ r.2 = 0) ∧
      (sat = true → ¬ holdsAll → i < lo → (r.1 : Int) = lo % 2 ^ dw ∧ r.2 = flIOV) ∧
      (sat = true → ¬ holdsAll → hi < i → (r.1 : Int) = hi % 2 ^ dw ∧ r.2 = flIOV))) ∧
  ∀ (x : Bool) (dst src : Fmt) (d : VReg) (a : Src),
    let code (s : State) (c : Cursor) (l : Nat) : Nat × BitVec 7 :=
      cvtCode src dst (s.rmOf c (c.ctlOf x)) (ctlSat (c.ctlOf x)) (s.gangOf c).ftz (s.cvtSrc c src (ctlElem (c.ctlOf x)) a l)
    let places (i : Instr) : Prop :=
      ((Fmt.int dst).1 = 64 → PairValue i 4 d.val (fun s c l => BitVec.ofNat 64 (code s c l).1) (fun s c l => (code s c l).2)) ∧
      ((Fmt.int dst).1 = 32 → VectorValue i 4 d.val (fun s c l => BitVec.ofNat 32 (code s c l).1) (fun s c l => (code s c l).2)) ∧
      ((Fmt.int dst).1 = 16 → VectorResult i 4 d.val fun s c l r f => f = (code s c l).2 ∧
        ∀ j, j < 32 → r.getLsbD j = if j / 16 = ctlElem (c.ctlOf x) % 2 then (code s c l).1.testBit (j % 16)
          else ((s.gangOf c).vreg d.val l).getLsbD j) ∧
      ((Fmt.int dst).1 = 8 → VectorResult i 4 d.val fun s c l r f => f = (code s c l).2 ∧
        ∀ j, j < 32 → r.getLsbD j = if j / 8 = ctlElem (c.ctlOf x) then (code s c l).1.testBit (j % 8)
          else ((s.gangOf c).vreg d.val l).getLsbD j)
    places (.cvtFromFloat x dst src d a) ∧ places (.cvtFromInt x dst src d a)

/-- 02 R58: a conversion of a float to an integer: 0 for a NaN, with IV; the integer that the mode takes for a finite value, with IX where the
value is none, or with IV the nearest limit where that integer lies outside the range; an infinity is outside. -/
def Obligations.FloatToIntegerSaturates : Prop :=
  ∀ (f : FFmt) (w : Nat) (sgn : Bool) (rm c : Nat), 0 < w →
    let lo : Int := if sgn then -(2 ^ (w - 1) : Int) else 0
    let hi : Int := if sgn then 2 ^ (w - 1) - 1 else 2 ^ w - 1
    let r := cvtFI f w sgn rm c
    (lo ≤ r.1 ∧ r.1 ≤ hi) ∧
    ((f.read c).isNan = true → r = (0, flIV)) ∧
    (f.read c = .inf false → r = (hi, flIV)) ∧
    (f.read c = .inf true → r = (lo, flIV)) ∧
    (∀ neg m e, f.read c = .fin neg m e → ∃ n : Nat, Nearest rm neg (m * (2 : ℝ) ^ e) 0 n ∧
      let v : Int := if neg then -(n : Int) else n
      (v < lo → r = (lo, flIV)) ∧ (hi < v → r = (hi, flIV)) ∧
      (lo ≤ v → v ≤ hi → r.1 = v ∧ ((n : ℝ) = m * 2 ^ e → r.2 = 0) ∧ ((n : ℝ) ≠ m * 2 ^ e → r.2 = flIX)))

/-- 05 R149 to R151: EXPR walks its tokens over a stack in each lane, or in each FP16 element, and takes 4 + 2 × n cycles for n operators.
-/
def Obligations.ExprWalksItsTokens : Prop :=
  (∀ (d : VReg) (a b c' e : Src) (toks : List Tok),
    let n := (toks.filter fun t => t.arity != 0).length
    let input (cst : Inline → Word) (s : State) (c : Cursor) (l : Nat) : Tok → Nat
      | .a => (s.readW c cst a l).toNat
      | .b => (s.readW c cst b l).toNat
      | .c => (s.readW c cst c' l).toNat
      | .d => (s.readW c cst e l).toNat
      | _ => 0
    let full (s : State) (c : Cursor) (l : Nat) : Nat × BitVec 7 :=
      exprWalk false (s.gangOf c).rm (s.gangOf c).ftz (fun t => ftzIn (s.gangOf c).ftz (input Inline.f32 s c l t)) toks [] 0
    let half (s : State) (c : Cursor) (l k : Nat) : Nat × BitVec 7 :=
      exprWalk true (s.gangOf c).rm false (fun t => input Inline.f16 s c l t / 2 ^ (16 * k) % 2 ^ 16) toks [] 0
    VectorValue (.expr false d a b c' e toks) (4 + 2 * n) d.val (fun s c l => BitVec.ofNat 32 (full s c l).1)
      (fun s c l => (full s c l).2) ∧
    VectorValue (.expr true d a b c' e toks) (4 + 2 * n) d.val
      (fun s c l => BitVec.ofNat 32 ((half s c l 0).1 + 65536 * (half s c l 1).1))
      (fun s c l => (half s c l 0).2 ||| (half s c l 1).2)) ∧
  (∀ (hf : Bool) (rm : Nat) (ftz : Bool) (inp : Tok → Nat) (t : Tok) (r : List Tok) (st : List Nat) (fl : BitVec 7),
    (t.arity = 0 → exprWalk hf rm ftz inp (t :: r) st fl = exprWalk hf rm ftz inp r (inp t :: st) fl) ∧
    (∀ q x1, exprWalk hf rm ftz inp (.neg :: r) (x1 :: q) fl =
      exprWalk hf rm ftz inp r ((x1 + (if hf then 2 ^ 15 else 2 ^ 31)) % (if hf then 2 ^ 16 else 2 ^ 32) :: q) fl) ∧
    (∀ q x1 x2 x3, exprWalk hf rm ftz inp (.sel :: r) (x3 :: x2 :: x1 :: q) fl =
      exprWalk hf rm ftz inp r ((if x1 < (if hf then 2 ^ 15 else 2 ^ 31) then x2 else x3) :: q) fl) ∧
    (∀ q x1 x2, exprWalk hf rm ftz inp (.sub :: r) (x2 :: x1 :: q) fl =
      let f := if hf then fF16 else fF32
      let y := f.add rm false ftz (f.read x1) (f.read x2).flip
      exprWalk hf rm ftz inp r (y.1 :: q) (fl ||| y.2)))

/-- 05 R152 to R155: SHFL and BCAST read a source lane modulo the gang width; a source out of reach gives the reading lane its own value
and a bit of K7; PERM permutes the bytes of a slice. -/
def Obligations.ShuffleBroadcastAndPermute : Prop :=
  ∀ (d va : VReg) (b : Src),
    let w (s : State) (c : Cursor) : Nat := (s.gangOf c).width
    let n (s : State) (c : Cursor) (l : Nat) : Nat := (s.readI c b l).toNat
    let reads (i : Instr) (src : State → Cursor → Nat → Option Nat) : Prop :=
      Completes i fun s c t => ∃ far : List Nat,
        (∀ l, l ∈ far ↔ l ∈ s.lanes c ∧ ∃ q, src s c l = some q ∧ q / 4 ∉ c.slices) ∧
        InFlight s t c.gang (widthLat s c 4)
          (.v d.val ((s.lanes c).map fun l =>
              (l, (s.gangOf c).vreg va.val (match src s c l with
                | some q => if q / 4 ∈ c.slices then q else l
                | none => l))) ::
            if far = [] then [] else [.k7 (laneBits far)]) 0
    reads (.shfl .idx d va b) (fun s c l => some (n s c l % w s c)) ∧
    reads (.shfl .xor d va b) (fun s c l => some (l ^^^ (n s c l % w s c))) ∧
    reads (.shfl .up d va b) (fun s c l => if l < n s c l then none else some (l - n s c l)) ∧
    reads (.shfl .down d va b) (fun s c l => if l + n s c l < w s c then some (l + n s c l) else none) ∧
    reads (.bcast d va b) (fun s c l => some (n s c l % w s c)) ∧
    VectorResult (.perm d va b) 4 d.val (fun s c l r f => f = 0 ∧ ∀ j, j < 4 →
      let sel := ((s.readI c b l).extractLsb' (8 * j) 8).toNat
      r.extractLsb' (8 * j) 8 =
        if 128 ≤ sel then 0
        else ((s.gangOf c).vreg va.val (4 * (l / 4) + sel % 16 / 4)).extractLsb' (8 * (sel % 4)) 8)

/-- 05 R158, R159: SCAN and REDUCE accumulate over the active lanes in ascending order. -/
def Obligations.ScanAndReduceAccumulate : Prop :=
  ∀ (op : ScanOp) (ty : ScanTy) (vd va : VReg) (sd : SReg),
    let x (s : State) (c : Cursor) (l : Nat) : Word :=
      if ty = .f32 then BitVec.ofNat 32 (ftzIn (s.gangOf c).ftz ((s.gangOf c).vreg va.val l).toNat) else (s.gangOf c).vreg va.val l
    let one (s : State) (c : Cursor) (a : Option Word × BitVec 7) (v : Word) : Option Word × BitVec 7 :=
      match a.1 with
      | none => (some (scanCanon ty v).1, a.2 ||| (scanCanon ty v).2)
      | some p => (some (scanComb op ty (s.gangOf c).rm (s.gangOf c).ftz p v).1,
          a.2 ||| (scanComb op ty (s.gangOf c).rm (s.gangOf c).ftz p v).2)
    let acc (s : State) (c : Cursor) (ls : List Nat) : Option Word × BitVec 7 := (ls.map (x s c)).foldl (one s c) (none, 0)
    let scans (excl : Bool) : Prop := Completes (.scan op excl ty vd va) fun s c t => ∃ r : List (Nat × Word),
      r.map (·.1) = s.lanes c ∧
      (∀ k, k < (s.lanes c).length → (r[k]?).map (·.2) =
        some ((acc s c ((s.lanes c).take (if excl then k else k + 1))).1.getD (scanId op ty))) ∧
      InFlight s t c.gang (widthLat s c 8) [.v vd.val r] (acc s c (s.lanes c)).2
    scans false ∧ scans true ∧
    Completes (.reduce op ty (.v vd) va) (fun s c t =>
      InFlight s t c.gang (widthLat s c 8)
        [.v vd.val ((s.lanes c).map fun l => (l, (acc s c (s.lanes c)).1.getD (scanId op ty)))] (acc s c (s.lanes c)).2) ∧
    Completes (.reduce op ty (.s sd) va) (fun s c t =>
      let v := (acc s c (s.lanes c)).1.getD (scanId op ty)
      InFlight s t c.gang (widthLat s c 8) [.s sd.val (if ty = .s32 then v.signExtend 64 else v.setWidth 64)]
        (acc s c (s.lanes c)).2)

/-- 06 R161 to R165, R169, R170: a memory word forms one 80-bit address a lane, A[ba] + the signed offset, and records it with its data.
-/
def Obligations.MemoryWordsRecordEachLane : Prop :=
  ∀ (d : VReg) (sd o : Src) (ba : AReg) (h : Hint) (sc : Scope),
    let a32 (s : State) (c : Cursor) (l : Nat) : Addr := (s.gangOf c).areg ba.val + (s.readI c o l).signExtend 80
    let a64 (s : State) (c : Cursor) (l : Nat) : Addr := (s.gangOf c).areg ba.val + (s.readD c true o l).signExtend 80
    let v (k : Nat) (s : State) (c : Cursor) (l : Nat) : Nat := ((s.gangOf c).vreg (d.val + k) l).toNat
    let none2 : State → Cursor → Nat → Nat × Nat := fun _ _ _ => (0, 0)
    let d32 : State → Cursor → Nat → Nat × Nat := fun s c l => ((s.readI c sd l).toNat, 0)
    let d64 : State → Cursor → Nat → Nat × Nat := fun s c l => ((s.readD c false sd l).toNat, 0)
    let d128 : State → Cursor → Nat → Nat × Nat := fun s c l =>
      (v 0 s c l + 2 ^ 32 * v 1 s c l + 2 ^ 64 * v 2 s c l + 2 ^ 96 * v 3 s c l, 0)
    (∀ sz, AccessesMemory (.ld sz h d o ba) true a32 none2 (vGroup (match sz with | .b64 => 2 | .b128 => 4 | _ => 1) d.val)) ∧
    (∀ sz, AccessesMemory (.ldg sz h d o ba) true a64 none2 (vGroup (match sz with | .b32 => 1 | .b64 => 2 | .b128 => 4) d.val)) ∧
    (∀ w, AccessesMemory (.ldAcq w sc d o ba) true a32 none2 (vGroup (if w then 2 else 1) d.val)) ∧
    AccessesMemory (.st .b8 h sd o ba) true a32 d32 [] ∧ AccessesMemory (.st .b16 h sd o ba) true a32 d32 [] ∧
    AccessesMemory (.st .b32 h sd o ba) true a32 d32 [] ∧ AccessesMemory (.st .b64 h sd o ba) true a32 d64 [] ∧
    AccessesMemory (.st .b128 h (.v d) o ba) true a32 d128 [] ∧
    AccessesMemory (.stg .b32 h sd o ba) true a64 d32 [] ∧ AccessesMemory (.stg .b64 h sd o ba) true a64 d64 [] ∧
    AccessesMemory (.stg .b128 h (.v d) o ba) true a64 d128 [] ∧
    AccessesMemory (.stRel false sc sd o ba) true a32 d32 [] ∧ AccessesMemory (.stRel true sc sd o ba) true a32 d64 [] ∧
    AccessesMemory (.atom .cas32 sc d o ba) true a32 (fun s c l => (v 0 s c l, v 1 s c l)) [.v d.val] ∧
    AccessesMemory (.atom .cas64 sc d o ba) true a32
      (fun s c l => (v 0 s c l + 2 ^ 32 * v 1 s c l, v 2 s c l + 2 ^ 32 * v 3 s c l)) [.v d.val, .v (d.val + 1)] ∧
    (∀ op, op ≠ .cas32 → op ≠ .cas64 → AccessesMemory (.atom op sc d o ba) true a32 (fun s c l => (v 0 s c l, 0)) [.v d.val]) ∧
    AccessesMemory (.pref h o ba) false a32 none2 []

/-- 06 R170, R171, R174: the new value of each atomic, on 32-bit or 64-bit values. -/
def Obligations.AtomicsComputeTheirNewValue : Prop :=
  ∀ (old d d2 : Word) (o64 e64 n64 : DWord),
    let new (op : AtomOp) : Nat := atomNew op old.toNat d.toNat d2.toNat
    new .addU32 = (old + d).toNat ∧ new .and32 = (old &&& d).toNat ∧ new .or32 = (old ||| d).toNat ∧
    new .xor32 = (old ^^^ d).toNat ∧ new .xchg32 = d.toNat ∧
    new .minS32 = (if old.sle d then old else d).toNat ∧ new .maxS32 = (if d.sle old then old else d).toNat ∧
    new .minU32 = (if old.ule d then old else d).toNat ∧ new .maxU32 = (if d.ule old then old else d).toNat ∧
    new .cas32 = (if old = d then d2 else old).toNat ∧
    atomNew .cas64 o64.toNat e64.toNat n64.toNat = (if o64 = e64 then n64 else o64).toNat ∧
    new .faddF32 = (fF32.add 0 false false (fF32.read old.toNat) (fF32.read d.toNat)).1 ∧
    new .fminF32 = (fF32.minMax false false old.toNat d.toNat).1 ∧ new .fmaxF32 = (fF32.minMax true false old.toNat d.toNat).1

/-- 06 R165, R166, R171: on the bytes of a line, a load reads and changes nothing, every byte that a store writes is that of the last
(highest) of its lanes that covers it, and every other byte stays; lane by lane, an atomic returns the old value and leaves the new one, which
the next lane finds. 10 R279, R286, R294: a memory word that has started and whose lanes are ready in a MOESI-INV line that its core holds is
performed there, on the bytes of the line, and returns what it read; an access that is performed at a home is performed so on the bytes of
memory, and no other byte changes. That an access is performed 20 cycles before its results return is the model's choice (log entry 35). -/
def Obligations.LanesOfAWordOnALine : Prop :=
  (∀ (i : Instr) (data : List Byte) (ls : List LaneAcc), data.length = 128 →
    let n := accessSize i
    let covers (a : LaneAcc) (k : Nat) : Prop := a.pa % 128 ≤ k ∧ k < a.pa % 128 + n
    let r := performIn i data ls
    (r.2.1.map (·.lane) = ls.map (·.lane)) ∧ (∀ a ∈ r.2.1, a.st = .done) ∧
    (memKind i = .load → r.1 = data ∧ r.2.2 = 0 ∧
      r.2.1.map (·.res) = ls.map fun a => leNat ((List.range n).map fun k => byteAt data (a.pa % 128 + k))) ∧
    (memKind i = .store → ∀ k, k < 128 →
      ((∀ a ∈ ls, ¬ covers a k) → byteAt r.1 k = byteAt data k) ∧
      (∀ p a q, ls = p ++ a :: q → covers a k → (∀ b ∈ q, ¬ covers b k) →
        byteAt r.1 k = BitVec.ofNat 8 (a.data / 256 ^ (k - a.pa % 128)))) ∧
    (∀ k, k < 128 → (∀ a ∈ ls, ¬ covers a k) → byteAt r.1 k = byteAt data k) ∧
    (memKind i = .atomic → ∀ p a q, ls = p ++ a :: q →
      let d := (performIn i data p).1
      let d' := (performIn i data (p ++ [a])).1
      let old := leNat ((List.range n).map fun k => byteAt d (a.pa % 128 + k))
      (∃ b, r.2.1[p.length]? = some b ∧ b.lane = a.lane ∧ b.res = old) ∧
      ∀ k, k < 128 → byteAt d' k =
        if covers a k then BitVec.ofNat 8 (atomNew (atomOf i) old a.data a.data2 / 256 ^ (k - a.pa % 128)) else byteAt d k)) ∧
  (∀ (g tag ln : Nat) (o : Op) (rest : List Op),
    Happens (.variableResultArrival g) (fun s =>
      let x := s.gang g
      let l := s.l1 x.core ln
      let e := s.entry l.table l.st (if memKind o.i = .load then mLD else mST)
      x.arrival s.now = none ∧ x.here = true ∧ x.ops = o :: rest ∧ o.tag = tag ∧ o.due ≤ s.now ∧ isMemWord o.i = true ∧
      memKind o.i ≠ .pref ∧ o.acc ≠ [] ∧ (∀ a ∈ o.acc, a.st = .ready ∧ a.pa / 128 = ln ∧ isHost a.pa = false) ∧
      (s.range ln).chk = false ∧ (s.range ln).slot = l.table ∧ s.kind l.table = .owned ∧ l ≠ {} ∧
      Sparse.get {} (s.core x.core).buf ln = {} ∧
      entErr e = false ∧ entAct e 10 = false ∧ entAct e 3 = true ∧ entAct e 4 = false ∧ entAct e 5 = false ∧ entRv e = false ∧
      entNext e ≠ 0 ∧ l.bad = false ∧ l.poison = 0 ∧ l.overlay = [] ∧ l.bypass = false ∧ (∀ p ∈ s.life.parity, p.1 ≠ g) ∧
      hintOf o.i ≠ .strm ∧ ((o.i matches .ldAcq ..) = true → s.wrtOut g = false) ∧
      (isRelease o.i = true → x.vaultOut o.y.toNat = false ∧
        (flushes o.i = true → ∃ n, o.fence = some n ∧ s.coreOut x.core n = false))) fun s t =>
      let r := performIn o.i (s.l1 (s.gang g).core ln).view o.acc
      (t.l1 (s.gang g).core ln).view = r.1 ∧ t.mem = s.mem ∧ t.op? g tag = none ∧
      (t.gang g).arr = (s.gang g).arr ++ (match memWrites o.i r.2.1 with
        | [] => []
        | ws => [(s.now + 20, tag, ws)])) ∧
  (∀ (s : State) (m : Msg) (i : Instr), m.chk = false →
    let q := s.performHome m i
    let r := performIn i (s.lineData m.line) m.acc
    q.1.lineData m.line = r.1 ∧ q.2.1 = r.2.1 ∧ ∀ a, a / 128 ≠ m.line → q.1.byte a = s.byte a)

/-- 06 R172 to R175; 08 R238 to R243: own-vault words read at issue and write 24 cycles after it, lanes 32 to 63 one cycle later, or store
within 24 cycles; a vault atomic reads and writes at issue; other windows are reached by towpath operations. -/
def Obligations.VaultWordsReadAndWriteTheWindow : Prop :=
  ∀ (sz : WSize) (d : VReg) (sd o : Src) (ba : SReg) (op : AtomvOp),
    let u (s : State) (c : Cursor) : Nat := (s.gangOf c).crew
    let vsel (s : State) (c : Cursor) : Nat := ((s.gangOf c).sreg ba.val).toNat / 2 ^ 32 % 256
    let own (s : State) (c : Cursor) : Prop := s.window (u s c) (vsel s c) = some (u s c)
    let off (s : State) (c : Cursor) (l : Nat) : Nat := (((s.gangOf c).sreg ba.val).setWidth 32 + s.readI c o l).toNat
    let good (s : State) (c : Cursor) : Prop := (s.core (s.crew (u s c)).core).badVault = []
    -- the lanes of a pass of 32, with the latency of its result (08 R240)
    let passes (s : State) (c : Cursor) : List (Nat × List Nat) :=
      [(24, (s.lanes c).filter fun l => decide (l < 32)), (25, (s.lanes c).filter fun l => !decide (l < 32))].filter fun p => p.2 != []
    let results (s : State) (c : Cursor) (ws : List Nat → List Write) : List Wb :=
      (passes s c).zipIdx.map fun p => { due := s.now + p.1.1, seq := (s.gangOf c).nextSeq + p.2, writes := ws p.1.2, flags := 0 }
    let tow (i : Instr) (data : State → Cursor → Nat → Nat × Nat) (regs : List PReg) : Prop :=
      Completes i fun s c t =>
        (s.lanes c = [] → t = s) ∧
        (s.lanes c ≠ [] → ¬ own s c → t = s.starting c
          { opOf c i (laneBits (s.lanes c)) with
            acc := (s.lanes c).map fun l => { lane := l, addr := off s c l, data := (data s c l).1, data2 := (data s c l).2 }
            x := (s.gangOf c).sreg ba.val, logged := true, due := s.now } regs)
    let n := sz.regs
    tow (.ldv sz d o ba) (fun _ _ _ => (0, 0)) (vGroup n d.val) ∧
    tow (.stv sz sd o ba) (fun s c l => (s.storeData c n sd l, 0)) [] ∧
    tow (.atomv op d o ba) (fun s c l => (((s.gangOf c).vreg d.val l).toNat,
      if op = .cas then ((s.gangOf c).vreg (d.val + 1) l).toNat else 0)) [.v d.val] ∧
    Completes (.ldv sz d o ba) (fun s c t => s.lanes c ≠ [] → own s c → good s c →
      t = { s with gangs := t.gangs } ∧ ∃ seen vc rel, GangOnly s t c.gang { s.gangOf c with
        wb := (s.gangOf c).wb ++ results s c fun ls => (List.range n).map fun k => .v (d.val + k) (ls.map fun l =>
          (l, BitVec.ofNat 32 (s.windowNat (u s c) (off s c l + 4 * k) 4)))
        nextSeq := (s.gangOf c).nextSeq + (passes s c).length, seenRel := seen, vcCpy := vc, vcRel := rel }) ∧
    Completes (.stv sz sd o ba) (fun s c t => s.lanes c ≠ [] → own s c →
      t = { s with gangs := t.gangs, lag := s.lag.tail } ∧ ∃ lat vc rel, lat ≤ 24 ∧ GangOnly s t c.gang { s.gangOf c with
        wb := (s.gangOf c).wb ++ [{ due := s.now + lat, seq := (s.gangOf c).nextSeq, flags := 0
                                    writes := [.vault (u s c) ((s.lanes c).flatMap fun l => (List.range (4 * n)).map fun k =>
                                      (off s c l + k, BitVec.ofNat 8 (s.storeData c n sd l / 256 ^ k))) (s.gangOf c).fenceRel] }]
        nextSeq := (s.gangOf c).nextSeq + 1, vcCpy := vc, vcRel := rel }) ∧
    Completes (.atomv op d o ba) (fun s c t => ∀ l, s.lanes c = [l] → own s c → good s c →
      (∀ e ∈ (s.gangOf c).wb, ∀ w ∈ e.writes, ∀ v bs rs, w ≠ .vault v bs rs) →
      let old := s.windowNat (u s c) (off s c l) 4
      let new := atomNew (AtomvOp.mem op) old ((s.gangOf c).vreg d.val l).toNat
        (if op = .cas then ((s.gangOf c).vreg (d.val + 1) l).toNat else 0)
      t.mem = s.mem ∧
      (∀ k, t.vaultRead (u s c) k = if off s c l ≤ k ∧ k < off s c l + 4 then BitVec.ofNat 8 (new / 256 ^ (k - off s c l))
        else s.vaultRead (u s c) k) ∧
      ∃ seen vc rel, GangOnly s t c.gang { s.gangOf c with
        wb := (s.gangOf c).wb ++ results s c fun _ => [.v d.val [(l, BitVec.ofNat 32 old)]]
        nextSeq := (s.gangOf c).nextSeq + 1, seenRel := seen, vcCpy := vc, vcRel := rel })

/-- 06 R176 to R178: a fence issues as an operation of its gang that owes no register and takes no log entry; AFENCE records its two
addresses. -/
def Obligations.FencesIssueAsHolds : Prop :=
  ∀ (sc : Scope) (p1 p2 : Path) (ax ay : AReg),
    let fences (i : Instr) (acc : State → Cursor → List LaneAcc) : Prop := Completes i fun s c t =>
      t = (s.flushedFor c i).starting c
        { opOf c i (laneBits (s.lanes c)) with acc := acc s c, due := s.now, y := BitVec.ofNat 64 (s.gangOf c).nextSeq } []
    fences (.fence sc) (fun _ _ => []) ∧ fences (.fenceX sc p1 p2) (fun _ _ => []) ∧
    fences (.afence sc ax ay) (fun s c =>
      [{ lane := 0, addr := ((s.gangOf c).areg ax.val).toNat }, { lane := 1, addr := ((s.gangOf c).areg ay.val).toNat }])

/-- 06 R182 to R184, R164: NBINIT sets the member count, clears the arrival count and advances the generation, which wakes the waits;
NBARR and NBWAIT issue as operations that owe their S register, NBWAIT with its token; NBARR arrives at issue, and its generation reaches the
register one cycle later. 06 R186 to R188: the group words issue for bits [7:0] of their operand and act only on a group of the crew's tenant;
TGARR arrives at issue where it is counted, and answers the generation, or all ones on another group. 06 R189, R190, 15 R388: EVSIG, EVWAIT with
its threshold and EVTEST are handed to the event of their tenant's name at issue. That an arrival or signal whose release is still under way
counts at issue is the model's reading (log entry 48). -/
def Obligations.SynchronisationWordsIssue : Prop :=
  (
    ∀ (d : SReg) (nb : NBReg) (cnt : Src),
      Completes (.nbinit nb cnt) (fun s c t =>
        let u := (s.gangOf c).crew
        let b := (s.crew u).nbar nb.val
        ∃ b' : NB, b'.member = (s.readO c cnt).extractLsb' 0 8 ∧ b'.arrived = 0 ∧ b'.gen = b.gen + 1 ∧
          t = (s.setCrew u ((s.crew u).setNb nb.val b')).wakeNb u nb.val) ∧
      Completes (.nbarr d nb) (fun s c t =>
        let u := (s.gangOf c).crew
        let gen : DWord := ((s.crew u).nbar nb.val).gen.setWidth 64
        t = (((s.syncing c (.nbarr d nb) [.s d.val] gen 1).arriveNb u nb.val []).2).resultS c.gang (s.gangOf c).nextTag (s.now + 1) d gen) ∧
      Completes (.nbwait d nb) (fun s c t =>
        t = (s.syncing c (.nbwait d nb) [.s d.val] ((s.gangOf c).sreg d.val)).at (s.now + 1)
          (.nbwaitComplete c.gang (s.gangOf c).nextTag))
  ) ∧
  (
    ∀ (d : SReg) (grp : Src),
      let n (s : State) (c : Cursor) : Nat := (s.readO c grp).toNat % 256
      let mine (s : State) (c : Cursor) : Prop := (s.tide (n s c)).tenant = some (s.gangOf c).tenant
      let me (s : State) (c : Cursor) : Member := .crew (s.gangOf c).crew
      Completes (.tgarr d grp) (fun s c t =>
        let gen := (s.tide (n s c)).gen
        let counts : Prop := (s.tide (n s c)).members.contains (me s c) = true ∧ (s.tide (n s c)).arrived.contains (me s c) = false
        let start (acks : Nat) : State := s.syncing c (.tgarr d grp) [.s d.val] (pack [(0, gen.toNat), (16, n s c)]) acks
        let answers (u : State) (v : DWord) : Prop := t = u.resultS c.gang (s.gangOf c).nextTag (s.now + 1) d v
        (¬ mine s c → answers (start 0) (BitVec.allOnes 64)) ∧
        (mine s c → ¬ counts → answers (start 0) (gen.setWidth 64)) ∧
        (mine s c → counts → answers ((start 1).tideArrive (n s c) (me s c) []).2 (gen.setWidth 64))) ∧
      Completes (.tgwait d grp) (fun s c t =>
        let u := s.syncing c (.tgwait d grp) [.s d.val] (pack [(0, ((s.gangOf c).sreg d.val).toNat % 65536), (16, n s c)])
        t = (u.setTide (n s c) { u.tide (n s c) with waits := (u.tide (n s c)).waits ++ [(c.gang, (s.gangOf c).nextTag)] }).at (u.now + 1)
          (.tgwaitComplete c.gang (s.gangOf c).nextTag)) ∧
      Completes (.tgjoin grp) (fun s c t =>
        (¬ mine s c → t = s) ∧
        (mine s c → (s.tide (n s c)).members = [] → t = s.setTide (n s c) { s.tide (n s c) with members := [me s c] }) ∧
        (mine s c → (s.tide (n s c)).members ≠ [] →
          ((s.tide (n s c)).members.contains (me s c) = false ∨ (s.tide (n s c)).leaving.contains (me s c) = true) →
          (s.tide (n s c)).joining.contains (me s c) = false →
          t = s.setTide (n s c) { s.tide (n s c) with joining := (s.tide (n s c)).joining ++ [me s c] })) ∧
      Completes (.tgleave grp) (fun s c t =>
        (¬ mine s c → t = s) ∧
        (mine s c → (s.tide (n s c)).members.contains (me s c) = true → (s.tide (n s c)).leaving.contains (me s c) = false →
          t = ((s.setTide (n s c) { s.tide (n s c) with
              leaving := (s.tide (n s c)).leaving ++ [me s c]
              joining := (s.tide (n s c)).joining.filter fun k => k != me s c }).tideArrive (n s c) (me s c) []).2))
  ) ∧
  (
    ∀ (d : SReg) (e : Src),
      let k (s : State) (c : Cursor) : Nat := (s.gangOf c).tenant * 65536 + (s.readO c e).toNat % 65536
      let thr (s : State) (c : Cursor) : Word := ((s.gangOf c).sreg d.val).extractLsb' 0 32
      let tower (s : State) (c : Cursor) : Nat := (s.gangOf c).core / 48
      Completes (.evsig e) (fun s c t =>
        t = (s.syncing c (.evsig e) [] (BitVec.ofNat 64 (k s c))).evOp (tower s c) 0 (k s c) (.gang c.gang (s.gangOf c).nextTag) 0 []) ∧
      Completes (.evwait d e) (fun s c t =>
        t = (s.syncing c (.evwait d e) [.s d.val] (pack [(0, (thr s c).toNat), (32, k s c)])).evOp (tower s c) 1 (k s c)
          (.gang c.gang (s.gangOf c).nextTag) (thr s c) []) ∧
      Completes (.evtest d e) (fun s c t =>
        t = (s.syncing c (.evtest d e) [.s d.val] (BitVec.ofNat 64 (k s c))).evOp (tower s c) 2 (k s c)
          (.gang c.gang (s.gangOf c).nextTag) 0 [])
  )

/-- 06 R183, R185: an arrival adds 1 to the arrival count and answers the generation in which it arrived; where the count then equals the
member count, or the member count is 0, the generation advances and the count returns to 0. 06 R186, R187: an arrival that is counted is
kept; when every member has arrived the generation advances, the leavers go and the joiners become members; one that is not counted
changes nothing; every arrival answers the generation current when it is performed. -/
def Obligations.ArrivalsCompleteGenerations : Prop :=
  (
    ∀ (s : State) (u n : Nat) (rs : List Rel),
      let b := (s.crew u).nbar n
      let b' := ((s.arriveNb u n rs).2.crew u).nbar n
      (s.arriveNb u n rs).1 = b.gen ∧ b'.member = b.member ∧
      (if b.arrived + 1 = b.member ∨ b.member = 0 then b'.gen = b.gen + 1 ∧ b'.arrived = 0
       else b'.gen = b.gen ∧ b'.arrived = b.arrived + 1)
  ) ∧
  (
    ∀ (s : State) (n : Nat) (m : Member) (rs : List Rel),
      let t := s.tide n
      let q := (s.tideArrive n m rs).2.tide n
      (s.tideArrive n m rs).1 = t.gen ∧
      ((t.members.contains m = false ∨ t.arrived.contains m = true) → (s.tideArrive n m rs).2 = s) ∧
      (t.members.contains m = true → t.arrived.contains m = false →
        (if ∀ k ∈ t.members, k = m ∨ k ∈ t.arrived then
          q.gen = t.gen + 1 ∧ q.arrived = [] ∧ q.joining = [] ∧ q.leaving = [] ∧
            ∀ k, k ∈ q.members ↔ (k ∈ t.members ∧ k ∉ t.leaving) ∨ k ∈ t.joining
         else q.gen = t.gen ∧ q.arrived = t.arrived ++ [m] ∧ q.members = t.members))
  )

/-- 06 R189, R190: the event of an operand is that of its bits [15:0] in the gang's tenant, and the events of two tenants are apart; its
count is 0 when TCREATE creates the tenant; EVSIG signals the event at issue where it is resident (15 R387; else it waits in the overflow
queue, R388), which adds 1 to the count modulo 2^32, each signal its own, and releases exactly the waiters with 0 < (count − t) mod 2^32 < 2^31 (but for those of a gang whose context is out, which test afresh at their
resume, R197); the others stay in their order. -/
def Obligations.EventSignalsReleaseTheirWaiters : Prop :=
  (∀ (s : State) (k : Nat) (who : XWho) (rs : List Rel),
    let e := s.ev k
    let q := (s.evSignal k who rs).ev k
    let passed (t : Word) : Prop := 0 < (e.count + 1 - t).toNat ∧ (e.count + 1 - t).toNat < 2 ^ 31
    q.count.toNat = (e.count.toNat + 1) % 2 ^ 32 ∧ q.waits.Sublist e.waits ∧ (∀ w, w ∈ q.waits ↔ w ∈ e.waits ∧ ¬ (passed w.2 ∧ ∀ g tag, w.1 = .gang g tag → (s.gang g).here = true)) ∧
    (∀ who' rs', (((s.evSignal k who rs).evSignal k who' rs').ev k).count.toNat = (e.count.toNat + 2) % 2 ^ 32) ∧
    (∀ j, j ≠ k → (s.evSignal k who rs).ev j = s.ev j) ∧
    ∀ tower t, s.evQueued k = false → k ∈ s.evRes →
      s.evOp tower 0 k who t rs = ({ s with evRes := k :: s.evRes.filter fun j => j != k } : State).evSignal k who rs) ∧
  (∀ (s : State) (c : Cursor) (e : Src), s.evOf c e = evKey (s.gangOf c).tenant ((s.readO c e).toNat % 65536)) ∧
  (∀ t n t' n' : Nat, n < 65536 → n' < 65536 → (evKey t n = evKey t' n' ↔ t = t' ∧ n = n')) ∧
  (∀ n : Nat, n < 65536 → Happens .tcreate (fun s => s.priv.busy = true ∧ s.priv.cend = none ∧ bits s.priv.cmdop 0 16 = 1 ∧
      (s.ten (bits s.priv.cmdop 16 3)).live = false)
    fun s t => (t.ten (bits s.priv.cmdop 16 3)).live = true ∧ (t.ev (evKey (bits s.priv.cmdop 16 3) n)).count = 0) ∧
  (∀ e : Src, Completes (.evsig e) fun s c t =>
    t = (s.syncing c (.evsig e) [] (BitVec.ofNat 64 (s.evOf c e))).evOp ((s.gangOf c).core / 48) 0 (s.evOf c e)
      (.gang c.gang (s.gangOf c).nextTag) 0 [])

/-- 06 R192: a descriptor binds only where its fields are valid; QBIND unbinds the register of the core that holds the stream, then binds
its own. 06 R194, 07 R227: QPUSH and ISLPUSH push one record for each slice of the subgang with an active lane, in ascending order, with
the lane's four registers in its 128 bits and zeros for inactive lanes; a stream that the image does not declare discards them. 06 R195,
R196, 07 R228, R229: QPOP, QPEEK and ISLRECV enter their takes in the queue's order, each slice of a QPEEK for its successive record; QDEPTH
and ISLSTAT owe the value that holds when they are performed. -/
def Obligations.QueueWordsBindPushAndTake : Prop :=
  (
    (∀ (s : State) (g : Nat) (w : DWord),
      let kind := bits w 28 4
      let b := s.binding g w
      ((kind = 0 ∨ 4 < kind ∨ 7 < bits w 16 8) → b = {}) ∧
      (1 ≤ kind → kind ≤ 2 → bits w 16 8 ≤ 7 → s.mayBind g (bits w 24 4) = true →
        b = { kind := kind, isel := bits w 24 4, stream := bits w 16 8 }) ∧
      (1 ≤ kind → kind ≤ 2 → s.mayBind g (bits w 24 4) = false → b = {}) ∧
      (3 ≤ kind → kind ≤ 4 → bits w 16 8 ≤ 7 → b = { kind := kind, isel := 0, stream := bits w 16 8 }) ∧
      (2 ≤ bits w 24 4 → (bits w 24 4 ≤ 3 ∨ 8 ≤ bits w 24 4) → s.mayBind g (bits w 24 4) = false)) ∧
    (∀ (q : QReg) (desc : Src), Completes (.qbind q desc) fun s c t => ∃ held : List (Nat × Nat),
      (∀ g r, (g, r) ∈ held ↔ (s.binding c.gang (s.readO c desc)).kind ≠ 0 ∧ ∃ x st, (g, x) ∈ s.gangs ∧ (r, st) ∈ x.q ∧
        x.here = true ∧ x.core = (s.gangOf c).core ∧ st.aside = false ∧ sameStream st.b (s.binding c.gang (s.readO c desc)) = true ∧
        ¬ (g = c.gang ∧ r = q.val)) ∧
      t = (held.foldl (fun s h => s.rebind h.1 h.2 {}) s).rebind c.gang q.val (s.binding c.gang (s.readO c desc)))
  ) ∧
  (
    (∀ (x : Gang) (vs k : Nat) (i j b : Nat), i < 4 → j < 4 → b < 32 →
      (x.record vs k).getLsbD (128 * i + 32 * j + b) =
        ((sliceAt x.slices k).mask.getLsbD i && (x.vreg (vs + j) (4 * k + i)).getLsbD b)) ∧
    (∀ (q : QReg) (vs : VReg) (mark : Bool) (tag : Src),
      let pushes (i : Instr) (tg : State → Cursor → Word) (mk : Bool) : Prop := Completes i fun s c t =>
        let b := ((s.gangOf c).qst q.val).b
        let late : Nat := if b.kind = 2 then (if b.isel < 4 then 4 else 20) else 1
        ((b.kind = 2 ∧ s.declares (s.gangOf c).core b = false) → t = s) ∧
        (¬ (b.kind = 2 ∧ s.declares (s.gangOf c).core b = false) →
          t = s.setGang c.gang ((s.gangOf c).setQ q.val { (s.gangOf c).qst q.val with
            recs := ((s.gangOf c).qst q.val).recs ++ (c.slices.filter fun k => (sliceAt (s.gangOf c).slices k).mask != 0).map fun k =>
              { bits := (s.gangOf c).record vs.val k, tag := tg s c, mark := mk, due := s.now + late
                after := (s.gangOf c).islFences c.gang b.isel } }))
      pushes (.qpush q vs) (fun _ _ => 0) false ∧
      pushes (.islpush mark q vs tag) (fun s c => (s.readO c tag).extractLsb' 0 32) mark)
  ) ∧
  (
    ∀ (q : QReg) (d : VReg) (sd : SReg) (cnt isel : Src),
      let takes (i : Instr) (peek : Bool) : Prop := Completes i fun s c t =>
        (s.lanes c = [] → t = s) ∧
        (s.lanes c ≠ [] →
          let u := s.starting c { opOf c i (laneBits (s.lanes c)) with logged := true } (vGroup 4 d.val)
          t = (u.modGang c.gang fun x => x.setQ q.val { x.qst q.val with
              waits := (x.qst q.val).waits ++ (c.slices.filter fun k => (sliceAt (s.gangOf c).slices k).mask != 0).zipIdx.map fun p =>
                { tag := (s.gangOf c).nextTag, slice := p.1, lanes := (sliceAt (s.gangOf c).slices p.1).mask, peek := peek
                  nth := if peek then p.2 else 0 } }).serveQ
            c.gang q.val (u.now + 6) 64)
      takes (.qpop d q) false ∧ takes (.qpeek d q) true ∧
      Owes (.qdepth sd q) [.s sd.val] (fun _ _ => []) ∧
      ArrivesAs (.qdepth sd q) sd (fun s g _ =>
        let st := (s.gang g).qst q.val
        let ready := (st.recs.filter fun r => decide (r.due ≤ s.now)).length
        BitVec.ofNat 64 (if st.b.kind = 1 ∨ st.b.kind = 4 then ready
          else if st.b.kind = 2 ∨ st.b.kind = 3 then 16 - st.recs.length else 0)) ∧
      Owes (.islstat sd isel) [.s sd.val] (fun _ _ => []) (fun s c => BitVec.ofNat 64 ((s.readO c isel).toNat % 16)) ∧
      ArrivesAs (.islstat sd isel) sd (fun s g x =>
        let k := x.toNat
        let i := s.island (s.gang g).core k
        if k ≤ 1 ∨ (4 ≤ k ∧ k ≤ 7) then
          (match i.img with
           | none => pack [(55, if i.err then 1 else 0)]
           | some m => pack [(55, if i.err then 1 else 0), (54, 1), (48, m.cls), (32, m.lat), (0, m.imgid.toNat)]) else 0) ∧
      Completes (.islrecv sd q cnt) (fun s c t =>
        let n := (s.readO c cnt).toNat % 512
        let u := s.starting c { opOf c (.islrecv sd q cnt) (BitVec.allOnes 64) with
          x := (s.gangOf c).sreg sd.val, y := BitVec.ofNat 64 n, logged := true } [.s sd.val]
        (s.lanes c = [] → t = s) ∧
        (s.lanes c ≠ [] → n = 0 → t = u.at (u.now + 1) (.islrecvComplete c.gang (s.gangOf c).nextTag)) ∧
        (s.lanes c ≠ [] → n ≠ 0 → t = (u.modGang c.gang fun x => x.setQ q.val { x.qst q.val with
          waits := (x.qst q.val).waits ++ [{ tag := (s.gangOf c).nextTag, slice := 0, lanes := 0, peek := false }] }).serveQ
            c.gang q.val 0 64))
  )

/-- 07 R204, R215: SHAPE owes the crew's H register the record of four S registers, its reserved bit W1[39] zero (00 R10), which is written when the result arrives, after those of
earlier SHAPEs of the register (01 R19); CPSTAT owes the status of the copies of an H register, taken when it is performed, and then clears its
ERR. 07 R199, R206, R207: a copy word with an active lane adds one part, of its
gang and with its range, displacement and rounding, to the copy of its H register, which the first part starts with the record of that
moment; the last of NPARTS parts starts the copy; with no active lane the word has no effect. -/
def Obligations.ShapeAndCopyWords : Prop :=
  (
    ∀ (h : HReg) (sk d : SReg),
      let u (s : State) (c : Cursor) : Nat := (s.gangOf c).crew
      Completes (.shape h sk) (fun s c t => ∃ due,
        let written (e : Nat × Nat × List Write) : Prop := ∃ r, Write.h (u s c) h.val r ∈ e.2.2
        (∀ p ∈ s.gangs, p.2.crew = u s c → ∀ e ∈ p.2.arr, written e → e.1 < due) ∧
        s.now + 1 + s.lag.headD 0 ≤ due ∧
        ((∀ p ∈ s.gangs, p.2.crew = u s c → ∀ e ∈ p.2.arr, ¬ written e) → due = s.now + 1 + s.lag.headD 0) ∧
        t = s.lagged.setGang c.gang
          { (s.gangOf c).owing s.now { opOf c (.shape h sk) (BitVec.allOnes 64) with logged := true } [.h h.val] (BitVec.allOnes 64) with
            arr := (s.gangOf c).arr ++ [(due, (s.gangOf c).nextTag, [.h (u s c) h.val
              { valid := true, w0 := (s.gangOf c).sreg sk.val, w1 := (s.gangOf c).sreg (sk.val + 1) &&& ~~~(1#64 <<< 39)
                w2 := (s.gangOf c).sreg (sk.val + 2), w3 := (s.gangOf c).sreg (sk.val + 3) }])] }) ∧
      Owes (.cpstat d h) [.s d.val] (fun _ _ => []) ∧
      ArrivesAs (.cpstat d h) d (fun s g _ =>
        let cr := s.crew (s.gang g).crew
        let gathered : Nat := match cr.copies.find? fun p => p.h == h.val && !p.started with
          | some p => p.parts.length
          | none => 0
        let running := (cr.copies.filter fun p => p.h == h.val && p.started && !p.moved).length
        pack [(0, gathered), (8, running), (16, if h.val ∈ cr.cperr then 1 else 0)]) ∧
      (∀ (g tag due : Nat) (o : Op), Happens (.variableResultArrival g) (fun s => (s.gang g).arrival s.now = some (due, tag, []) ∧
          s.op? g tag = some o ∧ o.i = .cpstat d h)
        fun s t => (t.crew (s.gang g).crew).cperr = (s.crew (s.gang g).crew).cperr.filter fun k => k != h.val)
  ) ∧
  (
    ∀ (f m : Bool) (h : HReg) (rng : Src) (nb : NBReg),
      let parts (i : Instr) (kind : CopyKind) (wants tomem : Bool) : Prop := Completes i fun s c t =>
        let u := (s.gangOf c).crew
        let w := s.readO c rng
        let rm := (s.gangOf c).mode.toNat % 8
        (s.lanes c = [] → t = { s with cur := t.cur }) ∧
        (s.lanes c ≠ [] → u < 2 ^ 40 → (s.crew u).numbered →
          let old := (s.crew u).copies.find? fun p => p.h == h.val && !p.started
          let n : Nat := (old.map fun p => p.parts.length).getD 0
          let sh := (old.map fun p => p.sh).getD ((s.crew u).shape h.val)
          (t.crew u).numbered ∧
          ∃ cp, cp ∈ (t.crew u).copies ∧ cp.h = h.val ∧ cp.sh = sh ∧ cp.parts.length = n + 1 ∧ cp.started = decide (sh.nparts ≤ n + 1) ∧
            (old = none → cp.kind = kind ∧ cp.nb = nb.val ∧ cp.tomem = tomem) ∧
            ∃ p, cp.parts.getLast? = some p ∧ p.gang = c.gang ∧ p.first = bits w 0 16 ∧ p.count = bits w 16 16 ∧
              p.disp = (w.extractLsb' 32 32).toInt ∧ p.rm = rm ∧ p.wants = wants)
      parts (.copy f m h rng nb) .dense f m ∧ parts (.copyCsr h rng nb) .csr false false ∧
      parts (.copyPlane f m h rng nb) .plane f m ∧ parts (.copyQ h rng nb) .stream false false
  )

/-- 07 R213, R216 to R221; 11 R313, R314: a matrix word with an active lane is accepted by the engine of its core, with copies of the
records that it names, and its MSTAT goes to its gang; behind copies of its packet that ask for a follow-on it is attached to their parts
instead; with no active lane it does nothing. 07 R222 to R224, R226: MACQ puts the token in TRANSFER with the token pending, MREL returns
it; MLDA owes four rows of the set in its active lanes, MSTA writes them at once; MCLR clears the set at issue under HELD, and is queued
under ENGINE; ADINV drops the entries of its ADID from the cache of its crew, which has one while it owns the tokens (01 R20). -/
def Obligations.MatrixTokenAndAccumulatorWords : Prop :=
  (
    ∀ (tr : TReg) (ha hb : HReg) (sv : SReg) (qa : QReg) (dsc : Src),
      let rec_ (s : State) (c : Cursor) (h : HReg) : Shape := Sparse.get {} (s.crew (s.gangOf c).crew).h h.val
      let word (i : Instr) (x : State → Cursor → DWord) (a : State → Cursor → Shape) (rows : State → Cursor → Nat) : Prop :=
        Completes i fun s c t =>
          let k := (s.gangOf c).core
          (s.lanes c = [] → c.parts = [] → t = s) ∧
          (s.lanes c ≠ [] → c.parts = [] → (match i with | .mmaQ .. => ((s.gangOf c).qst qa.val).b.kind ∈ [1, 3] | _ => True) →
            ∃ mi, (t.core k).minsts = (s.core k).minsts ++ [mi] ∧ mi.id = (s.core k).nextInst ∧ (t.core k).nextInst = mi.id + 1 ∧
              mi.i = i ∧ mi.tok = tr.val ∧ mi.sv = x s c ∧ mi.a = a s c ∧ mi.b = rec_ s c hb ∧ mi.m = rows s c ∧ mi.gangs = [c.gang] ∧
              mi.crew = (s.gangOf c).crew ∧ mi.rm = (s.gangOf c).mode.toNat % 8 ∧ mi.ord = (s.gangOf c).mode.getLsbD 4 ∧
              mi.adtab = (s.crew (s.gangOf c).crew).adtab ∧ mi.adcfg = (s.crew (s.gangOf c).crew).adcfg ∧
              mi.next = 0 ∧ mi.passes = 0 ∧ mi.err = false ∧
              (t.gang c.gang).mid = mi.id ∧ (t.gang c.gang).mtx = (s.gangOf c).mtx + 1) ∧
          (s.lanes c ≠ [] → c.parts ≠ [] →
            t.cores = s.cores ∧ t.gangs = s.gangs ∧
            ∀ p ∈ c.parts, ∀ cp, s.copy? p.1 = some cp → p.2 < cp.parts.length → ∃ cp' q, t.copy? p.1 = some cp' ∧
              cp'.parts[p.2]? = some q ∧ q.follow = some { i := i, x := x s c, a := a s c, b := rec_ s c hb })
      word (.mma tr ha hb) (fun _ _ => 0) (fun s c => rec_ s c ha) (fun s c => (rec_ s c ha).outer) ∧
      word (.mmaI tr ha hb) (fun _ _ => 0) (fun s c => rec_ s c ha) (fun s c => (rec_ s c ha).outer) ∧
      word (.mmaAd tr ha hb sv) (fun s c => (s.gangOf c).sreg sv.val) (fun s c => rec_ s c ha) (fun s c => (rec_ s c ha).outer) ∧
      word (.mmaQ tr qa hb dsc) (fun s c => s.readO c dsc) (fun _ _ => {}) (fun s c => bits (s.readO c dsc) 0 7)
  ) ∧
  (
    ∀ (tr : TReg) (d : VReg) (pos : Src),
      let core (s : State) (c : Cursor) : Nat := (s.gangOf c).core
      let row (s : State) (c : Cursor) (k : Nat) : Nat := ((s.readO c pos).toNat % 64 + k) % 64
      let col (s : State) (c : Cursor) (l : Nat) : Nat := ((s.readO c pos).toNat / 256 % 128 + l) % 128
      Completes (.macq tr) (fun s c t =>
        t = ((s.starting c { opOf c (.macq tr) (BitVec.allOnes 64) with logged := true } [.t tr.val]).modCore (core s c) fun k =>
          { k with toks := k.toks.set tr.val (.transfer c.gang (s.gangOf c).nextTag) }).at (s.now + 1) (.macqComplete c.gang tr)) ∧
      Completes (.mrel tr) (fun s c t => t = s.modCore (core s c) fun k => { k with toks := k.toks.set tr.val .engine }) ∧
      Completes (.mlda d tr pos) (fun s c t =>
        (s.lanes c = [] → t = s) ∧
        (s.lanes c ≠ [] →
          t = (s.lagged.starting c { opOf c (.mlda d tr pos) (laneBits (s.lanes c)) with logged := true } (vGroup 4 d.val)).modGang c.gang
            fun x => { x with arr := x.arr ++ [(s.now + 8 + s.lag.headD 0, (s.gangOf c).nextTag,
              (List.range 4).map fun k => .v (d.val + k) ((s.lanes c).map fun l =>
                (l, Sparse.get 0 (s.core (core s c)).acc (accKey tr.val (row s c k) (col s c l)))))] })) ∧
      Completes (.msta d tr pos) (fun s c t => ∃ acc : Sparse Word,
        t = s.modCore (core s c) (fun k => { k with acc := acc }) ∧
        ((∀ l ∈ s.lanes c, l < 64) → ∀ l ∈ s.lanes c, ∀ k, k < 4 →
          Sparse.get 0 acc (accKey tr.val (row s c k) (col s c l)) = (s.gangOf c).vreg (d.val + k) l) ∧
        (∀ n, (∀ l ∈ s.lanes c, ∀ k, k < 4 → n ≠ accKey tr.val (row s c k) (col s c l)) →
          Sparse.get 0 acc n = Sparse.get 0 (s.core (core s c)).acc n)) ∧
      Completes (.mclr tr) (fun s c t =>
        let k := core s c
        (((s.core k).tok tr.val).isEngine = false → ∃ acc : Sparse Word,
          t = s.modCore k (fun x => { x with acc := acc }) ∧
          (∀ r q, r < 64 → q < 128 → Sparse.get 0 acc (accKey tr.val r q) = 0) ∧
          (∀ n, n / 8192 ≠ tr.val → Sparse.get 0 acc n = Sparse.get 0 (s.core k).acc n)) ∧
        (((s.core k).tok tr.val).isEngine = true → ∃ mi, mi.i = .mclr tr ∧ mi.tok = tr.val ∧ mi.gangs = [] ∧
          t = s.modCore k (fun x => { x with minsts := x.minsts ++ [mi], nextInst := x.nextInst + 1 }))) ∧
      Completes (.adinv pos) (fun s c t =>
        (s.lanes c = [] → t = s) ∧
        (s.lanes c ≠ [] → let u := (s.gangOf c).crew
          ((s.core (s.crew u).core).tokOwner = some u → t = s.modCore (s.crew u).core fun k => k.dropAdapters ((s.readO c pos).toNat % 4096)) ∧
          ((s.core (s.crew u).core).tokOwner ≠ some u → t = s)))
  )

/-- 07 R230, 01 R21 to R27: RDSR reads MODE, FLAGS and an MSTAT at rest after 2 cycles, waits for an MSTAT in flight, and owes the others;
WRSR writes MODE and FLAGS after 2 cycles, ADTAB always and ADCFG when its SIZE and BASE are valid. 07 R231 to R234: TRAP has its gang
stop at the next packet with cause 14, its code and slot; BRKPT that reaches issue and NOP change nothing; DBGMARK starts a
trace entry while TRACE is 1, which is sent to the ring with a release at HOST scope once its gang's earlier accesses are performed (19 R444); END and HALT end the gang after the packet; SLEEP keeps the gang from issuing; GETINFO owes its item. -/
def Obligations.StatusAndSystemWords : Prop :=
  (
    ∀ (d : SReg) (src : Src),
      let owed (n : BitVec 16) (v : State → Cursor → DWord) : Prop := Owes (.rdsr d n) [.s d.val] fun s c => [.s d.val (v s c)]
      WholeResult (.rdsr d 0) 2 (fun s c => .s d.val ((s.gangOf c).mode.setWidth 64)) ∧
      WholeResult (.rdsr d 1) 2 (fun s c => .s d.val ((s.gangOf c).flags.setWidth 64)) ∧
      Completes (.rdsr d 2) (fun s c t =>
        (s.pendingFollow c.gang = none → s.youngest c.gang = none → InFlight s t c.gang 2 [.s d.val (s.gangOf c).mstat] 0) ∧
        (s.pendingFollow c.gang = none → ∀ m, s.youngest c.gang = some m →
          t = s.starting c { opOf c (.rdsr d 2) (BitVec.allOnes 64) with logged := true, x := BitVec.ofNat 64 m.id } [.s d.val]) ∧
        (∀ k, s.pendingFollow c.gang = some k →
          t = s.starting c { opOf c (.rdsr d 2) (BitVec.allOnes 64) with logged := true, x := BitVec.ofNat 64 k, y := 2 } [.s d.val])) ∧
      owed 3 (fun s c => (s.gangOf c).tstat) ∧ owed 4 (fun s c => (s.gangOf c).tpc.extractLsb' 0 64) ∧
      owed 5 (fun s c => ((s.gangOf c).tpc.extractLsb' 64 16).setWidth 64) ∧ owed 6 (fun s c => (s.gangOf c).tmask) ∧
      owed 7 (fun s c => (s.crew (s.gangOf c).crew).adtab) ∧ owed 8 (fun s c => (s.crew (s.gangOf c).crew).adcfg) ∧
      owed 9 (fun s c => (s.ten (s.gangOf c).tenant).dbgctl &&& 1) ∧
      HasResult (.wrsr 0 src) (fun _ _ => 2) (fun s c => [.mode ((s.readS c src).extractLsb' 0 32 &&& 0x7F1F)]) (fun _ _ => 0) ∧
      HasResult (.wrsr 1 src) (fun _ _ => 2) (fun s c => [.flags ((s.readS c src).extractLsb' 0 32 &&& 0x7F)]) (fun _ _ => 0) ∧
      Completes (.wrsr 7 src) (fun s c t =>
        t = (s.modCrew (s.gangOf c).crew fun cr => { cr with adtab := s.readS c src }).dropAdapters (s.gangOf c).crew 0) ∧
      Completes (.wrsr 8 src) (fun s c t =>
        let w := s.readS c src
        (bits w 32 5 ≤ 16 ∧ bits w 0 32 % 65536 = 0 →
          t = (s.modCrew (s.gangOf c).crew fun cr => { cr with adcfg := (w.extractLsb' 0 37).setWidth 64 }).dropAdapters
            (s.gangOf c).crew 0) ∧
        (¬ (bits w 32 5 ≤ 16 ∧ bits w 0 32 % 65536 = 0) → t = s))
  ) ∧
  (
    ∀ (d : SReg) (code : BitVec 16) (a : Src),
      Completes (.trap code) (fun s c t => t = s.setGang c.gang { s.gangOf c with
        trapNext := some (pack [(0, 14), (8, c.slot), (16, code.toNat), (32, 0)], 0) }) ∧
      Completes (.brkpt code) (fun s _ t => t = s) ∧
      Completes .nop (fun s _ t => t = s) ∧
      Completes (.dbgmark code) (fun s c t =>
        let tn := s.ten (s.gangOf c).tenant
        (tn.dbgctl.getLsbD 1 = false → t = s) ∧
        (tn.dbgctl.getLsbD 1 = true → t = s.syncing c (.dbgmark code) [] (BitVec.ofNat 64 s.now))) ∧
      (∀ (g : Nat) (o : Op) (l : List Op),
        Happens (.variableResultArrival g) (fun s => (s.gang g).here = true ∧ (s.gang g).arr = [] ∧ (s.gang g).ops = o :: l ∧ o.due ≤ s.now ∧
            o.i = .dbgmark code ∧ (s.gang g).faulted = false ∧ (∀ p ∈ l, o.tag < p.tag) ∧ (s.gang g).vaultOut o.y.toNat = false ∧
            o.fence = none ∧ s.flushCore (s.gang g).core = s ∧ s.coreOut (s.gang g).core (s.core (s.gang g).core).wseq = false ∧ (s.gang g).gid < 16 ∧ (s.gang g).quarter < 4 ∧ (s.gang g).core < 96 ∧
            s.isDevice (bits (s.ten (s.gang g).tenant).trbase 12 40 * 4096 + 32 * (s.traceNext (s.gang g).tenant %
              2 ^ ringLog (s.ten (s.gang g).tenant).trsize)) = true) fun s t =>
          let x := s.gang g
          let n := s.traceNext x.tenant
          let tn := s.ten x.tenant
          RingWrites s t (bits tn.trbase 12 40 * 4096 + 32 * (n % 2 ^ ringLog tn.trsize)) (.trace x.tenant)
            [o.x.toNat, (pcAddr o.pc).toNat % 2 ^ 64,
             (pcAddr o.pc).toNat / 2 ^ 64 * 2 ^ 48 + code.toNat * 2 ^ 32 + x.gid * 2 ^ 28 + x.quarter * 2 ^ 26 + x.core % 48 * 2 ^ 20 +
               x.core / 48 * 2 ^ 19,
             (s.crew x.crew).idx % 2 ^ 32 * 2 ^ 32 + n % 2 ^ 32]) ∧
      Completes .endGang (fun s c t => t = { s with cur := some { c with fin := true } }) ∧
      Completes .halt (fun s c t => ∃ others : List Nat,
        (∀ g, g ∈ others ↔ g ≠ c.gang ∧ ∃ x, (g, x) ∈ s.gangs ∧ x.crew = (s.gangOf c).crew) ∧
        t = { (others.foldl (fun s g => s.endGang g) s).askCancel (s.crew (s.gangOf c).crew).lent 2 with
          cur := some { c with fin := true } }) ∧
      Completes (.sleep a) (fun s c t =>
        let n := min ((s.readS c a).extractLsb' 0 32).toNat 65535
        t = (s.setGang c.gang { s.gangOf c with notBefore := max (s.gangOf c).notBefore (s.now + n + 1) }).at (s.now + n + 1)
          (.sleepExpiry c.gang)) ∧
      Owes (.getinfo d a) [.s d.val] (fun s c =>
        let x := s.gangOf c
        let cr := s.crew x.crew
        let place : DWord := pack [(0, x.core / 48), (1, x.core % 48 / 8), (4, x.core % 48 % 8), (8, x.quarter)]
        let items : List DWord := [1, 0x8400, Config.stepping.setWidth 64, place, BitVec.ofNat 64 cr.pos, BitVec.ofNat 64 cr.wsize,
          BitVec.ofNat 64 x.width, BitVec.ofNat 64 x.nv, BitVec.ofNat 64 x.tenant]
        [.s d.val (items.getD ((s.readS c a).toNat % 256) 0)])
  )

/-- 01 R30, R31, R46; 03 R97; 07 R231 to R233: a packet that decodes issues the words of its first chain group and keeps the others, with
the control words above the lowest as NOPs (04 R118); a packet with an UNDEF case stops its gang before any word issues; TRAP, BRKPT, a
hardware breakpoint and matrix stepping stop it before the packet, and a breakpoint does not stop again as the gang goes on; a packet that
would stop a gang which holds a data fault is the stop point of that fault, which is reported instead. -/
def Obligations.PacketsIssueOrStopBeforeIssue : Prop :=
  ∀ (s : State) (g : Nat) (sub : List Nat),
    let x := s.gang g
    let pc := (sliceAt x.slices (sub.headD 0)).pc
    let stoppedAs (y : Gang) (ts mask : DWord) : Prop := ∃ t, exec (.packetDecode g) s = .next t ∧
      t.gang g = { y with tstat := ts, tpc := pcAddr pc, tmask := mask, stop := some .software, resume := none, parked := false
                          trapNext := none }
    let reported : Prop := ∀ o, x.ops.find? (fun o => o.fault.isSome) = some o → (o.fault = some .page → o.refused = true) →
      ∃ k, o.fault = some k ∧ stoppedAs x (pack [(0, FaultKind.cause k), (8, o.slot)]) o.held
    let goesOn : Prop := x.trapNext = none ∧ x.mstep = false ∧ x.stopNext = false
    s.nextOf g = some (.packet sub) →
    (∀ ts m, x.trapNext = some (ts, m) → stoppedAs x ts m) ∧
    (x.trapNext = none → x.mstep = true → x.faulted = false → stoppedAs { x with mstep := false } (pack [(0, 13), (32, 9)]) 0) ∧
    (x.trapNext = none → x.mstep = true → x.faulted = true → reported) ∧
    (x.trapNext = none → x.mstep = false → x.stopNext = true → reported) ∧
    (goesOn → ∀ p, s.fetch g pc = .packet p →
      (∀ k slot, x.skipHw ≠ some pc → s.breakpoint x.tenant pc p.isExpr = some (k, slot) →
        (x.faulted = false → stoppedAs { x with skipHw := some pc } (pack [(0, 13), (8, slot), (32, k + 1)]) 0) ∧
        (x.faulted = true → reported)) ∧
      ((x.skipHw = some pc ∨ s.breakpoint x.tenant pc p.isExpr = none) →
        let s' := (s.xlate x.core x.tenant (pcAddr pc).toNat needX).2
        (∀ k, s'.decodePacket g p = .error k →
          (x.faulted = false → stoppedAs x (pack [(0, 1), (8, k)]) 0) ∧ (x.faulted = true → reported)) ∧
        (∀ ws, s'.decodePacket g p = .ok ws →
          let brk := ws.findSome? fun w => match w.i with | .brkpt code => some (w.slot, code) | _ => none
          (∀ k code, x.skipBrk ≠ some pc → brk = some (k, code) →
            (x.faulted = false → stoppedAs { x with skipBrk := some pc } (pack [(0, 13), (8, k), (16, code.toNat)]) 0) ∧
            (x.faulted = true → reported)) ∧
          ((x.skipBrk = some pc ∨ brk = none) → s'.logStop g sub ((chainGroups ws).headD []) = false →
            ∃ t c, exec (.packetDecode g) s = .next t ∧ t.cur = some c ∧ c.gang = g ∧ c.pc = pc ∧ c.slices = sub ∧
              c.words = (chainGroups ws).headD [] ∧ c.groups = (chainGroups ws).drop 1 ∧
              t.gang g = { x with lastIssue := s.now + 1, resume := none }) ∧
          ((x.skipBrk = some pc ∨ brk = none) → s'.logStop g sub ((chainGroups ws).headD []) = true → reported))))

/-- 01 R22, R24, R25, R36, R39, R49; 16 R402: a result that is due becomes visible at the start of its cycle: its register, or the pair of its
registers, in its lanes only, and its flags ORed into FLAGS; nothing else of the gang changes but the list of results, and nothing outside the
gang. A reserved RM code leaves RM unchanged. The V registers of a gang that a borrow has set aside lie in the spill area of its core, and
receive it there. 01 R40: of two writes to one register in one cycle the younger takes effect, whichever was listed first, and an older one
that is still in flight loses the registers and lanes that a younger one has written. -/
def Obligations.ResultsBecomeVisible : Prop :=
  (∀ (s : State) (g : Nat) (e : Wb) (w : Write),
    let x := s.gang g
    s.phase = 0 → (x.wb.map (·.seq)).Nodup → x.wb.filter (fun y => y.dueIn s.now 0) = [e] → e.writes = [w] →
    ∃ t, exec (.resultWriteback g) s = .next t ∧
      let y := t.gang g
      let fl : Word := x.flags ||| e.flags.setWidth 32
      (∀ z ∈ y.wb, z.dueIn s.now 0 = false) ∧
      (∀ r v, w = .s r v → t = s.setGang g { x with s := Sparse.set 0 x.s r v, flags := fl, wb := y.wb }) ∧
      (∀ r v, w = .a r v → t = s.setGang g { x with a := Sparse.set 0 x.a r v, flags := fl, wb := y.wb }) ∧
      (∀ r v, w = .k r v → t = s.setGang g { x with k := Sparse.set 0 x.k r (v &&& widthMask x.width), flags := fl, wb := y.wb }) ∧
      (∀ v, w = .mode v → t = s.setGang g { x with
        mode := if v.toNat % 8 < 5 then v else (v &&& ~~~(7 : Word)) ||| (x.mode &&& 7), flags := fl, wb := y.wb }) ∧
      (∀ v, w = .flags v → t = s.setGang g { x with flags := v ||| e.flags.setWidth 32, wb := y.wb }) ∧
      (∀ m, w = .k7 m → t = s.setGang g { x with k := Sparse.set 0 x.k 7 (x.kreg 7 ||| (m &&& widthMask x.width)), flags := fl, wb := y.wb }) ∧
      (∀ ms, w = .exec ms → t = s.setGang g { x with slices := y.slices, flags := fl, wb := y.wb } ∧ y.slices.length = x.slices.length ∧
        ∀ n q, x.slices[n]? = some q → y.slices[n]? = some (match ms.lookup n with
          | some m => if q.live then { q with mask := m &&& ~~~(q.stack.foldl (fun h e => h ||| e.2) 0) } else q
          | none => q)) ∧
      (∀ r vals, w = .v r vals → x.spilled = false → (vals.map (·.1)).Nodup → (∀ p ∈ vals, p.1 < 64) →
        t = s.setGang g { x with v := y.v, badV := y.badV, flags := fl, wb := y.wb } ∧
        (∀ b, b ∈ y.badV ↔ b ∈ x.badV ∧ ¬ (b.1 = r ∧ ∃ p ∈ vals, p.1 = b.2)) ∧
        ∀ r' l, l < 64 → y.vreg r' l = if r' = r then (vals.lookup l).getD (x.vreg r l) else x.vreg r' l) ∧
      (∀ r vals, w = .v r vals → x.spilled = true → (vals.map (·.1)).Nodup →
        y.v = x.v ∧ t.gang g = { x with badV := y.badV, flags := fl, wb := y.wb } ∧
        ∀ l v, (l, v) ∈ vals → ∀ k, k < 4 →
          Sparse.get 0 (t.core x.core).vault (3670016 + 131072 * x.quarter + x.rbase + 4 * (r * x.width + l) + k) = v.extractLsb' (8 * k) 8)) ∧
  (∀ (s : State) (g : Nat) (e : Wb) (r : Nat) (lo hi : List (Nat × Word)),
    let x := s.gang g
    s.phase = 0 → (x.wb.map (·.seq)).Nodup → x.wb.filter (fun y => y.dueIn s.now 0) = [e] → e.writes = [.v r lo, .v (r + 1) hi] →
    x.spilled = false → (lo.map (·.1)).Nodup → (hi.map (·.1)).Nodup → (∀ p ∈ lo ++ hi, p.1 < 64) →
    ∃ t, exec (.resultWriteback g) s = .next t ∧ (t.gang g).flags = x.flags ||| e.flags.setWidth 32 ∧
      ∀ r' l, l < 64 → (t.gang g).vreg r' l =
        if r' = r then (lo.lookup l).getD (x.vreg r l) else if r' = r + 1 then (hi.lookup l).getD (x.vreg (r + 1) l) else x.vreg r' l) ∧
  (∀ (s : State) (g : Nat) (e f : Wb) (w w' : Write),
    let x := s.gang g
    s.phase = 0 → (x.wb.map (·.seq)).Nodup → x.wb.filter (fun y => y.dueIn s.now 0) = [e, f] → e.writes = [w] → f.writes = [w'] →
    ∃ t, exec (.resultWriteback g) s = .next t ∧
      let y := t.gang g
      ((∀ v, w ≠ .flags v ∧ w' ≠ .flags v) → y.flags = x.flags ||| e.flags.setWidth 32 ||| f.flags.setWidth 32) ∧
      (∀ r v v', w = .s r v → w' = .s r v' → ∀ r', y.sreg r' = if r' = r then (if e.seq < f.seq then v' else v) else x.sreg r') ∧
      (∀ r v v', w = .a r v → w' = .a r v' → ∀ r', y.areg r' = if r' = r then (if e.seq < f.seq then v' else v) else x.areg r') ∧
      (∀ r v v', w = .k r v → w' = .k r v' →
        ∀ r', y.kreg r' = if r' = r then (if e.seq < f.seq then v' else v) &&& widthMask x.width else x.kreg r') ∧
      (∀ r vals vals', w = .v r vals → w' = .v r vals' → x.spilled = false → (vals.map (·.1)).Nodup → (vals'.map (·.1)).Nodup →
        (∀ p ∈ vals ++ vals', p.1 < 64) → ∀ r' l, l < 64 → y.vreg r' l =
          if r' ≠ r then x.vreg r' l
          else if e.seq < f.seq then (vals'.lookup l).getD ((vals.lookup l).getD (x.vreg r l))
          else (vals.lookup l).getD ((vals'.lookup l).getD (x.vreg r l)))) ∧
  (∀ (s : State) (g : Nat) (e z : Wb) (w : Write),
    let x := s.gang g
    s.phase = 0 → (x.wb.map (·.seq)).Nodup → x.wb.filter (fun y => y.dueIn s.now 0) = [e] → e.writes = [w] → z ∈ x.wb → z.due > s.now →
    ∃ t, exec (.resultWriteback g) s = .next t ∧ ∃ z' ∈ (t.gang g).wb, z'.due = z.due ∧ z'.seq = z.seq ∧ z'.flags = z.flags ∧
      (e.seq < z.seq → z' = z) ∧
      (z.seq < e.seq →
        (∀ r v, w = .s r v → ∀ q, q ∈ z'.writes ↔ q ∈ z.writes ∧ ∀ v', q ≠ .s r v') ∧
        (∀ r v, w = .a r v → ∀ q, q ∈ z'.writes ↔ q ∈ z.writes ∧ ∀ v', q ≠ .a r v') ∧
        (∀ r v, w = .k r v → ∀ q, q ∈ z'.writes ↔ q ∈ z.writes ∧ ∀ v', q ≠ .k r v') ∧
        (∀ v, w = .mode v → ∀ q, q ∈ z'.writes ↔ q ∈ z.writes ∧ ∀ v', q ≠ .mode v') ∧
        (∀ v, w = .flags v → ∀ q, q ∈ z'.writes ↔ q ∈ z.writes ∧ ∀ v', q ≠ .flags v') ∧
        (∀ r vals, w = .v r vals →
          (∀ q ∈ z.writes, (∀ l, q ≠ .v r l) → q ∈ z'.writes) ∧
          (∀ old, .v r old ∈ z.writes → ∀ p ∈ old, p.1 ∉ vals.map (·.1) → ∃ l, .v r l ∈ z'.writes ∧ p ∈ l) ∧
          ∀ l, .v r l ∈ z'.writes → ∀ p ∈ l, p.1 ∉ vals.map (·.1) ∧ ∃ old, .v r old ∈ z.writes ∧ p ∈ old)))

/-- 01 R41, R43, R45, R46, R47; 07 R232, R234; 09 R271; 15 R386: results arrive and end their marks, a park ends, a data fault holds its
lanes, of which those of a page fault are reported first, a resumed gang has its held operations go on, a SLEEP ends, a gang that outstays a
cancel ends. 20 R465: with ECC off a memory access meets no uncorrectable error. That a gang whose park waits for an engine ends by the timeout
too is the model's choice (log entry 57). -/
def Obligations.ArrivalsParksFaultsAndResumes : Prop :=
  ∀ (g tag : Nat),
    (∀ due r v, Happens (.variableResultArrival g) (fun s => (s.gang g).arrival s.now = some (due, tag, [.s r v])) fun s t =>
      (∀ r', (t.gang g).sreg r' = if r' = r then v else (s.gang g).sreg r') ∧
      (∀ p, p ∈ (t.gang g).pend ↔ p ∈ (s.gang g).pend ∧ p.tag ≠ tag) ∧ (t.gang g).v = (s.gang g).v ∧ t.mem = s.mem) ∧
    (∀ due r vals, (vals.map (·.1)).Nodup → (∀ p ∈ vals, p.1 < 64) → vals ≠ [] →
      Happens (.variableResultArrival g) (fun s => (s.gang g).arrival s.now = some (due, tag, [.v r vals]) ∧ (s.gang g).spilled = false) fun s t =>
      (∀ r' l, l < 64 → (t.gang g).vreg r' l = if r' = r then (vals.lookup l).getD ((s.gang g).vreg r l) else (s.gang g).vreg r' l) ∧
      (∀ p ∈ (t.gang g).pend, p.tag = tag → ∀ q ∈ vals, p.lanes.getLsbD q.1 = false) ∧
      (t.gang g).s = (s.gang g).s ∧ t.mem = s.mem) ∧
    (∀ o, Happens (.variableResultArrival g) (fun s => (s.gang g).arrival s.now = none ∧ (s.gang g).mover s.now = some o)
      fun s t => t = s.moveOp g o) ∧
    Happens (.switchParkEnd g) (fun s => (s.gang g).parked = true ∧ (s.gang g).pend = [] ∧ (s.gang g).cancelAt = none)
      (fun s t => t = s.setGang g { s.gang g with parked := false }) ∧
    Happens (.switchParkEnd g) (fun s => (s.gang g).parked = true ∧ (s.gang g).pend = [] ∧
        ∃ k, (s.gang g).cancelAt = some k ∧ k < (s.gang g).lastIssue)
      (fun _ t => ∀ k ∈ (t.gang g).slices, k.live = false) ∧
    (∀ k lanes o, Happens (.dataFault g tag k lanes) (fun s => s.op? g tag = some o ∧ o.logged = true ∧ lanes &&& o.lanes ≠ 0 ∧
        ¬ (k = .uncorrectable ∧ s.life.eccOff = true ∧ vaultAddr o.i = none) ∧ ∃ q ∈ (s.gang g).slices, q.live = true) fun s t =>
      (t.gang g).faulted = true ∧ (t.gang g).parked = false ∧ ((s.gang g).parked = true → (t.gang g).stopNext = true) ∧
      (t.gang g).v = (s.gang g).v ∧ (t.gang g).pend = (s.gang g).pend ∧
      ∃ o', t.op? g tag = some o' ∧
        (o.fault = none → o'.fault = some k ∧ o'.held = lanes &&& o.lanes) ∧
        (o.fault = some k → o'.fault = some k ∧ o'.held = o.held ||| (lanes &&& o.lanes)) ∧
        (∀ f, o.fault = some f → f ≠ k → k = .page → o'.fault = some .page ∧ o'.held = lanes &&& o.lanes ∧
          ∃ w, (f, w) ∈ o'.also ∧ o.held &&& ~~~w = 0) ∧
        (∀ f, o.fault = some f → f ≠ k → k ≠ .page → o'.fault = some f ∧ o'.held = o.held ∧
          ∃ w, (k, w) ∈ o'.also ∧ (lanes &&& o.lanes) &&& ~~~w = 0) ∧
        ∀ a ∈ o'.acc, (lanes &&& o.lanes).getLsbD a.lane = true → a.st = .held) ∧
    (∀ lanes o, Happens (.dataFault g tag .uncorrectable lanes) (fun s => s.op? g tag = some o ∧ s.life.eccOff = true ∧ vaultAddr o.i = none)
      fun s t => t = s) ∧
    Happens (.gangResume g) (fun s => (s.gang g).stop = some .software ∧ (s.gang g).aside = false ∧ (s.gang g).here = true) (fun s t =>
      let x := s.gang g
      let y := t.gang g
      y = { x with stop := none, faulted := false, stopNext := false, lastSlice := y.lastSlice
                   parked := x.stopNext && !x.pend.isEmpty, ops := y.ops } ∧
      (y.ops.map (·.tag) = x.ops.map (·.tag)) ∧ ∀ o ∈ y.ops, o.fault = none ∧ o.held = 0 ∧ o.also = [] ∧ o.refused = false ∧ ∀ a ∈ o.acc, a.st ≠ .held) ∧
    Happens (.sleepExpiry g) (fun s => 0 < (s.gang g).notBefore ∧ (s.gang g).notBefore ≤ s.now)
      (fun s t => t = s.setGang g { s.gang g with notBefore := 0 }) ∧
    Happens (.cancelTimeout g) (fun s => (s.gang g).here = true ∧ ((s.gang g).resume = none ∨ (s.gang g).stop ≠ none) ∧
        ∃ k, (s.gang g).cancelAt = some k ∧ k + 65536 ≤ s.now ∧ ((s.gang g).parked = false ∨ (s.gang g).lastIssue ≤ k ∨ (s.gang g).longPark = true))
      (fun s t => (∀ k ∈ (t.gang g).slices, k.live = false) ∧ ∀ g', g' ≠ g → t.gang g' = s.gang g')

/-- 06 R184, R187, R195; 07 R228; 08 R243; 15 R388: NBWAIT and TGWAIT write the generation once it differs from their token and its arrivals are released, and TGWAIT
all ones on a group that is not the tenant's; ISLRECV advances its address by 64 for each record; a record goes to the take that waits; a
queued event operation and a towpath request are performed. -/
def Obligations.WaitsTakesAndRequestsComplete : Prop :=
  ∀ (g tag : Nat) (d : SReg) (nb : NBReg) (grp cnt : Src) (vd : VReg) (q : QReg) (o : Op),
    let ends (v : DWord) (t : State) : Prop :=
      (t.gang g).sreg d.val = v ∧ t.op? g tag = none ∧ ∀ p ∈ (t.gang g).pend, p.tag ≠ tag
    let waits (i : Instr) (s : State) : Prop :=
      s.op? g tag = some o ∧ o.i = i ∧ (s.gang g).here = true ∧ (s.gang g).behindFault o = false
    (∀ b, Happens (.nbwaitComplete g tag) (fun s => waits (.nbwait d nb) s ∧ b = (s.crew (s.gang g).crew).nbar nb.val ∧
        b.gen ≠ o.x.extractLsb' 0 16 ∧ s.nbOpen (s.gang g).crew nb.val (o.x.extractLsb' 0 16).toNat = false) fun _ t => ends (b.gen.setWidth 64) t) ∧
    (∀ b, Happens (.tgwaitComplete g tag) (fun s => waits (.tgwait d grp) s ∧ b = s.tide (bits o.x 16 8) ∧
        b.tenant = some (s.gang g).tenant ∧ b.gen.toNat ≠ bits o.x 0 16 ∧ s.tideOpen (bits o.x 16 8) (bits o.x 0 16) = false) fun _ t => ends (b.gen.setWidth 64) t) ∧
    Happens (.tgwaitComplete g tag) (fun s => waits (.tgwait d grp) s ∧ (s.tide (bits o.x 16 8)).tenant ≠ some (s.gang g).tenant)
      (fun _ t => ends (BitVec.allOnes 64) t) ∧
    Happens (.islrecvComplete g tag) (fun s => s.op? g tag = some o ∧ o.i = .islrecv d q cnt ∧ o.y.toNat ≤ o.acks) (fun _ t =>
      ends (o.x.extractLsb' 32 32 ++ (o.x.extractLsb' 0 32 + BitVec.ofNat 32 (64 * o.y.toNat))) t) ∧
    (∀ w r rs i peek, (i = .qpop vd q ∧ peek = false ∨ i = .qpeek vd q ∧ peek = true) →
      Happens (.qpopRecordArrival g q) (fun s => waits i s ∧ ((s.gang g).qst q.val).aside = false ∧
          ((s.gang g).qst q.val).waits = [w] ∧ ((s.gang g).qst q.val).recs.drop w.nth = r :: rs ∧ (peek = false → w.nth = 0) ∧ w.tag = tag ∧
          w.peek = peek ∧ r.due ≤ s.now)
        fun s t => ∃ ws : List Write,
          t = s.setGang g { (s.gang g).setQ q.val { (s.gang g).qst q.val with
              waits := [], recs := if peek then ((s.gang g).qst q.val).recs else rs } with
            arr := (s.gang g).arr ++ [(s.now + 1, tag, ws)] } ∧
          ws = (List.range 4).map fun j => .v (vd.val + j) ((maskLanes w.slice w.lanes).map fun l =>
            (l, r.bits.extractLsb' (128 * (l % 4) + 32 * j) 32))) ∧
    (∀ tower e r, Happens (.eventOverflowOperation tower) (fun s => (s.tower tower).evq = e :: r)
      fun s t => t = { (s.modTower tower fun x => { x with evq := r }).evAct e.1 e.2.1 e.2.2.1 e.2.2.2.1 e.2.2.2.2 with evRes := t.evRes }) ∧
    (∀ n m i a, Happens (.towpathRequestArrival n) (fun s => s.net[n]? = some m ∧ m.code = mTOW ∧ m.due ≤ s.now ∧ m.op = some i ∧
        m.gangs = [g] ∧ m.tag = tag ∧ s.op? g tag = some o ∧ m.acc = [a] ∧ s.busy m.line (a.addr, accessSize i) = false ∧
        (s.gang g).behindFault o = false ∧ (s.gang g).towHeld o a = false ∧ (s.core (s.crew m.line).core).badVault = [] ∧ (g, a.lane) ∉ s.life.parity) fun s t =>
      t.net = s.net.eraseIdx n ∧
      (∃ o', t.op? g tag = some o' ∧ o'.logged = false ∧ ∀ b ∈ o'.acc, b.lane = a.lane → b.st = .done) ∧
      (memKind i = .store → ∀ k, k < accessSize i → t.vaultRead m.line (a.addr + k) = BitVec.ofNat 8 (a.data / 256 ^ k)))

/-- 07 R206, R208, R211 to R214: a started copy moves its vectors in order, the first once its parts' earlier accesses are performed; the
memory, the windows and the messages are those that the movement of the vector leaves; it completes with its parts' flags, its error and one
arrival at its barrier, and hands its follow-on to the engine; a record of a COPY.Q enters its queue. 08 R252: a vector of bytes that come
from further is moved when they have come. 07 R205, R208 to R210, 02 R58, R65: what the movement of a vector writes. A copy into the vault
writes the elements, each converted, at the vector's place with its padding zero, or as bit planes, and no other byte of the window; a copy to
memory hands the converted bytes of the window to the write of its range; a COPY.CSR writes both row pointers, and the indices and converted
values of its row behind those of the rows before it. An engine's access to a line that no core holds reads and writes the bytes of memory. -/
def Obligations.CopiesMoveAndComplete : Prop :=
  (∀ (key : Nat) (cp : Copy),
    let runs (s : State) : Prop := s.copy? key = some cp ∧ cp.crew = key % 2 ^ 40 ∧ (s.crew cp.crew).here = true ∧ (s.crew cp.crew).saving = 0
    let moves (s s0 : State) : Prop := runs s ∧ cp.started = true ∧ cp.moved = false ∧ cp.recs = [] ∧
      (cp.next = 0 → s.copyReady cp = (true, s0)) ∧ (cp.next ≠ 0 → s0 = s)
    (∀ p k err f s0 s1 cp1, Happens (.copyComplete key) (fun s => moves s s0 ∧ cp.next < cp.sh.outer ∧ cp.partOf cp.next = some (p, k) ∧
        ({ s0 with extra := 0 } : State).moveVector cp p cp.next = (.done err f, s1) ∧ (s1.extra = 0 ∨ cp.asked = true) ∧
        s1.copy? key = some cp1) fun _ t =>
      t = { s1 with crews := t.crews, agenda := t.agenda, fresh := t.fresh, extra := 0 } ∧ (∀ u off, t.vaultRead u off = s1.vaultRead u off) ∧
      ∃ cp', t.copy? key = some cp' ∧ cp'.next = cp1.next + 1 ∧ cp'.err = (cp1.err || err) ∧ cp'.recs = cp1.recs ∧
        (∀ q, cp1.parts[k]? = some q → ∃ q', cp'.parts[k]? = some q' ∧ q'.flags = q.flags ||| f)) ∧
    (∀ p k err f s0 s1, Happens (.copyComplete key) (fun s => moves s s0 ∧ cp.next < cp.sh.outer ∧ cp.partOf cp.next = some (p, k) ∧
        ({ s0 with extra := 0 } : State).moveVector cp p cp.next = (.done err f, s1) ∧ s1.extra ≠ 0 ∧ cp.asked = false) fun s t =>
      t.mem = s0.mem ∧ (∀ u off, t.vaultRead u off = s0.vaultRead u off) ∧ (s0.now + s1.extra, .copyComplete key) ∈ t.agenda) ∧
    (∀ s0, Happens (.copyComplete key) (fun s => moves s s0 ∧ cp.sh.outer ≤ cp.next ∧ s0.engOut (.copy cp.crew cp.id) = false)
      (fun s t =>
        let b := (s.crew cp.crew).nbar cp.nb
        let b' := (t.crew cp.crew).nbar cp.nb
        (∀ p ∈ cp.parts, (t.gang p.gang).flags &&& p.flags.setWidth 32 = p.flags.setWidth 32) ∧
        (cp.err = true → cp.h ∈ (t.crew cp.crew).cperr) ∧
        (if b.arrived + 1 = b.member ∨ b.member = 0 then b'.gen = b.gen + 1 ∧ b'.arrived = 0
         else b'.gen = b.gen ∧ b'.arrived = b.arrived + 1) ∧
        ((∀ p ∈ cp.parts, p.wants = false) → t.copy? key = none) ∧
        ((∃ p ∈ cp.parts, p.wants = true) → (s.now + 1, .followOnIssue key) ∈ t.agenda))) ∧
    (∀ p f, Happens (.followOnIssue key) (fun s => runs s ∧ cp.moved = true ∧ cp.parts.find? (·.wants) = some p ∧ p.follow = some f ∧
        (s.core (s.crew cp.crew).core).minsts.length < 8) fun s t =>
      t.copy? key = none ∧ ∃ mi ∈ (t.core (s.gang p.gang).core).minsts, mi.i = f.i ∧ mi.a = f.a ∧ mi.b = f.b ∧ mi.sv = f.x ∧ mi.rm = p.rm ∧
        mi.ord = p.ord ∧ mi.gangs = (cp.parts.map (·.gang)).dedup) ∧
    (∀ r rs g q, Happens (.copyqRecordDelivery key) (fun s => runs s ∧ cp.recs = r :: rs ∧ s.streamQ cp.crew cp.sh.vsel = some (g, q) ∧
        ((s.gang g).qst q).outRoom ≠ 0) fun s t =>
      ((t.gang g).qst q).recs = ((s.gang g).qst q).recs ++ [{ bits := r, due := s.now + 1 }] ∧
      ∃ cp', t.copy? key = some cp' ∧ cp'.recs = rs)) ∧
  (∀ (s s' : State) (cp : Copy) (p : Part) (v w : Nat) (bs : List Byte) (e : Bool),
    let r := cp.sh
    let mb := fmtBits r.mfmt / 8
    let vb := fmtBits r.vfmt / 8
    let el (k : Nat) : Nat × BitVec 7 := cvtElem r.mfmt r.vfmt p.rm r.sat (leNat ((bs.drop (k * mb)).take mb))
    let fl : BitVec 7 := (List.range r.inner).foldl (fun f k => f ||| (el k).2) 0
    s.engRead (s.copyCtx cp) (cp.addr p (v * r.rowstride)) (vecLen r.mfmt r.inner) = (.ok (bs.map some, e), s') →
    bs.length = vecLen r.mfmt r.inner → 8 ≤ fmtBits r.mfmt → cp.tomem = false → s'.window cp.crew r.vsel = some w →
    (cp.kind = .dense → 8 ≤ fmtBits r.vfmt → ∃ s1, s.moveVector cp p v = (.done e fl, s1) ∧ s1.mem = s'.mem ∧ ∀ off,
      s1.vaultRead w off =
        if r.vbase + v * r.vdist ≤ off ∧ off < r.vbase + v * r.vdist + r.span then
          let i := off - (r.vbase + v * r.vdist)
          if i < r.inner * vb then BitVec.ofNat 8 ((el (i / vb)).1 / 256 ^ (i % vb)) else 0
        else s'.vaultRead w off) ∧
    (cp.kind = .plane → fmtBits r.vfmt ≠ 0 → v < r.outer → ∃ s1, s.moveVector cp p v = (.done e fl, s1) ∧ s1.mem = s'.mem ∧
      (∀ kb pl i j, kb < r.nkb → pl < fmtBits r.vfmt → i < 16 → j < 8 →
        (s1.vaultRead w (r.blockOff v kb + 16 * pl + i)).getLsbD j =
          (decide (128 * kb + 8 * i + j < r.inner) && (el (128 * kb + 8 * i + j)).1.testBit pl)) ∧
      ∀ off, (∀ kb, kb < r.nkb → ¬ (r.blockOff v kb ≤ off ∧ off < r.blockOff v kb + 16 * fmtBits r.vfmt)) →
        s1.vaultRead w off = s'.vaultRead w off)) ∧
  (∀ (s s1 : State) (cp : Copy) (p : Part) (v w : Nat) (e : Bool),
    let r := cp.sh
    let mb := fmtBits r.mfmt / 8
    let vb := fmtBits r.vfmt / 8
    let el (k : Nat) : Nat × BitVec 7 := cvtElem r.vfmt r.mfmt p.rm r.sat
      (leNat ((List.range vb).map fun j => s.farByte w (r.vbase + v * r.vdist + k * vb + j)))
    cp.kind = .dense → cp.tomem = true → 8 ≤ fmtBits r.mfmt → 8 ≤ fmtBits r.vfmt → s.window cp.crew r.vsel = some w →
    (s.core (s.crew w).core).badVault = [] →
    s.engWrite (s.copyCtx cp) (cp.addr p (v * r.rowstride))
      ((List.range (r.inner * mb)).map fun i => some (BitVec.ofNat 8 ((el (i / mb)).1 / 256 ^ (i % mb)))) = (.ok e, s1) →
    s.moveVector cp p v = (.done e ((List.range r.inner).foldl (fun f k => f ||| (el k).2) 0), s1)) ∧
  (∀ (s s1 s2 s3 : State) (cp : Copy) (p p0 : Part) (v w k0 : Nat) (zb ab bb : List Byte) (e0 e : Bool),
    let r := cp.sh
    let mb := fmtBits r.mfmt / 8
    let vb := fmtBits r.vfmt / 8
    let r0 := (cp.parts.map (·.first)).min?.getD 0
    let a := leNat ab
    let b := leNat bb
    let z := leNat zb
    cp.kind = .csr → cp.partOf r0 = some (p0, k0) → s.engRead (s.copyCtx cp) (cp.addr p0 (4 * r0)) 4 = (.ok (zb.map some, e0), s1) →
    s1.engRead (s.copyCtx cp) (cp.addr p (4 * v)) 8 = (.ok ((ab ++ bb).map some, e), s2) → ab.length = 4 → bb.length = 4 →
    s2.copyToVault cp (r.vbase + 4 * v) ((ab ++ bb).map some) = s3 → s2.window cp.crew r.vsel = some w →
    (∀ off, s3.vaultRead w off = if r.vbase + 4 * v ≤ off ∧ off < r.vbase + 4 * v + 8 then ((ab ++ bb)[off - (r.vbase + 4 * v)]?).getD 0
      else s2.vaultRead w off) ∧
    (a = b → s.moveVector cp p v = (.done e 0, s3)) ∧
    (∀ s4 s5 (ix vals : List Byte) (e1 e2 : Bool),
      let n := min (b - a) (r.inner - (a - z))
      let el (k : Nat) : Nat × BitVec 7 := cvtElem r.mfmt r.vfmt p.rm r.sat (leNat ((vals.drop (k * mb)).take mb))
      a < b → z ≤ a → 8 ≤ fmtBits r.mfmt → 8 ≤ fmtBits r.vfmt →
      s3.engRead (s3.copyCtx cp) (cp.addr p (r.vstride * 16 + 4 * a)) (4 * n) = (.ok (ix.map some, e1), s4) → ix.length = 4 * n →
      s4.engRead (s3.copyCtx cp) (cp.addr p (r.rowstride * 16 + a * mb)) (n * mb) = (.ok (vals.map some, e2), s5) → vals.length = n * mb →
      s5.window cp.crew r.vsel = some w →
      ∃ s6, s.moveVector cp p v =
          (.done (e || (e1 || e2 || decide (n < b - a))) ((List.range n).foldl (fun f k => f ||| (el k).2) 0), s6) ∧ s6.mem = s5.mem ∧ ∀ off,
        let x := r.svbase + 4 * (a - z)
        let y := r.svbase + 4 * r.inner + (a - z) * vb
        s6.vaultRead w off =
          if x ≤ off ∧ off < x + 4 * n then (ix[off - x]?).getD 0
          else if y ≤ off ∧ off < y + n * vb then BitVec.ofNat 8 ((el ((off - y) / vb)).1 / 256 ^ ((off - y) % vb))
          else s5.vaultRead w off)) ∧
  (∀ (s : State) (k : EngCtx) (pa : Nat),
    let ln := pa / 128
    isHost pa = false → s.kind (s.range ln).slot = .owned → (s.range ln).chk = false → (s.hline ln).st = 8 → (s.hline ln).rcl = 0 →
    (s.hline ln).owner = none → (s.hline ln).frozen = false → s.life.paths = [] →
    (∀ n, pa % 128 + n ≤ 128 → (∀ j, j < n → (pa + j) / 64 ∉ s.life.badMem) →
      ∃ t, s.engReadPa k pa n = ((s.bytes pa n).map some, false, t) ∧ t.mem = s.mem) ∧
    (∀ d : List (Option Byte), pa % 128 + d.length ≤ 128 → ∃ t, s.engWritePa k pa d = (false, t) ∧
      ∀ a, t.byte a = if pa ≤ a ∧ a < pa + d.length then ((d[a - pa]?).getD none).getD (s.byte a) else s.byte a))

/-- 02 R64, R65; 07 R205: the plane layout holds bit p of element 8 i + j in bit j of byte i of plane p, and reading it gives the elements
back; the memory layout of whole bytes holds an element's bytes in ascending order. 02 R67 to R70, R73: an element of the accumulator set
after a pass: without an adapter the block values, each an exact sum with its two scales rounded once, are folded in ascending order and
added to it; an integer pass adds the exact products modulo 2^32. The scales are those that the pass read when it started (11 R312). -/
def Obligations.MatrixLayoutsAndPasses : Prop :=
  (
    ∀ (code kb : Nat) (xs : List Nat), (∀ x ∈ xs, x < 2 ^ fmtBits code) →
      let e : Elems := (xs.map some).toArray
      let at_ (k : Nat) : Nat := xs.getD k 0
      (∀ p i, p < fmtBits code → i < 16 → ∃ b : Byte, (planeBytes code e kb)[16 * p + i]? = some (some b) ∧
        ∀ j, j < 8 → b.getLsbD j = (at_ (128 * kb + 8 * i + j)).testBit p) ∧
      (∀ k, k < 128 → fmtBits code ≠ 0 → planeElem code (planeBytes code e kb).toArray k = some (at_ (128 * kb + k))) ∧
      (8 ≤ fmtBits code → ∀ i, memByte code e i = some (BitVec.ofNat 8 (at_ (i / (fmtBits code / 8)) / 256 ^ (i % (fmtBits code / 8)))))
  ) ∧
  (
    ∀ (s : State) (m : MInst) (p : Pass),
      let old (row col : Nat) : Word := Sparse.get 0 (s.core (s.crew m.crew).core).acc (accKey m.tok row col)
      let blocks : List Nat := (List.range p.n).map fun j => p.first + j
      ((∃ t ha hb, m.i = .mma t ha hb) → ∀ kv, kv ∈ (s.passResult m p).1 ↔ ∃ row ∈ p.rows, ∃ col < m.b.outer,
        let v (j : Nat) : Nat × BitVec 7 :=
          scaledRound m.rm (exactSum ((s.rowBlock m.crew m.a row (p.first + j)).map (elemNum m.fmt m.mant))
            ((s.rowBlock m.crew m.b col (p.first + j)).map (elemNum m.b.vfmt m.b.mant)))
            ((((p.sa.lookup row).getD [])[j]?).getD 0) ((p.sb[j]?).getD 0)
        kv = (accKey m.tok row col, (addF32 m.rm (old row col).toNat (foldBlocks m.rm ((List.range p.n).map v)).1).1)) ∧
      ((∃ t ha hb, m.i = .mmaI t ha hb) → ∀ kv, kv ∈ (s.passResult m p).1 ↔ ∃ row ∈ p.rows, ∃ col < m.b.outer,
        let dot (kb : Nat) : Int := (List.zipWith (· * ·) ((s.rowBlock m.crew m.a row kb).map (elemInt m.fmt))
          ((s.rowBlock m.crew m.b col kb).map (elemInt m.b.vfmt))).sum
        kv = (accKey m.tok row col, ((old row col) + BitVec.ofInt 32 ((blocks.map dot).sum)).toNat))
  )

/-- 11 R306 to R310, R313, R315, R319; 07 R221, R222; 01 R26, R27: passes start and reach the accumulator whole, layers fail and are
retired, the latter once no reservation freezes them (15 R382), records and adapter entries arrive, an instruction that completes gives its MSTAT, and MACQ gets its token. -/
def Obligations.TheEngineRunsItsInstructions : Prop :=
  ∀ (k : Nat),
    (∀ (ls : List Layer) (now fresh : Nat) (lims : Nat → LayerLimit), (∃ l ∈ ls, l ≠ .failed) → .active ∈ (stepLayers now fresh lims ls).1) ∧
    (∀ m q row rows lag, Happens (.passStart k) (fun s => (s.nextTurn (s.core k)).isSome = true ∧ s.lag.headD 0 = lag ∧
        let l := stepLayers s.now s.fresh (s.limitOf k) (s.core k).layers
        let s1 : State := { s.modCore k (fun c => { c with layers := l.1 }) with fresh := s.fresh + 3 }
        s1.nextTurn (s1.core k) = some (m, .main q (row :: rows) [])) fun s t =>
      let l := stepLayers s.now s.fresh (s.limitOf k) (s.core k).layers
      let s1 : State := { s.modCore k (fun c => { c with layers := l.1 }) with fresh := s.fresh + 3 }
      let depth : Nat := if m.ord then 3 else (l.1.filter fun y => y == .active).length
      let act := (l.1.zipIdx.filter fun y => y.1 == .active).map (·.2)
      (t.core k).layers = l.1 ∧ ∃ p, (t.core k).pass = some p ∧ p.inst = m.id ∧ p.first = q ∧ p.n = min depth (m.nkb - q) ∧ p.act = act ∧
        p.rows = row :: rows ∧ p.replay = false ∧ p.due = s.now + passCycles m act.length l.2 + lag ∧
        (∀ j, j < p.n → p.sb[j]? = some (s1.scaleOf m.crew m.b (q + j)) ∧
          ((∀ tr qa hb dsc, m.i ≠ .mmaQ tr qa hb dsc) → ∀ r ∈ row :: rows, ∃ l, p.sa.lookup r = some l ∧
            l[j]? = some (s1.scaleOf m.crew m.a (r * m.b.nkb + (q + j)))))) ∧
    (∀ p m, Happens (.passEnd k) (fun s => (s.core k).pass = some p ∧ p.due ≤ s.now ∧ (s.core k).minst? p.inst = some m) fun s t =>
      (t.core k).pass = none ∧
      (t.core k).acc = (s.passResult m p).1.foldl (fun a w => Sparse.set 0 a w.1 (BitVec.ofNat 32 w.2)) (s.core k).acc) ∧
    (∀ n, Happens (.layerFail k n) (fun s => k < 96 ∧ n < 3 ∧ (∃ l, (s.core k).layers[n]? = some l ∧ l ≠ .failed) ∧ 4 * k + n ∉ s.life.layers)
      fun s t => (t.core k).layers = (s.core k).layers.set n .failed ∧
        (s.frozen k = false → t.life.layers = s.life.layers ++ [4 * k + n]) ∧
        (s.frozen k = true → t.life.layers = s.life.layers ∧ (s.now + 1, .layerFail k n) ∈ t.agenda) ∧
        (t.core k).acc = (s.core k).acc ∧ (t.core k).pass = (s.core k).pass.filter fun p => !p.act.contains n) ∧
    (∀ mi m o q r rs, Happens (.stagingRecordMove k mi) (fun s => (s.core k).minst? mi = some m ∧ s.canStage m = true ∧
        s.qTake m = some (o, q) ∧ ((s.gang m.gang).qst q).recs = r :: rs) fun _ t =>
      ((t.gang m.gang).qst q).recs = rs ∧ ∃ m', (t.core k).minst? mi = some m' ∧ m'.staged = m.staged ++ [r.bits]) ∧
    (∀ n f m e fr s1, Happens (.adapterFillComplete k n) (fun s => ((s.core k).fills.filter fun f => !f.waits && !f.room)[n]? = some f ∧
        (s.core k).minst? f.inst = some m ∧ (s.core k).entry? m f.adid f.kb = none ∧
        ({ s with extra := 0 } : State).fillRead { core := k, tenant := (s.crew m.crew).tenant, who := .fill k, refused := f.refused } m f
          ((s.core k).entry? m f.adid none) = (.ok (some e), s1) ∧ f.lands.getD (s.now + s1.extra) ≤ s.now ∧ e.usable = true ∧
        (s1.core k).frameFor m = some fr) fun _ t =>
      ∃ e' ∈ (t.core k).adcache, e'.frame = some fr ∧ e'.adid = e.adid ∧ e'.tidx = e.tidx ∧ e'.kb = e.kb ∧ e'.bytes = e.bytes ∧
        e'.scales = e.scales) ∧
    (∀ mi m, Happens (.matrixComplete k mi) (fun s => (s.core k).minst? mi = some m ∧ (∃ e, m.ends = some e ∧ e ≤ s.now) ∧ m.gangs.Nodup)
      fun s t => (t.core k).minsts = (s.core k).minsts.filter (fun x => x.id != mi) ∧
        ∀ g ∈ m.gangs, (∃ x, (g, x) ∈ s.gangs) → (t.gang g).mtx = (s.gang g).mtx - 1 ∧
          (t.gang g).mstat = (if (s.gang g).mid = m.id then m.mstat else (s.gang g).mstat) ∧
          (t.gang g).flags = (s.gang g).flags ||| (flagsOfA m.aflags).setWidth 32) ∧
    (∀ g tag o, ∀ tr : TReg, Happens (.macqComplete g tr) (fun s => (s.gang g).core = k ∧ (s.core k).toks[tr.val]? = some (.transfer g tag) ∧
        s.setBusy k tr.val = false ∧ s.op? g tag = some o ∧ (s.gang g).here = true ∧ (s.gang g).behindFault o = false) fun _ t =>
      (t.core k).toks[tr.val]? = some (.held g) ∧ t.op? g tag = none ∧ ∀ p ∈ (t.gang g).pend, p.tag ≠ tag)

/-- 10 R279, R281, R283, R287, R301: the home rows of MOESI-INV: what a request or answer that the home takes does to the line, its owner
and its sharers, to memory, and what the home sends. 10 R293, R294, R297, R298: a LEASE home writes masked bytes with a write timestamp
beyond every lease, renews a lease with RENACK where the line is unchanged and with its data where it is not, and ends a rebase at the
last answer. That RENEW compares the epoch too (log entry 18), and that a request is tried again 16 cycles later (log entry 32), are the model's
choices. -/
def Obligations.HomesServeTheirLines : Prop :=
  (
    ∀ (n r : Nat) (m : Msg),
      let ln := m.line
      let h := lineHome ln
      let ready (code st : Nat) (s : State) : Prop := AtHome s n m code 1 ∧ s.kind 1 = .owned ∧
        Sparse.get [] s.tables 1 = tableOf (moesiAgent ++ moesiHome) ∧ (s.hline ln).st = st ∧ m.acc = [] ∧ m.op = none ∧ m.write = false
      let req (code st : Nat) (s : State) : Prop := ready code st s ∧ s.readyFor ln = [(m, n)] ∧ (∀ q ∈ (s.home h).stalled, q.line ≠ ln) ∧
        (s.hline ln).freeAt ≤ s.now ∧ s.homeBusy m = false ∧ (ln ∈ (s.home h).dir ∨ ((s.home h).dir.filter fun k => dirSet k == dirSet ln).length < 16)
      let line (t : State) (st : Nat) (owner : Option Node) (sharers : List Node) : Prop :=
        (t.hline ln).st = st ∧ (t.hline ln).owner = owner ∧ (t.hline ln).sharers = sharers
      let last (t : State) (code : Nat) (dst : Node) (P : Msg → Prop) : Prop :=
        ∃ q, t.net.getLast? = some q ∧ q.code = code ∧ q.src = .home h ∧ q.dst = dst ∧ q.line = ln ∧ P q
      let kept (s t : State) : Prop := t.mem = s.mem
      let merged (s t : State) : Prop := ∀ k, k < 128 → t.byte (128 * ln + k) = if m.mask.getLsbD k then byteAt m.data k else s.byte (128 * ln + k)
      let data (s : State) (q : Msg) : Prop := q.data = s.lineData ln
      let none_ (_ : Msg) : Prop := True
      -- requests
      Happens (.gets n) (fun s => req mGETS 8 s ∧ (s.hline ln).sharers = [])
        (fun s t => line t 10 (some m.src) [] ∧ last t mDATAE m.src (data s) ∧ kept s t) ∧
      Happens (.gets n) (fun s => req mGETS 9 s ∧ (s.hline ln).owner = none ∧ m.src ∉ (s.hline ln).sharers)
        (fun s t => line t 9 none ((s.hline ln).sharers ++ [m.src]) ∧ last t mDATAS m.src (data s) ∧ kept s t) ∧
      (∀ o, Happens (.gets n) (fun s => req mGETS 10 s ∧ (s.hline ln).owner = some o)
        fun s t => line t 13 (some o) (s.hline ln).sharers ∧ last t mFWDS o (fun q => q.onb = some m.src) ∧ kept s t) ∧
      Happens (.gets n) (fun s => req mGETX 9 s ∧ ∃ k ∈ (s.hline ln).sharers, k ≠ m.src) (fun s t =>
        (t.hline ln).st = 12 ∧ (t.hline ln).acks = ((s.hline ln).sharers.filter fun k => k != m.src).length ∧
        (∀ k ∈ (s.hline ln).sharers, k ≠ m.src → ∃ q ∈ t.net, q.code = mINV ∧ q.dst = k ∧ q.line = ln) ∧ kept s t) ∧
      Happens (.upgo n) (fun s => req mUPGO 10 s)
        (fun s t => line t 10 (some m.src) (s.hline ln).sharers ∧ last t mUPGACK m.src none_ ∧ kept s t) ∧
      Happens (.upgs n) (fun s => req mUPGS 9 s ∧ (s.hline ln).sharers = [m.src])
        (fun s t => line t 10 (some m.src) [] ∧ last t mUPGACK m.src none_ ∧ kept s t) ∧
      Happens (.upgn n) (fun s => req mUPGN 8 s ∧ (s.hline ln).sharers = [])
        (fun s t => line t 10 (some m.src) [] ∧ last t mDATAE m.src (data s) ∧ kept s t) ∧
      Happens (.wbmo n) (fun s => req mWBMO 10 s)
        (fun s t => line t 8 none (s.hline ln).sharers ∧ last t mWBACK m.src none_ ∧ merged s t) ∧
      Happens (.wbmx n) (fun s => req mWBMX 10 s)
        (fun s t => line t 10 (s.hline ln).owner (s.hline ln).sharers ∧ last t mWBACK m.src none_ ∧ kept s t) ∧
      Happens (.wbc n) (fun s => req mWBC 9 s) (fun s t =>
        let left := (s.hline ln).sharers.filter fun k => k != m.src
        line t (if left = [] then 8 else 9) (s.hline ln).owner left ∧ kept s t) ∧
      -- answers
      Happens (.invack n) (fun s => ready mINVACK 12 s ∧ (s.hline ln).rcl = 0)
        (fun s t => (t.hline ln).st = 12 ∧ (t.hline ln).acks = (s.hline ln).acks - 1 ∧ (t.hline ln).deferred = (s.hline ln).deferred ∧ kept s t) ∧
      (∀ q, Happens (.invackl n) (fun s => ready mINVACKL 12 s ∧ q.line = ln ∧ (s.hline ln).sharers = [] ∧
          (s.hline ln).deferred = some (ent [0, 4] (some mDATAE) 10, q))
        fun s t => line t 10 (some q.src) [] ∧ last t mDATAE q.src (data s) ∧ kept s t) ∧
      (∀ o k, Happens (.fwdack n) (fun s => ready mFWDACK 13 s ∧ (s.hline ln).owner = some o ∧ (s.hline ln).fwd = some k ∧
          k ∉ (s.hline ln).sharers)
        fun s t => line t 11 (some o) ((s.hline ln).sharers ++ [k]) ∧ (t.hline ln).fwd = none ∧ merged s t) ∧
      (∀ k, Happens (.fwdackx n) (fun s => ready mFWDACKX 14 s ∧ (s.hline ln).fwd = some k ∧ (s.hline ln).sharers = [])
        fun s t => line t 10 (some k) [] ∧ (t.hline ln).fwd = none ∧ merged s t) ∧
      Happens (.rcldata n) (fun s => AtHome s n m mRCLDATA (s.range ln).slot ∧ (s.hline ln).rcl = 1)
        (fun s t => line t 8 none [] ∧ (t.hline ln).rcl = 0 ∧ ln ∉ (t.home h).dir ∧ merged s t) ∧
      Happens (.rclack n) (fun s => AtHome s n m mRCLACK (s.range ln).slot ∧ (s.hline ln).rcl = 1)
        (fun s t => line t 8 none [] ∧ (t.hline ln).rcl = 0 ∧ ln ∉ (t.home h).dir ∧ kept s t) ∧
      -- what homes do besides
      Happens (.requestRetry h r) (fun s => (s.home h).stalled.find? (fun q => q.line == r && !s.mustWait q && !s.mgmtBehind q) = some m)
        (fun s t =>
          let s1 := s.retryReq h m
          (s.now < (s.hline r).freeAt → t = s.at (s.hline r).freeAt (.requestRetry h r)) ∧
          ((s.hline r).freeAt ≤ s.now → t = s1 ∨ t = s1.at (s1.now + 16) (.requestRetry h r))) ∧
      Happens (.noncachingRequest n) (fun s => AtHome s n m mNC 1 ∧ s.kind 1 = .owned ∧ m.write = true ∧ m.put = false ∧ m.cause = none ∧
          s.updOut ln = false ∧ (s.hline ln).st = 8 ∧
          (s.hline ln).rcl = 0 ∧ (s.hline ln).frozen = false ∧ s.lineChanging ln = false ∧ s.readyFor ln = [(m, n)] ∧
          (∀ q ∈ (s.home h).stalled, q.line ≠ ln) ∧ (s.hline ln).freeAt ≤ s.now)
        (fun s t => t.net = s.net.eraseIdx n ∧ merged s t ∧
          ∀ tn, m.src = .mgmt → (m.done = .record tn → t.priv.errtail = s.priv.errtail + 1) ∧
            (m.done = .trace tn → (t.ten tn).trtail = (s.ten tn).trtail + 1)) ∧
      Happens (.selfRefreshEntry r) (fun s => r < 16 ∧ s.life.booted = true ∧ (s.home r).asleep = false ∧ (s.home r).lastReq + 2100000 ≤ s.now)
        (fun s t => t = s.setHome r { s.home r with asleep := true })
  ) ∧
  (
    ∀ (n : Nat) (m : Msg),
      let ln := m.line
      let h := lineHome ln
      let req (code : Nat) (s : State) : Prop := AtHome s n m code 0 ∧ Sparse.get [] s.tables 0 = tableOf leaseRows ∧ m.acc = [] ∧ m.op = none ∧
        m.write = false ∧ s.readyFor ln = [(m, n)] ∧ (∀ q ∈ (s.home h).stalled, q.line ≠ ln) ∧ (s.hline ln).freeAt ≤ s.now ∧
        s.homeBusy m = false ∧
        (s.home h).inRebase = false ∧ s.needRebase m = false
      let last (t : State) (code : Nat) (P : Msg → Prop) : Prop :=
        ∃ q, t.net.getLast? = some q ∧ q.code = code ∧ q.src = .home h ∧ q.dst = m.src ∧ q.line = ln ∧
          q.wts = (t.hline ln).wts ∧ q.rts = (t.hline ln).rts ∧ P q
      Happens (.wrt n) (req mWRT) (fun s t =>
        let w := max (m.pts - (s.home h).base) ((s.hline ln).rts + 1)
        (t.hline ln).wts = w ∧ (t.hline ln).rts = w ∧ last t mWBACK (fun _ => True) ∧
        ∀ k, k < 128 → t.byte (128 * ln + k) = if m.mask.getLsbD k then byteAt m.data k else s.byte (128 * ln + k)) ∧
      Happens (.renew n) (req mRENEW) (fun s t =>
        let l := s.hline ln
        let len := (s.range ln).lease
        (t.hline ln).wts = l.wts ∧ (t.hline ln).rts = max (max l.rts (l.wts + len)) (m.pts + len - (s.home h).base) ∧ t.mem = s.mem ∧
        (m.wts = l.wts ∧ m.epoch = (s.home h).epoch → last t mRENACK (fun _ => True)) ∧
        (m.wts ≠ l.wts ∨ m.epoch ≠ (s.home h).epoch → last t mDATAS fun q => q.data = s.lineData ln)) ∧
      (∀ c k, Happens (.rebaseAnswer n) (fun s => s.net[n]? = some m ∧ m.due ≤ s.now ∧ m.dst = .home k ∧ m.code = mREBANS ∧
          m.src = .core c ∧ (s.home ln).rebasing = [c])
        fun _ t => (t.home ln).inRebase = false ∧ (t.home ln).rebasing = [])
  )

/-- 10 R279, R286, R293, R294, R298, R300: the agent rows: what a message does to the L1's line, and what the L1 answers. That an L1 answers a REBASE
while a line of it waits in BR or BRD, where 10 R296 has STALL, is the model's choice (log entry 18): such a line keeps its REBASE for later. -/
def Obligations.AgentsTakeTheirMessages : Prop :=
  ∀ (n c r1 : Nat) (m : Msg) (l : L1Line) (r : Node),
    let ln := m.line
    let home : Node := .home (lineHome ln)
    let ready (code slot : Nat) (rows : List (Nat × Nat × Nat)) (s : State) : Prop :=
      s.net[n]? = some m ∧ m.code = code ∧ m.due ≤ s.now ∧ m.src = home ∧ m.dst = .core c ∧ m.acc = [] ∧
      Sparse.get [] s.tables slot = tableOf rows ∧ (slot = 1 → s.kind 1 = .owned) ∧ l.table = slot ∧ l.waits = [] ∧ l.overlay = [] ∧
      l.bypass = false ∧ l.bad = false ∧ l.kept = 0 ∧ l.rebase = false
    let at1 (code st : Nat) (s : State) : Prop := ready code 1 (moesiAgent ++ moesiHome) s ∧ l.st = st ∧
      Sparse.get {} (s.core c).l1 ln = l ∧ Sparse.get {} (s.core c).buf ln = {}
    let sent (s t : State) (l : List (Nat × Node)) (P : List Msg → Prop) : Prop :=
      ∃ qs, t.net = s.net.eraseIdx n ++ qs ∧ qs.map (fun q => (q.code, q.dst)) = l ∧ (∀ q ∈ qs, q.src = .core c ∧ q.line = ln) ∧ P qs
    let carries (d : List Byte) (qs : List Msg) : Prop := ∀ q ∈ qs, q.data = d
    let fill (t : State) : Prop := ∀ k, k < 128 → byteAt (t.l1 c ln).data k = if l.dirty.getLsbD k then byteAt l.data k else byteAt m.data k
    Happens (.datas n) (at1 mDATAS 5) (fun s t => (t.l1 c ln).st = 1 ∧ fill t ∧ sent s t [] fun _ => True) ∧
    Happens (.datae n) (at1 mDATAE 5) (fun s t => (t.l1 c ln).st = 2 ∧ fill t ∧ sent s t [] fun _ => True) ∧
    Happens (.datam n) (at1 mDATAM 5) (fun s t => (t.l1 c ln).st = 4 ∧ fill t ∧ sent s t [] fun _ => True) ∧
    Happens (.upgack n) (at1 mUPGACK 6) (fun s t => (t.l1 c ln).st = 4 ∧ (t.l1 c ln).data = l.data ∧ sent s t [] fun _ => True) ∧
    Happens (.wback n) (fun s => ready mWBACK 1 (moesiAgent ++ moesiHome) s ∧ l.st = 7 ∧ Sparse.get {} (s.core c).l1 ln = {} ∧
        Sparse.get {} (s.core c).buf ln = l)
      (fun s t => t.l1 c ln = {} ∧ sent s t [] fun _ => True) ∧
    Happens (.inv n) (at1 mINV 1) (fun s t => t.l1 c ln = {} ∧ sent s t [(mINVACK, home)] fun _ => True) ∧
    Happens (.fwds n) (fun s => at1 mFWDS 4 s ∧ m.onb = some r)
      (fun s t => (t.l1 c ln).st = 3 ∧ sent s t [(mDATAS, r), (mFWDACK, home)] (carries l.data)) ∧
    Happens (.fwdx n) (fun s => at1 mFWDX 4 s ∧ m.onb = some r)
      (fun s t => t.l1 c ln = {} ∧ sent s t [(mDATAM, r), (mFWDACKX, home)] (carries l.data)) ∧
    Happens (.recall n) (at1 mRECALL 4)
      (fun s t => t.l1 c ln = {} ∧ sent s t [(mRCLDATA, home)] fun qs => ∀ q ∈ qs, q.data = l.data ∧ q.mask = l.dirty) ∧
    Happens (.nak n) (at1 mNAK 6) (fun s t => t.l1 c ln = {} ∧ sent s t [] fun _ => True) ∧
    Happens (.update n) (fun s => ready mUPDATE 2 updRows s ∧ l.st = 1 ∧ Sparse.get {} (s.core c).l1 ln = l ∧
        Sparse.get {} (s.core c).buf ln = {} ∧ l.dirty = 0)
      (fun _ t => (t.l1 c ln).st = 1 ∧
        ∀ k, k < 128 → byteAt (t.l1 c ln).data k = if m.mask.getLsbD k then byteAt m.data k else byteAt l.data k) ∧
    Happens (.renack n) (fun s => ready mRENACK 0 leaseRows s ∧ l.st = 4 ∧ Sparse.get {} (s.core c).l1 ln = l ∧
        Sparse.get {} (s.core c).buf ln = {})
      (fun s t => (t.l1 c ln).st = 1 ∧ (t.l1 c ln).wts = m.wts ∧ (t.l1 c ln).rts = m.rts ∧ (t.l1 c ln).grant = s.now ∧
        (t.l1 c ln).data = l.data) ∧
    Happens (.rebase n) (fun s => s.net[n]? = some m ∧ m.code = mREBASE ∧ m.due ≤ s.now ∧ m.dst = .core c) (fun _ t =>
      t.baseAt c ln = m.base ∧ t.epochAt c ln = m.epoch ∧
      (∃ q, t.net.getLast? = some q ∧ q.code = mREBANS ∧ q.src = .core c ∧ q.dst = .home ln)) ∧
    Happens (.rebase n) (fun s => s.net[n]? = some m ∧ m.code = mREBASE ∧ m.due ≤ s.now ∧ m.dst = .core c ∧ lineHome r1 = ln ∧
        Sparse.get {} (s.core c).buf r1 = {} ∧ l.table = 0 ∧ l.st ≠ 0 ∧ (s.core c).l1 = [(r1, l)]) (fun _ t =>
      if l.st = 4 ∨ l.st = 5 then t.l1 c r1 = { l with rebase := true }
      else t.l1 c r1 = {} ∧ (l.dirty ≠ 0 → l.bad = false →
        ∃ q ∈ t.net, q.code = mWRT ∧ q.line = r1 ∧ q.dst = .home ln ∧ q.data = l.view ∧ q.mask = l.dirty ∧ q.write = true)) ∧
    Happens (.leaseFlushTimer c ln) (fun s => l.table = 0 ∧ l.overlay = [] ∧ l.bad = false ∧ l.dirty ≠ 0 ∧ l.since + 512 ≤ s.now ∧
        Sparse.get {} (s.core c).l1 ln = l ∧ Sparse.get {} (s.core c).buf ln = {}) (fun s t =>
      (t.l1 c ln).dirty = 0 ∧ ∃ q, t.net = s.net ++ [q] ∧ q.code = mWRT ∧ q.dst = home ∧ q.line = ln ∧ q.data = l.data ∧ q.mask = l.dirty)

/-- 10 R302 to R304; 19 R440, R452: the host's accesses: a line that the host may cache is asked for through the bridge or answered from
the line it holds, any other is a non-caching request; a write-back of the last M half gives the line up with its bytes; BIRSP completes
what the snoop held back; a snoop of host memory finds nothing. 19 R455 to R457; 20 R461: a peer write goes to the memory of its window;
the signal that follows one waits until its bytes are performed at every sharer, and is an operation on the window's event; a peer read is an Unsupported Request; a PERST# of the ingress link
drops the writes in flight and leaves the windows. 20 R467, R468: a peer write to a window that is not enabled is dropped, and its error
record is on its way to the ring as a release at HOST scope. -/
def Obligations.TheHostAndPeersReachMemory : Prop :=
  (
    ∀ (hpa pa : Nat) (bytes : List Byte) (mask : DWord) (m : Msg),
      let ln := pa / 128
      let h := pa / 64 % 2
      let home : Node := .home (lineHome ln)
      let me : Node := .bridge (lineHome ln / 8)
      let reach (s : State) : Prop := s.hostPa hpa = some pa ∧ (s.bline ln).todo = [] ∧ 2 ∉ s.life.paths
      let ours (s : State) : Prop := s.hostMay ln = true ∧ (s.range ln).slot = 1 ∧ Sparse.get [] s.tables 1 = tableOf (moesiAgent ++ moesiHome)
      let may (s : State) : Prop := reach s ∧ ours s
      let mayNot (s : State) : Prop := reach s ∧ s.hostMay ln = false
      let room (s : State) : Prop := (s.bline ln).want = none ∧ (s.bline ln).snooped = none ∧ s.bridge.length < 65536
      let last (t : State) (code : Nat) (P : Msg → Prop) : Prop :=
        ∃ q, t.net.getLast? = some q ∧ q.code = code ∧ q.src = me ∧ q.dst = home ∧ q.line = ln ∧ P q
      let read (i : Instr) : Prop :=
        Happens i (fun s => may s ∧ room s ∧ s.bline ln = {}) (fun _ t =>
          (t.bline ln).st = 5 ∧ (t.bline ln).want = some (h, false) ∧ last t mGETS fun _ => True) ∧
        Happens i (fun s => may s ∧ room s ∧ 1 ≤ (s.bline ln).st ∧ (s.bline ln).st ≤ 4 ∧ (s.bline ln).half (1 - h) ≠ .m ∧ pa / 64 ∉ s.life.badMem)
          (fun s t => t.priv.answer = s.bytes (64 * (pa / 64)) 64 ∧ t.priv.poison = false ∧ t.net = s.net) ∧
        Happens i mayNot (fun _ t => last t mNC fun q => q.write = false ∧ q.tag = h) ∧
        Happens i (fun s => s.hostPa hpa = none) (fun _ t => t.priv.answer = [] ∧ t.priv.poison = true) ∧
        ∀ j r, Happens i (fun s => s.hostPa hpa = some pa ∧ (s.bline ln).todo = j :: r ∧ j ≠ i) fun s t =>
          t = s.setBline ln { s.bline ln with todo := j :: r ++ [i] }
      (∀ s : State, s.hostPa hpa = if s.life.booted = true ∧ s.hdmAt ≤ hpa ∧ s.isDevice (hpa - s.hdmAt) = true then some (hpa - s.hdmAt) else none) ∧
      read (.hostReadShared hpa) ∧ read (.memrd hpa) ∧
      Happens (.hostReadOwn hpa) (fun s => may s ∧ room s ∧ s.bline ln = {} ∧ s.mustHold me ln = false) (fun _ t =>
        (t.bline ln).st = 6 ∧ (t.bline ln).want = some (h, true) ∧ last t mGETX fun _ => True) ∧
      Happens (.memwr hpa bytes mask) mayNot (fun _ t => last t mNC fun q => q.write = true ∧
        ∀ k, k < 64 → q.mask.getLsbD (64 * h + k) = mask.getLsbD k ∧ (bytes.length = 64 → byteAt q.data (64 * h + k) = byteAt bytes k)) ∧
      Happens (.memwr hpa bytes mask) (fun s => may s ∧ (s.bline ln).want = none ∧ (s.bline ln).snooped = none ∧ (s.bline ln).half h = .m ∧
          (s.bline ln).half (1 - h) = .m ∧ bytes.length = 64) (fun s t =>
        (t.bline ln).half h = .i ∧ (t.bline ln).half (1 - h) = .m ∧ (t.bline ln).writes = (s.bline ln).writes + 1 ∧
        last t mWRT fun q => ∀ k, k < 64 → q.mask.getLsbD (64 * h + k) = mask.getLsbD k ∧ byteAt q.data (64 * h + k) = byteAt bytes k) ∧
      Happens (.hostWriteback hpa bytes) (fun s => may s ∧ (s.bline ln).st = 4 ∧ (s.bline ln).half h = .m ∧ (s.bline ln).half (1 - h) = .i ∧
          (s.bline ln).snooped = none ∧ bytes.length = 64) (fun _ t =>
        (t.bline ln).st = 7 ∧ (t.bline ln).h0 = .i ∧ (t.bline ln).h1 = .i ∧
        last t mWBMX fun q => ∀ k, k < 64 → q.mask.getLsbD (64 * h + k) = true ∧ byteAt q.data (64 * h + k) = byteAt bytes k) ∧
      Happens (.hostDropHalf hpa) (fun s => s.hostPa hpa = some pa ∧ (s.bline ln).half h = .s ∧ (s.bline ln).half (1 - h) = .s) (fun s t =>
        t = s.setBline ln (if h = 0 then { s.bline ln with h0 := .i } else { s.bline ln with h1 := .i })) ∧
      Happens (.birsp (lineHome ln / 8) ln) (fun s => ours s ∧ (s.bline ln).snooped = some m ∧ m.line = ln ∧ m.code = mINV ∧ (s.bline ln).st = 1)
        (fun _ t => (t.bline ln).st = 0 ∧ (t.bline ln).h0 = .i ∧ (t.bline ln).h1 = .i ∧ (t.bline ln).snooped = none ∧
          last t mINVACK fun _ => True) ∧
      Happens (.hostSnoop pa) (fun _ => isHost (Config.hostBase + pa) = true) (fun s t =>
        t = { s with priv := { s.priv with answer := [], poison := false } })
  ) ∧
  (
    ∀ (win off req : Nat) (data : List Byte) (w1 : DWord),
      let performed (s : State) : Prop := ∀ m ∈ s.net, m.code = mUPDATE → m.cause ≠ some 1
      Happens (.peerWrite win off req data) (fun s =>
          let pa := (Sparse.get 0 s.priv.iw0 win).toNat + off
          s.life.booted = true ∧ win < 32 ∧ Sparse.get 0 s.priv.iw1 win = w1 ∧ w1.getLsbD 63 = true ∧ data ≠ [] ∧
          off + data.length ≤ iwSize w1 ∧ (iwTrig w1 < off ∨ off + data.length ≤ iwTrig w1) ∧ s.life.peerQ = [] ∧
          pa % 128 + data.length ≤ 128 ∧ isHost pa = false ∧ s.kind (s.range (pa / 128)).slot = .through ∧
          s.lineChanging (pa / 128) = false ∧ (∀ q ∈ (s.home (lineHome (pa / 128))).stalled, q.line ≠ pa / 128) ∧
          (s.hline (pa / 128)).freeAt ≤ s.now ∧ (s.hline (pa / 128)).hold ≤ s.now ∧ s.readyFor (pa / 128) = [] ∧ s.updOut (pa / 128) = false ∧
          1 ∉ s.life.paths) (fun s t =>
        let pa := (Sparse.get 0 s.priv.iw0 win).toNat + off
        t.life.peerQ = [] ∧ (∀ k, k < data.length → t.byte (pa + k) = byteAt data k) ∧
        ∀ a, a < pa ∨ pa + data.length ≤ a → t.byte a = s.byte a) ∧
      Happens (.peerWrite win off req data) (fun s => s.life.booted = true ∧ win < 32 ∧ (Sparse.get 0 s.priv.iw1 win).getLsbD 63 = false ∧
          s.life.peerQ = [] ∧ s.errNext - s.priv.errhead.toNat < 2 ^ ringLog s.priv.errsz ∧ s.now < 2 ^ 64 ∧
          s.isDevice (s.priv.errbase.toNat + 32 * (s.errNext % 2 ^ ringLog s.priv.errsz)) = true ∧ s.priv.errbase.toNat % 4096 = 0) (fun s t =>
        RingWrites s t (s.priv.errbase.toNat + 32 * (s.errNext % 2 ^ ringLog s.priv.errsz)) (.record 0)
          [8 * 2 ^ 56 + 52 * 2 ^ 48, 0, s.now, s.errNext % 2 ^ 32]) ∧
      Happens (.ingressSignal win) (fun s => s.life.signals = [(win, req, w1)] ∧ ∃ m ∈ s.net, m.code = mUPDATE ∧ m.cause = some 1)
        (fun s t => t = s.at (s.now + 1) (.ingressSignal win)) ∧
      Happens (.ingressSignal win) (fun s => s.life.signals = [(win, req, w1)] ∧ performed s ∧ w1.getLsbD 59 = false) (fun s t =>
        t = ({ s with life := { s.life with signals := [] } }).evOp 0 0 (evKey (iwTenant w1) (iwTarget w1)) (.launch 0) 0
          [{ who := { who := .peer }, scope := .system, pts := Sparse.get 0 s.peerTs req, vc := [] }]) ∧
      Happens (.ingressSignal win) (fun s => s.life.signals = [(win, req, w1)] ∧ performed s ∧ w1.getLsbD 59 = true ∧ w1.getLsbD 58 = true ∧
          (s.tide (bits w1 0 8)).tenant = some (iwTenant w1)) (fun s t =>
        t = (({ s with life := { s.life with signals := [] } }).tideArrive (bits w1 0 8) (.window win)
          [{ who := { who := .peer }, scope := .system, pts := Sparse.get 0 s.peerTs req, vc := [] }]).2) ∧
      Happens (.peerRead win off) (fun _ => True) (fun s t => t = { s with priv := { s.priv with answer := [], poison := true } }) ∧
      Happens .ingressPerst (fun _ => True) (fun s t => t = { s with life := { s.life with peerQ := [] } })
  )

/-- 15 R366, R385; 16 R389, R393; 17 R426; 19 R442 to R450: the registers of a tenant's window, once they decode: the tail moves forward
only, and is held back while the queue is switched out; PROG and the queue's words are written while the queue does not run; ROOT and an
invalidation drop the translations; every write of BAR0 has 8 aligned bytes, and the words of the MSI-X table are read back; an unmasked vector sends
what is pending, while MSI-X is enabled and the function not masked. The places of these two bits in configuration space and of the HDM decoder's
registers in BAR4, and that a vector counts as masked while MSI-X is not enabled, are the model's choice (log entry 53). -/
def Obligations.WindowsTakeTheirWrites : Prop :=
  ∀ (tn q k : Nat) (val : DWord) (v : Nat),
    let v32 : Word := val.extractLsb' 0 32
    let open_ (s : State) : Prop := s.life.booted = true ∧ tn < 8 ∧ q < 16
    let d (s : State) : Nat := (v32.toNat + 2 ^ 32 - (s.queue tn q).tail.toNat) % 2 ^ 32
    Happens (.qtail tn q val) (fun s => open_ s ∧ (s.queue tn q).sw = 0 ∧ 0 < d s ∧ d s < 2 ^ 31)
      (fun s t => (t.queue tn q).tail = v32 ∧ (t.queue tn q).prog = (s.queue tn q).prog) ∧
    Happens (.qtail tn q val) (fun s => open_ s ∧ (s.queue tn q).sw = 0 ∧ (d s = 0 ∨ 2 ^ 31 ≤ d s)) (fun s t => t = s) ∧
    Happens (.qtail tn q val) (fun s => open_ s ∧ (s.queue tn q).sw ≠ 0)
      (fun s t => t = s.modQueue tn q fun x => { x with latched := some v32 }) ∧
    Happens (.qprogWrite tn q val) (fun s => open_ s ∧ ((s.queue tn q).sw ≠ 0 ∨ (s.queue tn q).qd1.getLsbD 29 = false))
      (fun s t => t = s.modQueue tn q fun x => { x with prog := v32, snap := v32, qerr := false }) ∧
    Happens (.qprogWrite tn q val) (fun s => open_ s ∧ (s.queue tn q).sw = 0 ∧ (s.queue tn q).qd1.getLsbD 29 = true) (fun s t => t = s) ∧
    Happens (.qdWrite tn q 0 val) (fun s => open_ s ∧ (s.queue tn q).qd1.getLsbD 29 = false) (fun s t =>
      t = s.modQueue tn q fun x => { x with qd0 := val }) ∧
    Happens (.switchOut tn q) (fun s => open_ s ∧ (s.queue tn q).sw = 0)
      (fun s t => t = s.modQueue tn q fun x => { x with sw := 2, snap := x.prog, latched := none }) ∧
    Happens (.switchIn tn q) (fun s => open_ s ∧ (s.queue tn q).sw ≠ 0 ∧ (s.queue tn q).latched = none)
      (fun s t => t = s.modQueue tn q fun x => { x with sw := 0, latched := none }) ∧
    (∀ l, Happens (.cancel tn val) (fun s => (s.ten tn).live = true ∧ bits val 62 2 = 0 ∧
        (let e := ((s.queue tn (bits val 58 4)).prog.toNat + 2 ^ 32 - bits val 0 32) % 2 ^ 32; 0 < e ∧ e < 2 ^ 31) ∧
        s.lents.find? (fun p => p.2.used && !p.2.finished && p.2.tenant == tn && p.2.queue == bits val 58 4 && p.2.n == bits val 0 32) = some l)
      fun s t => t = s.cancelLaunch l.1 1) ∧
    Happens (.cancel tn val) (fun s => (s.ten tn).live = true ∧ val ∉ (s.ten tn).cancels ∧ (s.ten tn).cancels.length < 16 ∧
        (let e := ((s.queue tn (bits val 58 4)).prog.toNat + 2 ^ 32 - bits val 0 32) % 2 ^ 32; e = 0 ∨ 2 ^ 31 ≤ e))
      (fun s t => t = s.modTen tn fun x => { x with cancels := x.cancels ++ [val] }) ∧
    Happens (.rootWrite tn val) (fun s => open_ s ∧ s.tenBusy tn = false) (fun _ t =>
      (t.ten tn).root = BitVec.ofNat 64 (bits val 10 42 * 2 ^ 10) ∧ ∀ c e, e ∈ (t.core c).tlb → e.tenant ≠ tn) ∧
    Happens (.tlbInvalidate tn val) (fun s => open_ s ∧ val.getLsbD 47 = true ∧ (s.ten tn).tlbBusy = false) (fun s t =>
      (t.ten tn).tlbBusy = true ∧ (t.ten tn).tlbOps = s.openOps tn ∧
      let first := (bits (s.ten tn).tlbinv0 13 51 * 8192 + 2 ^ 64 * bits val 48 16) / 8192
      let n := bits val 0 32
      ∀ c e, e ∈ (t.core c).tlb → e.tenant = tn → n ≠ 0 ∧ ¬ (e.vpage < first + n ∧ first < e.vpage + e.size)) ∧
    Happens (.tlbInvalidateComplete tn) (fun s => (s.ten tn).tlbBusy = true ∧ ((s.ten tn).tlbOps.any s.opOpen = true ∨
        ∃ p ∈ s.towers, ∃ w ∈ p.2.walks, w.inv = true ∧ w.tenant = tn)) (fun s t => t = s.at (s.now + 16) (.tlbInvalidateComplete tn)) ∧
    Happens (.tlbInvalidateComplete tn) (fun s => (s.ten tn).tlbBusy = true ∧ (s.ten tn).tlbOps.any s.opOpen = false ∧
        (∀ p ∈ s.towers, ∀ w ∈ p.2.walks, w.inv = true → w.tenant ≠ tn) ∧ (s.ten tn).tlbFlush = true ∧ ∀ p ∈ s.gangs, p.2.tenant = tn → p.2.here = true → s.wrtOut p.1 = false) (fun s t =>
      (t.ten tn).tlbBusy = false ∧ (t.ten tn).tlbDone = (s.ten tn).tlbDone + 1) ∧
    Happens (.imgflush tn val) (fun _ => True) (fun s t =>
      t = s.modTen tn fun x => { x with images := x.images.filter fun p => p.1 != val.toNat }) ∧
    Happens (.trbaseWrite tn val) (fun s => open_ s ∧ (s.ten tn).dbgctl.getLsbD 1 = false) (fun _ t =>
      (t.ten tn).trbase = BitVec.ofNat 64 (bits val 12 40 * 2 ^ 12) ∧ (t.ten tn).trtail = 0) ∧
    Happens (.cecntClear k) (fun s => s.life.booted = true ∧ k ≤ 98) (fun _ t => Sparse.get 0 t.priv.cecnt k = 0) ∧
    Happens (.registerWrite (0x10000 * tn + 16 * q) 8 val) open_ (fun s t => exec (.qtail tn q val) s = .next t) ∧
    Happens (.registerWrite (0x84000 + 8) 8 val) (fun s => s.life.booted = true) (fun _ t => t.priv.errsz = BitVec.ofNat 64 (bits val 0 5)) ∧
    (∀ off size, off < 2 ^ 20 → size ≠ 8 ∨ off % 8 ≠ 0 → Happens (.registerWrite off size val) (fun _ => True) fun s t => t = s) ∧
    Happens (.registerWrite (2 ^ 20 + 16 * v) 4 val) (fun s => s.life.booted = true ∧ v < 256) (fun s t =>
      s.readRegister (2 ^ 20 + 16 * v + 4) 4 = t.readRegister (2 ^ 20 + 16 * v + 4) 4 ∧ t.readRegister (2 ^ 20 + 16 * v) 4 = v32.setWidth 64) ∧
    Happens (.msixVectorUnmask v) (fun s => v < 256 ∧ s.priv.msixPend.getLsbD v = true ∧ s.priv.cfg.msixOn = true ∧
        s.priv.cfg.msixMask = false) (fun s t =>
      t.priv.msixPend.getLsbD v = false ∧ Sparse.get 0 t.priv.msixSent v = Sparse.get 0 s.priv.msixSent v + 1 ∧
      (Sparse.get 1 t.priv.msix (4 * v + 3)).getLsbD 0 = false) ∧
    Happens (.msixVectorUnmask v) (fun s => v < 256 ∧ (s.priv.cfg.msixOn = false ∨ s.priv.cfg.msixMask = true)) (fun s t =>
      t.priv.msixPend = s.priv.msixPend ∧ t.priv.msixSent = s.priv.msixSent ∧ (Sparse.get 1 t.priv.msix (4 * v + 3)).getLsbD 0 = false) ∧
    Happens (.registerWrite (cfgBase + 0x40) 4 val) (fun _ => True) (fun _ t =>
      t.priv.cfg.msixOn = v32.getLsbD 31 ∧ t.priv.cfg.msixMask = v32.getLsbD 30) ∧
    Happens (.registerWrite (bar4 + 0x1220) 4 val) (fun _ => v32.getLsbD 9 = true) fun _ t => t.hdmAt = t.priv.cfg.hdmBase.toNat

/-- 15 R367, R372, R376, R368: the next record of a queue is read from its ring, once its line is ready, and taken in; a tail too far ahead disables the queue
instead; a launch whose gate is open copies its patch slots and starts; one with a gate asks it first; a launch that has waited for longer
than its tenant's bound is starving. -/
def Obligations.LaunchesAreTakenInAndStarted : Prop :=
  ∀ (tn q e l : Nat),
    let ready (s : State) : Bool × State := s.tenReady (s.launch l).tenant (s.launch l).patchVa (4 * (s.launch l).npatch)
    Happens (.recordIntake tn q) (fun s => s.canIntake tn q = true ∧ (s.queue tn q).ahead ≤ 2 ^ (s.queue tn q).lsize ∧ s.freeLent = some e ∧
        (s.recordReady tn q).1 = true)
      (fun s t =>
        let s := (s.recordReady tn q).2
        let x := s.queue tn q
        let pa := x.base + 128 * (x.prog.toNat % 2 ^ x.lsize)
        ∃ ws : List DWord, ws.length = 16 ∧ t = s.takeRecord tn q e ws ∧
          ∀ b, s.mgmtRead pa 128 = some b → ∀ k, k < 16 → ws.getD k 0 = BitVec.ofNat 64 (leNat ((b.drop (8 * k)).take 8))) ∧
    Happens (.recordIntake tn q) (fun s => s.canIntake tn q = true ∧ (s.queue tn q).ahead ≤ 2 ^ (s.queue tn q).lsize ∧ s.freeLent = some e ∧
        (s.recordReady tn q).1 = false) (fun s t => t = (s.recordReady tn q).2.at ((s.recordReady tn q).2.now + 4) (.recordIntake tn q)) ∧
    Happens (.recordIntake tn q) (fun s => s.canIntake tn q = true ∧ 2 ^ (s.queue tn q).lsize < (s.queue tn q).ahead) (fun s t =>
      (t.queue tn q).qerr = true ∧ (t.queue tn q).en = false ∧ (t.queue tn q).prog = (s.queue tn q).prog ∧ t.lents = s.lents) ∧
    (∀ b, Happens (.launchStart l) (fun s => s.canStart (s.launch l) = true ∧ ((s.launch l).flag 10 = false ∨ (s.launch l).gate ≠ 0) ∧
        (s.launch l).total ≠ 0 ∧ (ready s).1 = true ∧ (ready s).2.tenRead (s.launch l).tenant (s.launch l).patchVa (4 * (s.launch l).npatch) = some b)
      fun s0 t =>
      let la := s0.launch l
      let s := (ready s0).2
      (t.launch l).started = true ∧ (t.launch l).since = s.now ∧ (t.launch l).starving = false ∧ (t.launch l).bound = la.bound ∧
      (t.launch l).patch = (List.range la.npatch).map (fun k => BitVec.ofNat 32 (leNat ((b.drop (4 * k)).take 4))) ∧
      t.agenda = s.agenda ++ [(s.now + 2100 * (s.ten la.tenant).starve, .starvationExpiry l)] ∧ t.gangs = s.gangs) ∧
    Happens (.launchStart l) (fun s => s.canStart (s.launch l) = true ∧ ((s.launch l).flag 10 = false ∨ (s.launch l).gate ≠ 0) ∧
        (ready s).1 = false) (fun s t => t = (ready s).2.at ((ready s).2.now + 4) (.launchStart l)) ∧
    Happens (.launchStart l) (fun s => s.canStart (s.launch l) = true ∧ (s.launch l).flag 10 = true ∧ (s.launch l).gate = 0) (fun s t =>
      t = (s.setLaunch l { s.launch l with gate := 1 }).evOp 0 1 (evKey (s.launch l).tenant (bits ((s.launch l).w 9) 0 16)) (.launch l)
        (((s.launch l).w 9).extractLsb' 32 32) []) ∧
    Happens (.starvationExpiry l) (fun s => (s.launch l).used = true ∧ (s.launch l).started = true ∧ (s.launch l).finished = false ∧
        (s.launch l).bound < (s.launch l).total ∧ (s.launch l).since + 2100 * (s.ten (s.launch l).tenant).starve ≤ s.now)
      fun s t => t = s.setLaunch l { s.launch l with starving := true }

/-- 15 R377 to R382, R384: a bind record is posted in the lowest free entry; a crew is accepted where its record and its core allow it,
with every register of its gangs at its reset value, and refused where they do not; a cluster whose reservation stands commits, where its resources are
still free, and is refused where they are not; a crew
whose last work is over retires. -/
def Obligations.CrewsAreBoundDispatchedAndRetired : Prop :=
  ∀ (tw n g k u : Nat) (b0 b1 : DWord),
    let slot (s : State) (j : Nat) : SlotE := Sparse.get {} (s.tower tw).slots j
    let fits (s : State) : Prop :=
      let ms := (s.tower tw).members g
      s.groupPlaced ms = true ∧ (∀ m ∈ ms, s.bindOk tw m.2.b0 m.2.b1 = true) ∧
      ∀ m ∈ ms, s.claimFree (s.claimOf tw m.2.b0 m.2.b1) (s.launch (s.lentOf (ms.headD (0, {})).2.b0)).minl = true
    Happens (.bindPost tw b0 b1) (fun s =>
        let la := s.launch (s.lentOf b0)
        let kept (j : Nat) : SlotE := Sparse.get {} ((s.tower tw).slots.filter fun p => p.2.st != .refused) j
        tw < 2 ∧ la.used = true ∧ la.started = true ∧ la.finished = false ∧ bits b0 32 32 = la.bound ∧ la.bound < la.total ∧
        ((s.tower tw).slots.filter fun p => p.2.st == .posted).length < 256 ∧
        k < 1024 ∧ (kept k).st = .free ∧ ∀ j, j < k → (kept j).st ≠ .free)
      (fun s t => (slot t k).st = .posted ∧ (slot t k).b0 = b0 ∧ (slot t k).b1 = b1 ∧ (slot t k).seq = (s.tower tw).postSeq ∧
        (t.tower tw).postSeq = (s.tower tw).postSeq + 1 ∧
        (t.launch (s.lentOf b0)).bound = (s.launch (s.lentOf b0)).bound + 1 ∧ t.gangs = s.gangs) ∧
    Happens (.bindAccept tw n) (fun s =>
        let e := slot s n
        e.st = .posted ∧ (s.tower tw).acceptAt ≤ s.now ∧ bits e.b1 32 13 = 0 ∧ s.turnFor tw e = true ∧ s.bindOk tw e.b0 e.b1 = true ∧
        s.claimFree (s.claimOf tw e.b0 e.b1) (s.launch (s.lentOf e.b0)).minl = true)
      (fun s t =>
        let e := slot s n
        let l := s.lentOf e.b0
        let la := s.launch l
        let c := s.claimOf tw e.b0 e.b1
        let id := l * 2 ^ 32 + bits e.b0 32 32
        (slot t n).st = .resident ∧ (t.tower tw).acceptAt = s.now + 8 ∧ (t.launch l).disp = la.disp + 1 ∧
        (t.crew id).here = true ∧ (t.crew id).core = tw * 48 + bits e.b0 10 6 ∧ (t.crew id).vbase = bits e.b1 56 8 ∧
        (t.crew id).wsize = 16384 * la.vsz ∧ (t.crew id).gran = [] ∧ (t.crew id).patch = la.patch ∧ (t.crew id).ngangs = la.ngangs ∧
        ∀ j p, c.places[j]? = some p →
          let x := t.gang (id * 16 + j)
          x.here = true ∧ x.width = la.width ∧ x.nv = 8 * la.nvd ∧ x.tenant = la.tenant ∧ x.v = [] ∧ x.s = [] ∧ x.a = [] ∧ x.k = [] ∧
          x.mode = 0 ∧ x.flags = 0 ∧ x.quarter = p.quarter ∧
          x.slices = List.replicate (la.width / 4) { live := true, pc := addrPc (BitVec.ofNat 80 la.code), mask := 15 }) ∧
    Happens (.bindAccept tw n) (fun s =>
        let e := slot s n
        e.st = .posted ∧ (s.tower tw).acceptAt ≤ s.now ∧ bits e.b1 32 13 = 0 ∧ s.turnFor tw e = true ∧
        (s.bindOk tw e.b0 e.b1 && s.claimFree (s.claimOf tw e.b0 e.b1) (s.launch (s.lentOf e.b0)).minl) = false)
      (fun s t => (slot t n).st = .refused ∧ t.gangs = s.gangs ∧ t.crews = s.crews) ∧
    Happens (.clusterReserve tw g) (fun s => s.groupReadyAt tw g = true ∧ ((s.tower tw).group g).reserved ≠ [] ∧ fits s)
      (fun s t =>
        t = ((s.tower tw).members g).foldl (fun s m => s.dispatchCrew tw m.1)
          (s.setTower tw { s.tower tw with acceptAt := s.now + 8, groups := Sparse.set {} (s.tower tw).groups g {} })) ∧
    Happens (.clusterReserve tw g) (fun s =>
        s.groupReadyAt tw g = true ∧ ((s.tower tw).group g).reserved = [] ∧ fits s ∧ ∀ p ∈ (s.tower tw).groups, p.2.reserved = [])
      (fun s t => t = s.setTower tw { s.tower tw with
        groups := Sparse.set {} (s.tower tw).groups g
          { (s.tower tw).group g with reserved := ((s.tower tw).members g).map (·.1) } }) ∧
    Happens (.clusterReserve tw g) (fun s => s.groupReadyAt tw g = true ∧ ¬ fits s) (fun s t =>
      t.gangs = s.gangs ∧ ∀ m ∈ (s.tower tw).members g, (slot t m.1).st = .refused) ∧
    Happens (.clusterBackoffExpiry tw g) (fun s => ((s.tower tw).group g).wait ≤ s.now)
      (fun s t => ((t.tower tw).group g) = { (s.tower tw).group g with wait := 0 } ∧ t.gangs = s.gangs) ∧
    Happens (.crewRetire u) (fun s =>
        let cr := s.crew u
        s.canRetire u cr = true ∧ (∀ p ∈ s.gangsOf u, s.holdsDirty cr.core p.1 = false) ∧ cr.pos = 0 ∧ (s.launch cr.lent).finished = false ∧
        (s.launch cr.lent).retired + 1 < (s.launch cr.lent).total)
      (fun s t => (∀ p ∈ t.gangs, p.2.crew ≠ u) ∧ (∀ p ∈ t.crews, p.1 ≠ u) ∧
        (t.launch (s.crew u).lent).retired = (s.launch (s.crew u).lent).retired + 1)

/-- 16 R392, R394, R396; 19 R451: a walk that ends gives its entry to the L2 TLB and those that wait translate again; one whose lines are not ready
tries again; one that fails makes a page request, with its PASID, page and permissions; Success takes the request away and those that wait translate
again; a fetch that is refused stops its gang before the packet. -/
def Obligations.PagesAreWalkedAndAnswered : Prop :=
  ∀ (tw n g : Nat) (w : Walk) (need va : Nat),
    let due (s : State) : Prop := (s.tower tw).walks = [w] ∧ n = 0 ∧ (∃ d, w.due = some d ∧ d ≤ s.now) ∧ w.who = [(.fetch g, need, va)]
    let lines (s : State) : Bool × State :=
      s.allReady (.engine tw) (2 + 8 * tw) 0 false ((s.walkTree tw w.tenant (w.vpage * 8192)).2.map fun e => (some e.2.1, 8))
    let walks (s : State) (r : WalkRes) : Prop := due s ∧ (s.walkTree tw w.tenant (w.vpage * 8192)).1 = r ∧ (lines s).1 = true
    (∀ e, Happens (.pageWalk tw n) (fun s => walks s (.ok e) ∧ e.allows need = true ∧ (s.gang g).slices ≠ []) fun _ t =>
      (t.tower tw).l2tlb.head? = some e ∧ (t.tower tw).walks = [] ∧ (t.gang g).fetchWait = false) ∧
    Happens (.pageWalk tw n) (fun s => due s ∧ (lines s).1 = false) (fun s t =>
      (t.tower tw).walks = [{ w with due := some ((lines s).2.now + 4) }] ∧ t.gang g = (lines s).2.gang g) ∧
    Happens (.pageWalk tw n) (fun s => walks s .fail ∧ (s.tower tw).preqs = []) (fun s t =>
      (t.tower tw).preqs = [{ tenant := w.tenant, vpage := w.vpage, who := [(.fetch g, need, va)], msg :=
        { pasid := (s.ten w.tenant).pasid.toNat, addr := w.vpage * 8192, r := need % 2 == 1, w := need / 2 % 2 == 1, x := need / 4 % 2 == 1
          last := true, group := 0 } }] ∧
      (t.tower tw).walks = [] ∧ t.gang g = s.gang g) ∧
    Happens (.pageResponse tw n .success) (fun s => n < 256 ∧ (s.tower tw).preqs[n]? = some w ∧ w.who = [(.fetch g, need, va)] ∧
        (s.gang g).slices ≠ []) (fun s t =>
      (t.tower tw).preqs = (s.tower tw).preqs.eraseIdx n ∧ t.gang g = { s.gang g with fetchWait := false }) ∧
    Happens (.pageResponse tw n .invalidRequest) (fun s => n < 256 ∧ (s.tower tw).preqs[n]? = some w ∧ w.who = [(.fetch g, need, va)] ∧
        (s.gang g).slices ≠ [] ∧ (s.gang g).here = true ∧ (s.gang g).faulted = false ∧
        (s.ten (s.gang g).tenant).fctl1.getLsbD 16 = true) (fun s t =>
      (t.tower tw).preqs = (s.tower tw).preqs.eraseIdx n ∧ (t.gang g).stop = some .software ∧
      (t.gang g).tstat = pack [(0, 10)] ∧ (t.gang g).tmask = 0 ∧ (t.gang g).tpc = pcAddr (addrPc (BitVec.ofNat 80 va)) ∧
      (t.gang g).v = (s.gang g).v)

/-- 16 R399, R401, R402, R405 to R408, R411: the swap-out timer runs while a gang waits on a page request and starts a save; a vacate saves
every crew on its cores, after a borrow of one of them; the gangs of a crew that is saved stop, and its image, with the registers of its gangs at
the places that R411 gives, is written; a crew is restored from its image, which gives its gangs their registers back, and is cancelled where
the image does not agree; a borrow holds the gangs of its core and copies their V registers to the spill area, byte by byte, and they go on
with the bytes of the spill area when it ends. Which crews make room for a starving one is the model's choice (log entry 56), and so are the
retries, 16 and 4 cycles later (log entry 32). -/
def Obligations.CrewsAreSavedAndRestored : Prop :=
  (
    ∀ (u core tw c : Nat),
      let at_ (s : State) : Nat := (s.ten (s.crew u).tenant).ctxBase + (s.crew u).ctxAt
      let image (s : State) : Bool × State := s.mgmtReady [(at_ s, (s.crew u).ctxLen)]
      Happens (.swapoutTimer u) (fun s => s.timerTurn u (s.crew u) = true ∧ s.yieldRoom u = none ∧ (s.crew u).timer = none)
        (fun s t => t = s.setCrew u { s.crew u with timer := some s.now }) ∧
      Happens (.swapoutTimer u) (fun s => s.timerTurn u (s.crew u) = true ∧ s.yieldRoom u = none ∧ (s.crew u).timer ≠ none ∧ s.crewWaits u = false)
        (fun s t => t = s.setCrew u { s.crew u with timer := none }) ∧
      (∀ from_, Happens (.swapoutTimer u) (fun s =>
          let cr := s.crew u
          s.timerTurn u cr = true ∧ s.yieldRoom u = none ∧ cr.timer = some from_ ∧ s.crewWaits u = true ∧ cr.pos = 0) fun s t =>
        from_ + 2100 * (s.ten (s.crew u).tenant).ftmo ≤ s.now ∧ (t.crew u).saving = 1 ∧ (t.crew u).ctxLen = 128 * (s.crew u).ctxLay.size ∧
        (t.crew u).ctxAt + (t.crew u).ctxLen ≤ (s.ten (s.crew u).tenant).ctxBytes ∧ t.gangs = s.gangs) ∧
      (∀ s1, Happens (.swapoutTimer u) (fun s => s.timerTurn u (s.crew u) = true ∧ s.yieldRoom u = some s1) fun s t =>
        t = s1 ∧ (t.crew u).saving = 1 ∧ (t.crew u).dispatchable = true ∧ t.gangs = s.gangs) ∧
      Happens (.vacate tw [core]) (fun s => tw < 2 ∧ core < 48 ∧ s.lent (tw * 48 + core) = false ∧ s.mayVacate [tw * 48 + core] = true ∧
          (s.crews.filter fun p => p.2.here && p.2.core == tw * 48 + core) = [(u, s.crew u)] ∧
          (s.crew u).pos = 0 ∧ (s.crew u).saving = 0 ∧
          (ctxPlace (s.ctxUsed (s.crew u).tenant) (128 * (s.crew u).ctxLay.size) (s.ten (s.crew u).tenant).ctxBytes).isSome = true)
        (fun s t => (t.crew u).saving = 2 ∧ (t.crew u).here = true ∧ (t.crew u).ctxLen = 128 * (s.crew u).ctxLay.size ∧ t.gangs = s.gangs) ∧
      Happens (.vacate tw [core]) (fun s => tw < 2 ∧ core < 48 ∧ s.lent (tw * 48 + core) = true)
        (fun s t => t = s.at (s.now + 16) (.vacate tw [core])) ∧
      Happens (.crewSaveComplete u) (fun s => s.saveTurn u (s.crew u) = true ∧ (s.gangsOf u).any (fun p => s.holdable p.1 p.2) = true)
        (fun s t => t = s.holdAll (s.gangsOf u)) ∧
      Happens (.crewSaveComplete u) (fun s => s.saveTurn u (s.crew u) = true ∧ (∀ p ∈ s.gangsOf u, s.holdable p.1 p.2 = false) ∧
          s.saveReady u (s.crew u) = true) (fun s t =>
        let img := s.ctxImage u (s.crew u)
        (t.crew u).here = false ∧ (t.crew u).saved = true ∧ (t.crew u).mins = (s.core (s.crew u).core).minsts.filter (fun m => m.crew == u) ∧
        (∀ m ∈ (t.core (s.crew u).core).minsts, m.crew ≠ u) ∧ (∀ p ∈ s.gangsOf u, (t.gang p.1).here = false) ∧
        ((∀ k, k < img.length → s.isDevice (at_ s + k) = true ∧ s.writesAtOnce ((at_ s + k) / 128)) →
          ∀ k, k < img.length → t.byte (at_ s + k) = byteAt img k)) ∧
      (∀ cl b, Happens (.crewRestore u core) (fun s => s.restorable u (s.crew u) = true ∧ s.restorePlan u core = some [(u, core, cl)] ∧
          (image s).1 = true ∧ (image s).2.readImage (s.crew u) = some b ∧ (image s).2.imageOk (s.crew u) b = true ∧
          Sparse.wf {} s.gangs = true) fun s t =>
        t = ((image s).2.restoreCrew u core cl b).endTurn (s.launch (s.crew u).lent) ∧
        (t.crew u).here = true ∧ (t.crew u).saved = false ∧ (t.crew u).core = core ∧
        ∀ (j g : Nat) (x : Gang) (p : GPlace), (s.gangsOf u)[j]? = some (g, x) → cl.places[j]? = some p →
          let y := x.fromBlock ((b.drop (fieldAt b 24 8 + (s.crew u).ctxLay.gb * j)).take (s.crew u).ctxLay.gb)
          (t.gang g).here = true ∧ (t.gang g).core = core ∧ (t.gang g).quarter = p.quarter ∧ (t.gang g).rbase = p.lo ∧ (t.gang g).aside = false ∧
          (t.gang g).s = y.s ∧ (t.gang g).a = y.a ∧ (t.gang g).k = y.k ∧ (t.gang g).v = y.v ∧ (t.gang g).mode = y.mode) ∧
      (∀ cl, Happens (.crewRestore u core) (fun s => s.restorable u (s.crew u) = true ∧ s.restorePlan u core = some [(u, core, cl)] ∧
          (image s).1 = true ∧ ∀ b, (image s).2.readImage (s.crew u) = some b → (image s).2.imageOk (s.crew u) b = false)
        fun s t => t = (image s).2.askCancel (s.crew u).lent 3) ∧
      (∀ cl, Happens (.crewRestore u core) (fun s => s.restorable u (s.crew u) = true ∧ s.restorePlan u core = some [(u, core, cl)] ∧
          (image s).1 = false) fun s t => t = (image s).2.at ((image s).2.now + 4) (.crewRestore u core)) ∧
      Happens (.borrowCommand c) (fun s => c < 96 ∧ s.rtWants c = true ∧ (s.core c).borrow = false ∧ Sparse.wf {} s.gangs = true) (fun s t =>
        (t.core c).borrow = true ∧ (t.core c).spilled = none ∧ (∀ p ∈ t.crews, p.2.here = true → p.2.core = c → p.2.aside = true) ∧
        (∀ p ∈ s.victims c, t.gang p.1 = p.2 ∨ t.gang p.1 = p.2.hold) ∧
        (∀ p ∈ s.victims c, p.2.resume = none → p.2.aside = false → t.gang p.1 = p.2.hold) ∧
        ∀ j, (∀ p ∈ s.victims c, p.1 ≠ j) → t.gang j = s.gang j) ∧
      Happens (.borrowCommand c) (fun s => c < 96 ∧ s.rtWants c = true ∧ (s.core c).borrow = true ∧ (s.core c).restoring = none ∧
          (s.core c).spilled = none ∧ (∀ p ∈ s.victims c, p.2.aside = true) ∧ s.victimsApart c) (fun s t =>
        (∃ d, (t.core c).spilled = some d ∧ s.now ≤ d ∧ d ≤ s.now + 1100) ∧
        (∀ p ∈ s.victims c, (t.gang p.1).spilled = true ∧ (t.gang p.1).v = [] ∧ (t.gang p.1).s = p.2.s ∧ t.regsSpilled c p.2 p.2) ∧
        ∀ j, (∀ p ∈ s.victims c, p.1 ≠ j) → t.gang j = s.gang j) ∧
      (∀ a d, Happens (.borrowCommand c) (fun s => c < 96 ∧ s.rtWants c = true ∧ (s.core c).borrow = true ∧ (s.core c).restoring = some (a, d))
        fun s t => (t.core c).restoring = none ∧ (t.core c).spilled = some (s.now + min 1100 (s.now - a)) ∧ t.gangs = s.gangs) ∧
      Happens (.borrowRestoreComplete c) (fun s => s.borrowOver c (s.core c) = true) (fun s t =>
        (t.core c).borrow = true ∧ ∃ d, (t.core c).restoring = some (s.now, d) ∧ d ≤ s.now + 1100 ∧ (d, .borrowRestoreComplete c) ∈ t.agenda) ∧
      Happens (.borrowRestoreComplete c) (fun s => (∃ a d, (s.core c).restoring = some (a, d) ∧ d ≤ s.now) ∧
          (s.core c).lentImg = none ∧ Sparse.wf {} s.gangs = true ∧ ∀ p ∈ s.victims c, p.2.width ≤ 64) (fun s t =>
        (t.core c).borrow = false ∧ (t.core c).restoring = none ∧ (∀ p ∈ t.crews, p.2.core = c → p.2.aside = false) ∧
        ∀ p ∈ s.victims c, p.2.spilled = true → (t.gang p.1).spilled = false ∧ s.regsSpilled c p.2 { p.2 with v := (t.gang p.1).v })
  ) ∧
  (
    -- the image of a crew: header, and the block of each gang
    ∀ (s : State) (u : Nat),
      let cr := s.crew u
      let img := s.ctxImage u cr
      let y := cr.ctxLay
      (s.gangsOf u).length = cr.ngangs → (∀ p ∈ s.gangsOf u, p.2.width = cr.width ∧ p.2.nv = cr.nv) →
      fieldAt img 0 8 = (pack [(48, 0xC7E1), (40, 1), (37, cr.saving), (34, cr.tenant), (33, cr.core / 48), (0, y.size)]).toNat ∧
      fieldAt img 24 8 = 128 ∧ fieldAt img 32 8 = y.coff % 2 ^ 64 ∧ fieldAt img 48 8 = y.voff % 2 ^ 64 ∧ fieldAt img 56 8 = y.qoff % 2 ^ 64 ∧
      ∀ j g x, (s.gangsOf u)[j]? = some (g, x) →
        let f (o n : Nat) : Nat := fieldAt img (128 + y.gb * j + o) n
        f 0x10 4 = x.mode.toNat ∧ f 0x14 4 = x.flags.toNat ∧ f 0x18 8 = x.mstat.toNat ∧ f 0x20 8 = x.tstat.toNat ∧
        f 0x28 8 + 2 ^ 64 * f 0x30 8 = x.tpc.toNat ∧ f 0x38 8 = x.tmask.toNat ∧
        (∀ r, r < 16 → f (0x40 + 8 * r) 8 = (x.sreg r).toNat ∧ f (0xC0 + 16 * r) 16 = (x.areg r).toNat) ∧
        (∀ r, r < 8 → f (0x1C0 + 8 * r) 8 = (x.kreg r).toNat) ∧
        ∀ r l, r < x.nv → l < x.width → f (0x5000 + 4 * (r * x.width + l)) 4 = (x.vreg r l).toNat
  )

/-- 12 R331, R335, R338 to R340, R344: a record enters its island with its stream and mark; an island stalls from the cycle in which something
it needs is not there until it is; a sequencer makes its accesses and its output is kept, a load's elements each at its place of the beat, or it goes on
later where a translation or a line is awaited; outputs are formed, and leave for the bound queue one by one; an image load ends with the island
empty and ERR clear. LOADV and LOAD give the bytes of the crew's window, and of memory, at each element's address; STOREV and STORE write each
element's bytes, the later over the earlier, and no others; an element out of bounds reads as zero or is not written, and is what latches ERR. That
elements are accessed in ascending order, and the retry of a line that is awaited, are the model's choices (log entry 32). -/
def Obligations.IslandsMoveTheirRecords : Prop :=
  (
    ∀ (k c g q n cell stream : Nat) (r : QRec) (rs : List QRec) (m : Image) (x : IslRec) (o : Nat × Beat) (os : List (Nat × Beat)),
      let goes (s : State) : Prop := s.canLeave k = true ∧ s.stalls k = (s.isl k).stallFrom.isSome
      let leaves (s : State) : Prop := goes s ∧ s.islWork k = none ∧ s.leaving k = some (m, x)
      let works (s : State) (ps : List Beat) (y : SeqRes) (s1 : State) : Prop := goes s ∧ s.islWork k = some (n, x, some cell) ∧
        (s.isl k).img = some m ∧ (m.ports (m.fabric x.stream x.bits x.vals (gridN m.wide)) x.stream x.bits cell).getD [] = ps ∧
        s.seqCell (s.islCtx k x) (m.cell cell) ps ((x.part.map (·.2)).getD []) = (y, s1)
      Happens (.islandRecordEntry k) (fun s => s.canEnter k = true ∧ s.entrant k = some (g, q, stream) ∧ ((s.gang g).qst q).recs = r :: rs)
        (fun s t => ((t.gang g).qst q).recs = rs ∧ ∃ y : IslRec, (t.isl k).inside = (s.isl k).inside ++ [y] ∧ y.bits = r.bits ∧
          y.stream = stream ∧ y.mark = r.mark ∧ y.gang = g ∧ y.after = r.after ∧ y.formed = false) ∧
      Happens (.islandRecordExit k) (fun s => s.canLeave k = true ∧ s.stalls k = true ∧ (s.isl k).stallFrom = none) (fun s t =>
        (t.isl k).stallFrom = some s.now ∧ (t.isl k).inside = (s.isl k).inside) ∧
      (∀ f, Happens (.islandRecordExit k) (fun s => s.canLeave k = true ∧ s.stalls k = false ∧ (s.isl k).stallFrom = some f) (fun s t =>
        (t.isl k).stallFrom = none ∧ (t.isl k).stalled = (s.isl k).stalled + (s.now - f) ∧ (t.isl k).inside = (s.isl k).inside)) ∧
      (∀ ps y s1, Happens (.islandRecordExit k) (fun s => works s ps y s1 ∧ m.loads cell = false ∧ y.await = none) fun _ t =>
        (t.isl k).inside = (s1.isl k).inside.set n { x with part := none, vals := x.vals ++ [(cell, (ps[0]?).getD 0, s1.now)] } ∧
        (t.isl k).err = ((s1.isl k).err || y.err) ∧ t.mem = s1.mem ∧ ∀ u a, t.vaultRead u a = s1.vaultRead u a) ∧
      (∀ ps y s1, Happens (.islandRecordExit k) (fun s => works s ps y s1 ∧ m.loads cell = true ∧ y.await = none) fun _ t =>
        ∃ (v : Beat) (d : Nat), (t.isl k).inside = (s1.isl k).inside.set n { x with part := none, vals := x.vals ++ [(cell, v, d)] } ∧
          s1.now ≤ d ∧ (t.isl k).err = ((s1.isl k).err || y.err) ∧
          ∀ i, i < 64 / seqSize (m.cell cell) →
            v.toNat / 2 ^ (8 * seqSize (m.cell cell) * i) % 2 ^ (8 * seqSize (m.cell cell)) = (y.vals[i]?).getD 0 % 2 ^ (8 * seqSize (m.cell cell))) ∧
      (∀ ps y s1 miss, Happens (.islandRecordExit k) (fun s => works s ps y s1 ∧ y.await = some miss) fun _ t =>
        (t.isl k).inside = (s1.isl k).inside.set n { x with part := some (cell, y.vals) } ∧
        (miss = true → (t.isl k).waits = true) ∧ (miss = false → (t.isl k).retry = s1.now + 4)) ∧
      (∀ e s1, Happens (.islandRecordExit k) (fun s => goes s ∧ s.islWork k = some (n, x, none) ∧
          s.runTex (s.islCtx k x) x.stream x.bits = (.ok (os, e), s1)) fun _ t =>
        (t.isl k).inside = (s1.isl k).inside.set n { x with outs := os, formed := true } ∧ (t.isl k).err = ((s1.isl k).err || e)) ∧
      Happens (.islandRecordExit k) (fun s => leaves s ∧ x.formed = false) (fun s t =>
        (t.isl k).inside = { x with outs := m.results x, formed := true } :: (s.isl k).inside.drop 1) ∧
      Happens (.islandRecordExit k) (fun s => leaves s ∧ x.formed = true ∧ x.outs = o :: os ∧ s.outQueue (islSel k) x o.1 = some (g, q)) (fun s t =>
        ((t.gang g).qst q).recs = ((s.gang g).qst q).recs ++ [{ bits := o.2, due := s.now + islTrip (islSel k) }] ∧
        (t.isl k).inside = { x with outs := os } :: (s.isl k).inside.drop 1) ∧
      Happens (.islandRecordExit k) (fun s => leaves s ∧ x.formed = true ∧ x.outs = o :: os ∧ s.outQueue (islSel k) x o.1 = none) (fun s t =>
        t.gangs = s.gangs ∧ (t.isl k).inside = { x with outs := os } :: (s.isl k).inside.drop 1) ∧
      Happens (.islandRecordExit k) (fun s => leaves s ∧ x.formed = true ∧ x.outs = [] ∧ x.mark = false) (fun s t =>
        (t.isl k).inside = (s.isl k).inside.drop 1 ∧ t.gangs = s.gangs) ∧
      Happens (.islandRecordExit k) (fun s => leaves s ∧ x.formed = true ∧ x.outs = [] ∧ x.mark = true) (fun s t =>
        t = (s.setIsl k { s.isl k with inside := (s.isl k).inside.drop 1 }).islArrive k x) ∧
      (∀ p, Happens (.i1ImageLoad c) (fun s => s.mayLoad c = true ∧ s.imgWanted c = some (p, m)) fun s t =>
        ∃ e, (t.core c).i1.loading = some (e, m) ∧ s.now ≤ e ∧ e ≤ s.now + 84000 ∧ (e, .i1ImageLoadComplete c) ∈ t.agenda) ∧
      Happens (.i1ImageLoadComplete c) (fun s => ∃ e, (s.core c).i1.loading = some (e, m) ∧ e ≤ s.now) (fun s t =>
        (t.core c).i1 = { img := some m, group := (s.core c).i1.group, pts := (s.core c).i1.pts } ∧
        ∀ p ∈ t.crews, p.2.core = c → (s.launch p.2.lent).img = some m → p.2.imgWait = false)
  ) ∧
  (
    ∀ (s : State) (x : SeqCtx) (w : BitVec 128) (p : List Beat),
      let size := 4 * 2 ^ bits (w.setWidth 64) 0 2
      let n := 64 / size
      let port (k : Nat) : Beat := (p[k]?).getD 0
      let off (k i : Nat) : Nat := (port k).toNat / 2 ^ (32 * i) % 2 ^ 32
      let el (i : Nat) : Nat := (port 0).toNat / 2 ^ (8 * size * i) % 2 ^ (8 * size)
      let runs (P : SeqRes → State → Prop) : Prop := ∃ y t, s.seqCell x w p [] = (y, t) ∧ y.await = none ∧ y.vals.length = n ∧ P y t
      let cr := s.crew x.crew
      bits (w.setWidth 64) 0 2 ≠ 3 →
      -- LOADV and STOREV
      (
        let a (k i : Nat) : Nat := (w.extractLsb' 32 32).toNat + off k i
        let good (k i : Nat) : Prop := a k i % size = 0 ∧ a k i + size ≤ cr.wsize ∧ overlap (a k i, size) cr.adRange = false
        (cellOpc w = 2 → (s.core cr.core).badVault = [] → runs fun y t => t = s ∧ (y.err = true ↔ ∃ i, i < n ∧ ¬ good 0 i) ∧
          ∀ i, i < n → (good 0 i → y.vals[i]? = some (leNat (s.vaultBytes x.crew (a 0 i) size))) ∧ (¬ good 0 i → y.vals[i]? = some 0)) ∧
        (cellOpc w = 4 → runs fun y t => t.mem = s.mem ∧ (y.err = true ↔ ∃ i, i < n ∧ ¬ good 1 i) ∧
          (∀ i, i < n → good 1 i → (∀ j, i < j → j < n → a 1 j ≠ a 1 i) → t.vaultBytes x.crew (a 1 i) size = leBytes size (el i)) ∧
          ∀ b, (∀ i, i < n → good 1 i → b < a 1 i ∨ a 1 i + size ≤ b) → t.vaultRead x.crew b = s.vaultRead x.crew b)
      ) ∧
      -- LOAD and STORE
      (
        let slot := bits ((w.extractLsb' 64 64)) 0 8
        (cellOpc w = 1 ∨ cellOpc w = 3 → cr.patch.length ≤ slot + 1 → runs fun y t => t = s ∧ y.err = true) ∧
        ∀ (lo hi : Word) (pa : Nat → Nat), cr.patch[slot]? = some lo → cr.patch[slot + 1]? = some hi →
          let va (k i : Nat) : Nat :=
            (hi.toNat * 2 ^ 32 + lo.toNat + off k i + if w.getLsbD 2 = true then x.tag.toNat * 64 else 0) % 2 ^ 80
          (cellOpc w = 1 → (∀ i, i < n → va 0 i % size = 0 → s.engAtOnce x.k needR (va 0 i) (pa i)) → runs fun y t =>
            t.mem = s.mem ∧ (y.err = true ↔ ∃ i, i < n ∧ va 0 i % size ≠ 0) ∧
            ∀ i, i < n → y.vals[i]? = some (if va 0 i % size = 0 then leNat (s.bytes (pa i) size) else 0)) ∧
          (cellOpc w = 3 → (∀ i, i < n → va 1 i % size = 0 → s.engAtOnce x.k needW (va 1 i) (pa i)) → runs fun y t =>
            (y.err = true ↔ ∃ i, i < n ∧ va 1 i % size ≠ 0) ∧
            (∀ i, i < n → va 1 i % size = 0 → (∀ j, i < j → j < n → va 1 j % size = 0 → pa j ≠ pa i) → t.bytes (pa i) size = leBytes size (el i)) ∧
            ∀ b, (∀ i, i < n → va 1 i % size = 0 → b < pa i ∨ pa i + size ≤ b) → t.byte b = s.byte b)
      )
  )

/-- 20 R459, R461, R469, R470, R472: a reset boots the device, with no gang, crew or launch, device memory cleared and host memory as it
was, no limit of a layer above those of the spec, and the list of retired pages that the newest whole copy in flash holds; a boot whose stage 1 or
2 fails leaves the recovery state; a brown-out shows after the next boot; a scrub that finds nothing comes again after 12 hours, and one that finds
an uncorrectable line sends its record. 20 R460, R462, R463: the responder answers in the order of negotiation, from certificate slot 0, with the
measurement registers as digest blocks, signed where that is asked for; in the recovery state with MEAS0 only. The bytes that the spec does not give
are the model's opaque `Config.spdmBytes`; the places of the capabilities and algorithms, and of the request for a signature, are the model's
choice (log entry 55). -/
def Obligations.BootAndAttestation : Prop :=
  (
    ∀ (a b : FlashCopy) (n : Nat),
      let good (s : State) : Prop := s.life.bootFail = none ∧ s.life.firmware.all firmwareGood = true
      let boots (s t : State) : Prop :=
        t.life.booted = true ∧ t.life.stage = 3 ∧ t.life.recovery = false ∧ t.gangs = [] ∧ t.crews = [] ∧ t.lents = [] ∧ t.cur = none ∧ t.now = 0 ∧
        t.tables = shippedTables ∧ (∀ a, t.byte a = if isHost a then s.byte a else 0) ∧
        (∀ l ∈ t.life.limits, l.temp ≤ 100 ∧ l.current ≤ 900) ∧ ∀ k, 5 ≤ k → k < 8 → t.life.meas[k]? = some 0
      Happens .reset good (fun s t => boots s t ∧ t.life.brown = false) ∧
      Happens .brownOut good (fun s t => boots s t ∧ t.life.brown = true) ∧
      Happens .reset (fun s => good s ∧ s.life.flashPages = [a, b] ∧ a.whole = true ∧ a.ends ≤ s.now ∧ b.whole = true ∧ a.seq < b.seq)
        (fun s t => t.life.pages = if b.ends ≤ s.now then b.list else a.list) ∧
      Happens .reset (fun s => s.life.bootFail = some 1 ∨ ∃ b, s.life.firmware = some b ∧ firmwareGood b = false)
        (fun _ t => t.life.booted = false ∧ t.life.recovery = true ∧ t.life.stage = 0) ∧
      Happens .reset (fun s => s.life.bootFail = some 2 ∧ s.life.firmware.all firmwareGood = true)
        (fun _ t => t.life.booted = false ∧ t.life.recovery = true ∧ t.life.stage = 1) ∧
      Happens .scrub (fun s => s.life.booted = true ∧ s.life.badMem = [] ∧ s.life.under = [] ∧ ∀ p ∈ s.agenda, p.2 ≠ .scrub)
        (fun s t => t = { s with agenda := s.agenda ++ [(s.now + 90720000000000, .scrub)] }) ∧
      Happens .scrub (fun s => s.life.booted = true ∧ s.life.eccOff = false ∧ s.life.badMem = [n] ∧ s.life.under = [] ∧ s.heldM (n / 2) = false ∧
          s.isPinned (n / 2) = false ∧ s.errNext - s.priv.errhead.toNat < 2 ^ ringLog s.priv.errsz ∧ s.now < 2 ^ 64 ∧ n < 2 ^ 58 ∧
          s.isDevice (s.priv.errbase.toNat + 32 * (s.errNext % 2 ^ ringLog s.priv.errsz)) = true ∧ s.priv.errbase.toNat % 4096 = 0) (fun s t =>
        RingWrites s t (s.priv.errbase.toNat + 32 * (s.errNext % 2 ^ ringLog s.priv.errsz)) (.record 0)
          [2 * 2 ^ 56 + homeSrc (lineHome (n / 2)) * 2 ^ 48, 128 * (n / 2), s.now, s.errNext % 2 ^ 32 + lineHome (n / 2) * 2 ^ 32])
  ) ∧
  (
    ∀ (idx : Nat) (nonce : List Byte) (m : BitVec 384),
      let answers (s t : State) (body : List Byte) (st : Nat) : Prop := t = { s with life := { s.life with spdm := body, spdmState := st } }
      let shown (s : State) : List (BitVec 384) := if s.life.recovery = true then s.life.meas.take 1 else s.life.meas
      let signed (s : State) (b : List Byte) : List Byte := Config.identitySign s.life.identity (sha384 b)
      let early (i : Instr) (kind need : Nat) : Prop :=
        Happens i (fun s => s.life.spdmState < need) fun s t => answers s t (Config.spdmBytes 255 [kind]) s.life.spdmState
      Happens .getVersion (fun _ => True) (fun s t => answers s t (Config.spdmBytes 0 []) 1) ∧
      early .getCapabilities 1 1 ∧ early .negotiateAlgorithms 2 2 ∧ early .getDigests 3 3 ∧ early (.getCertificate 0) 4 3 ∧
      early (.challenge nonce) 5 3 ∧ early (.getMeasurements idx) 6 3 ∧
      Happens .getCapabilities (fun s => 1 ≤ s.life.spdmState) (fun s t => answers s t (Config.spdmBytes 1 [] ++ leBytes 4 spdmFlags) 2) ∧
      Happens .negotiateAlgorithms (fun s => 2 ≤ s.life.spdmState) (fun s t => answers s t (Config.spdmBytes 2 [] ++ spdmAlgs) 3) ∧
      Happens .getDigests (fun s => 3 ≤ s.life.spdmState) (fun s t => answers s t (Config.spdmBytes 3 []) 3) ∧
      Happens (.getCertificate 0) (fun s => 3 ≤ s.life.spdmState) (fun s t => answers s t (Config.spdmBytes 4 []) 3) ∧
      Happens (.challenge nonce) (fun s => 3 ≤ s.life.spdmState) (fun s t => answers s t
        (Config.spdmBytes 5 (nonce.map (·.toNat) ++ (shown s).map (·.toNat)) ++ signed s (nonce ++ (shown s).flatMap measBytes)) 3) ∧
      Happens (.getMeasurements 0) (fun s => 3 ≤ s.life.spdmState)
        (fun s t => answers s t (Config.spdmBytes 6 [0] ++ [BitVec.ofNat 8 (shown s).length]) 3) ∧
      Happens (.getMeasurements idx) (fun s => 3 ≤ s.life.spdmState ∧ 1 ≤ idx ∧ idx ≤ 8 ∧ (shown s)[idx - 1]? = some m)
        (fun s t => answers s t (Config.spdmBytes 6 [idx] ++ measBytes m) 3) ∧
      Happens (.getMeasurements (256 + idx)) (fun s => 3 ≤ s.life.spdmState ∧ 1 ≤ idx ∧ idx ≤ 8 ∧ (shown s)[idx - 1]? = some m)
        (fun s t => answers s t (Config.spdmBytes 6 [256 + idx] ++ (measBytes m ++ signed s (measBytes m))) 3) ∧
      Happens (.getMeasurements idx) (fun s => 3 ≤ s.life.spdmState ∧ s.life.recovery = true ∧ 2 ≤ idx ∧ idx < 255)
        (fun s t => answers s t (Config.spdmBytes 255 [6]) s.life.spdmState)
  )

/-- 19 R453, R454; 15 R368; 16 R400; 17 R431; 08 R235, R250, R251: commands over tenants and cores have their effect and then their
outcome, RESULT and RES0; COMMAND_END shows it and counts it; a code that names no command gives RESULT 2. -/
def Obligations.CommandsOverTenantsAndCores : Prop :=
  ∀ (r v : Nat),
    let runs (s : State) (code : Nat) : Prop := s.priv.busy = true ∧ s.priv.cend = none ∧ bits s.priv.cmdop 0 16 = code
    let ends (t : State) (r v : Nat) : Prop := t.priv.cend = some (r, v) ∧ ∃ d, (d, .commandEnd) ∈ t.agenda
    let tn (s : State) : Nat := bits s.priv.cmdop 16 3
    let arg (s : State) (j : Nat) : DWord := Sparse.get 0 s.priv.cargs j
    let ten (s : State) : Tenant := s.ten (tn s)
    let tw (s : State) : Nat := bits (arg s 0) 0 1
    let fits (s : State) : Prop :=
        let pa := (arg s 0).toNat
        let n := (arg s 1).toNat
        runs s 0x09 ∧ (ten s).live = true ∧ pa % 8192 = 0 ∧ n ≠ 0 ∧ s.isDevice (pa + 8192 * n - 1) = true ∧ (ten s).pins.length < 32 ∧
        (∀ j, j < 2 → (ten s).pinned + 4096 * n ≤ ((ten s).gran j - 1) * 2 ^ 19) ∧
        ∀ k, k < 8 → ∀ p ∈ (s.ten k).pins, p.1 + 8192 * p.2 ≤ pa ∨ pa + 8192 * n ≤ p.1
    Happens .commandEnd (fun s => s.priv.busy = true ∧ s.priv.cend = some (r, v) ∧ s.mgmtPending = []) (fun s t =>
      t.priv.busy = false ∧ t.priv.result = BitVec.ofNat 8 r ∧ Sparse.get 0 t.priv.res 0 = BitVec.ofNat 64 v ∧ t.priv.done = s.priv.done + 1 ∧
      t.priv.cend = none) ∧
    Happens .commandEnd (fun s => s.priv.busy = true ∧ s.priv.cend = some (r, v) ∧ s.mgmtPending ≠ []) (fun s t => t = s.at (s.now + 4) .commandEnd) ∧
    Happens .invalidCommand (fun s => runs s v ∧ (v = 0 ∨ 0x11 < v)) (fun s t =>
      t.priv.busy = false ∧ t.priv.result = 2 ∧ t.priv.done = s.priv.done + 1) ∧
    Happens .tcreate (fun s => runs s 0x01 ∧ (ten s).live = false) (fun s t => ends t 0 0 ∧
      let x := t.ten (tn s)
      x.live = true ∧ x.queues = [] ∧ x.mask0 = 0 ∧ x.mask1 = 0 ∧ x.rt0 = 0 ∧ x.rt1 = 0 ∧ x.pins = [] ∧ x.starve = 4000) ∧
    Happens .tdestroy (fun s => runs s 0x02 ∧ (ten s).live = true ∧ (ten s).dying = true ∧ (∀ p ∈ s.crews, p.2.tenant ≠ tn s) ∧
        ∀ p ∈ s.lents, p.2.used = true → p.2.tenant ≠ tn s)
      (fun s t => ends t 0 0 ∧ (t.ten (tn s)).live = false ∧ (t.ten (tn s)).pins = [] ∧ (t.ten (tn s)).images = []) ∧
    Happens .coremask (fun s => runs s 0x03 ∧ (ten s).live = true ∧ ∀ p ∈ s.crews, p.2.here = true → p.2.tenant = tn s → p.2.core / 48 = tw s →
        (arg s 1).getLsbD (p.2.core % 48) = true)
      (fun s t => ends t 0 0 ∧ t.ten (tn s) =
        if tw s = 0 then { ten s with mask0 := (arg s 1).setWidth 48 } else { ten s with mask1 := (arg s 1).setWidth 48 }) ∧
    Happens .rtset (fun s => runs s 0x04 ∧ (ten s).live = true ∧
        (∀ k, k < 48 → (s.core (48 * tw s + k)).borrow = false ∧ ((arg s 1).getLsbD k = true → (s.core (48 * tw s + k)).rtOn = true)) ∧
        ((List.range 48).filter fun k => (arg s 1).getLsbD k).length ≤ 16)
      (fun s t => ends t 0 0 ∧ t.ten (tn s) =
        if tw s = 0 then { ten s with rt0 := (arg s 1).setWidth 48 } else { ten s with rt1 := (arg s 1).setWidth 48 }) ∧
    Happens .coresp (fun s =>
        let c := 48 * tw s + bits (arg s 0) 1 6
        let n := bits (arg s 1) 0 3
        runs s 0x05 ∧ bits (arg s 0) 1 6 < 48 ∧ 2 ≤ n ∧ n ≤ 6 ∧ (∀ p ∈ s.crews, p.2.here = true → p.2.core ≠ c) ∧
        s.granHeld (tw s) ≤ (s.modCore c fun x => { x with sp := n * 2 ^ 19, rtOn := (arg s 1).getLsbD 8 }).granTotal (tw s))
      (fun s t => ends t 0 0 ∧ (t.core (48 * tw s + bits (arg s 0) 1 6)).sp = bits (arg s 1) 0 3 * 2 ^ 19 ∧
        (t.core (48 * tw s + bits (arg s 0) 1 6)).rtOn = (arg s 1).getLsbD 8) ∧
    Happens .scgran (fun s => runs s 0x06 ∧ (ten s).live = true ∧ (∀ p ∈ s.crews, p.2.here = true → p.2.tenant = tn s → p.2.core / 48 ≠ tw s) ∧
        (ten s).pinned ≤ ((arg s 1).toNat - 1) * 2 ^ 19 ∧
        s.granHeld (tw s) - (ten s).gran (tw s) + (arg s 1).toNat ≤ s.granTotal (tw s))
      (fun s t => ends t 0 0 ∧ t.ten (tn s) =
        if tw s = 0 then { ten s with gran0 := (arg s 1).toNat } else { ten s with gran1 := (arg s 1).toNat }) ∧
    Happens .starve (fun s => runs s 0x11 ∧ (ten s).live = true ∧ 1 ≤ (arg s 0).toNat ∧ (arg s 0).toNat ≤ 1000000)
      (fun s t => ends t 0 0 ∧ t.ten (tn s) = { ten s with starve := (arg s 0).toNat }) ∧
    Happens .pin (fun s => fits s ∧ ((ten s).pinning = none ∧ s.toLoad (arg s 0).toNat (arg s 1).toNat = 0 ∨
        ∃ a b d, (ten s).pinning = some (a, b, d) ∧ d ≤ s.now))
      (fun s t => ends t 0 0 ∧
        t.ten (tn s) = { ten s with pins := (ten s).pins ++ [((arg s 0).toNat, (arg s 1).toNat)], pinning := none } ∧
        (∀ ln, inRange ((arg s 0).toNat, (arg s 1).toNat) ln = true → t.isPinned ln = true)) ∧
    Happens .pin (fun s => fits s ∧ (ten s).pinning = none ∧ s.toLoad (arg s 0).toNat (arg s 1).toNat ≠ 0)
      (fun s t => let d := s.now + (Config.latDram - Config.latHome + s.toLoad (arg s 0).toNat (arg s 1).toNat)
        t.ten (tn s) = { ten s with pinning := some ((arg s 0).toNat, (arg s 1).toNat, d) } ∧ t.agenda = s.agenda ++ [(d, .pin)] ∧ t.priv = s.priv) ∧
    Happens .unpin (fun s => runs s 0x0A ∧ (ten s).live = true ∧ (arg s 0).toNat % 8192 = 0 ∧ ∃ p ∈ (ten s).pins, p.1 = (arg s 0).toNat)
      (fun s t => ends t 0 0 ∧ t.ten (tn s) = { ten s with pins := (ten s).pins.filter fun p => p.1 != (arg s 0).toNat })

/-- 06 R186; 12 R342, R344; 17 R427 to R430; 19 R453; 20 R462, R470: commands over tide groups, wide islands, protocol tables, range
registers, retired pages and measurements. -/
def Obligations.CommandsOverGroupsImagesAndTables : Prop :=
  let runs (s : State) (code : Nat) : Prop := s.priv.busy = true ∧ s.priv.cend = none ∧ bits s.priv.cmdop 0 16 = code
  let ends (t : State) (r v : Nat) : Prop := t.priv.cend = some (r, v) ∧ ∃ d, (d, .commandEnd) ∈ t.agenda
  let tn (s : State) : Nat := bits s.priv.cmdop 16 3
  let arg (s : State) (j : Nat) : DWord := Sparse.get 0 s.priv.cargs j
  let tw (s : State) : Nat := bits (arg s 0) 0 1
  let wide (s : State) : Nat := 4 + bits (arg s 0) 1 2
  let box (s : State) : Bool × State := s.cmdContainerReady (arg s 1).toNat
  let slot (s : State) : Nat := (arg s 1).toNat
  let table (s : State) : Bool × State := s.mgmtReady [((arg s 0).toNat, 2208)]
  let reads (s : State) (b : List Byte) : Prop := runs s 0x0B ∧ 5 ≤ slot s ∧ slot s ≤ 7 ∧ (s.home 0).staging.lookup (slot s) = none ∧
    (table s).1 = true ∧ (table s).2.mgmtRead (arg s 0).toNat 2208 = some b
  let staged (s : State) (b : List Byte) : Prop := runs s 0x0B ∧ 5 ≤ slot s ∧ slot s ≤ 7 ∧
    ∃ d, (s.home 0).staging.lookup (slot s) = some (d, b) ∧ d ≤ s.now
  Happens .tidealloc (fun s => runs s 0x07 ∧ (s.ten (tn s)).live = true ∧ (arg s 1).getLsbD 0 = false ∧ (s.tide (bits (arg s 0) 0 8)).tenant = none)
    (fun s t => ends t 0 0 ∧ (t.tide (bits (arg s 0) 0 8)).tenant = some (tn s) ∧
      (t.tide (bits (arg s 0) 0 8)).gen = (s.tide (bits (arg s 0) 0 8)).gen) ∧
  Happens .tidealloc (fun s => runs s 0x07 ∧ (s.ten (tn s)).live = true ∧ (arg s 1).getLsbD 0 = true ∧
      (s.tide (bits (arg s 0) 0 8)).tenant = some (tn s) ∧ (s.tide (bits (arg s 0) 0 8)).members = [] ∧ (s.tide (bits (arg s 0) 0 8)).joining = [])
    (fun s t => ends t 0 0 ∧ (t.tide (bits (arg s 0) 0 8)).tenant = none) ∧
  Happens .tideisl (fun s =>
      let n := bits (arg s 0) 0 16
      runs s 0x08 ∧ n < 256 ∧ (s.tide n).tenant ≠ none ∧ bits (arg s 1) 7 4 ≤ 1 ∧ bits (arg s 1) 1 6 < 48 ∧
      (s.island (48 * bits (arg s 1) 0 1 + bits (arg s 1) 1 6) (bits (arg s 1) 7 4)).group = none)
    (fun s t => ends t 0 0 ∧
      (t.island (48 * bits (arg s 1) 0 1 + bits (arg s 1) 1 6) (bits (arg s 1) 7 4)).group = some (bits (arg s 0) 0 16)) ∧
  Happens .wgrant (fun s => runs s 0x0E ∧ wide s ≠ 4 ∧ s.wideBound (tw s) (wide s) = [])
    (fun s t => ends t 0 0 ∧ Sparse.get 0 (t.tower (tw s)).grants (wide s - 4) = bits (arg s 1) 0 8) ∧
  (∀ b m, Happens .wload (fun s => runs s 0x0D ∧ wide s ≠ 4 ∧ (s.island (48 * tw s) (wide s)).loading = none ∧ (box s).1 = true ∧
      (box s).2.cmdContainer (arg s 1).toNat = some b ∧ s.wideBound (tw s) (wide s) = [] ∧ checkImage b true = .ok m)
    fun s t => ∃ e, (t.island (48 * tw s) (wide s)).loading = some (e, m) ∧ s.now ≤ e ∧ e ≤ s.now + 336000 ∧ (e, .wload) ∈ t.agenda) ∧
  (∀ b n, Happens .wload (fun s => runs s 0x0D ∧ wide s ≠ 4 ∧ (s.island (48 * tw s) (wide s)).loading = none ∧ (box s).1 = true ∧
      (box s).2.cmdContainer (arg s 1).toNat = some b ∧ s.wideBound (tw s) (wide s) = [] ∧ checkImage b true = .error n)
    fun s t => ends t 3 n ∧ t.island (48 * tw s) (wide s) = s.island (48 * tw s) (wide s)) ∧
  Happens .wload (fun s => runs s 0x0D ∧ wide s ≠ 4 ∧ (s.island (48 * tw s) (wide s)).loading = none ∧ (box s).1 = false)
    (fun s t => t = (box s).2.at ((box s).2.now + 4) .wload) ∧
  (∀ m, Happens .wload (fun s => runs s 0x0D ∧ wide s ≠ 4 ∧ ∃ e, (s.island (48 * tw s) (wide s)).loading = some (e, m) ∧ e ≤ s.now)
    fun s t => ends t 0 0 ∧ (t.island (48 * tw s) (wide s)).img = some m ∧ (t.island (48 * tw s) (wide s)).inside = [] ∧
      (t.island (48 * tw s) (wide s)).err = false) ∧
  (∀ b, Happens .tabload (fun s => reads s b ∧ s.slotUsed (slot s) = false ∧ tabCheck b = 0)
    fun s t => (∀ h, h < 16 → (t.home h).staging.lookup (slot s) = some (s.now + 2048, b)) ∧ (s.now + 2048, .tabload) ∈ t.agenda ∧
      t.tables = s.tables ∧ t.priv.cend = none) ∧
  (∀ b, Happens .tabload (fun s => reads s b ∧ s.slotUsed (slot s) = false ∧ tabCheck b ≠ 0)
    fun s t => ends t 3 (tabCheck b) ∧ t.tables = s.tables) ∧
  (∀ b, Happens .tabload (fun s => reads s b ∧ s.slotUsed (slot s) = true) fun s t => ends t 1 0 ∧ t.tables = s.tables) ∧
  (∀ b, Happens .tabload (fun s => staged s b ∧ s.checkers (slot s) = 0)
    fun s t => ends t 0 0 ∧ Sparse.get [] t.tables (slot s) = tableOf (tabRows (tabEntries b)) ∧
      (∀ j, j ≠ slot s → Sparse.get [] t.tables j = Sparse.get [] s.tables j) ∧
      t.life.meas = s.life.meas.set 5 (BitVec.ofNat 384 (leNat (sha384 (measBytes ((s.life.meas[5]?).getD 0) ++ sha384 b))))) ∧
  (∀ b, Happens .tabload (fun s => staged s b ∧ s.checkers (slot s) ≠ 0)
    fun s t => ends t 3 (s.checkers (slot s)) ∧ t.tables = s.tables ∧ ∀ h, h < 16 → (t.home h).staging.lookup (slot s) = none) ∧
  Happens .tabload (fun s => runs s 0x0B ∧ (slot s < 5 ∨ 7 < slot s)) (fun s t => ends t 2 0 ∧ t.tables = s.tables) ∧
  Happens .rangewr (fun s =>
      let w : DWord × DWord := (keep (arg s 1) 0 62, keep (arg s 2) 0 10)
      runs s 0x0C ∧ (arg s 0).toNat < 64 ∧ Sparse.get [] s.tables (bits w.2 1 3) ≠ [] ∧ ∀ ln ∈ s.knownLines, s.rangeHits (arg s 0).toNat w ln = false)
    (fun s t => ends t 0 0 ∧ ∀ h, h < 16 → Sparse.get (0, 0) (t.home h).ranges (arg s 0).toNat = (keep (arg s 1) 0 62, keep (arg s 2) 0 10)) ∧
  Happens .pgretire (fun s => runs s 0x0F ∧ (arg s 0).toNat % 8192 = 0 ∧ s.isDevice (arg s 0).toNat = true ∧ (arg s 0).toNat ∉ s.life.pages ∧
      s.life.pages.length < 1024)
    (fun s t => ends t 0 0 ∧ t.life.pages = s.life.pages ++ [(arg s 0).toNat] ∧ t.life.flashSeq = s.life.flashSeq + 1 ∧
      ∃ e, s.now ≤ e ∧ t.life.flashPages =
        flashPut s.life.flashPages { seq := s.life.flashSeq + 1, list := s.life.pages ++ [(arg s 0).toNat], ends := e }) ∧
  Happens .measext (fun s => runs s 0x10)
    (fun s t => ends t 0 0 ∧ t.life.meas = s.life.meas.set 7 (BitVec.ofNat 384 (leNat (sha384
      (measBytes ((s.life.meas[7]?).getD 0) ++ (List.range 6).flatMap fun k => leBytes 8 (arg s k).toNat)))))

/-- 00 R13; 01 R42; 06 R163, R173; 07 R231: a word that takes a trap stops its gang with TSTAT, TPC and TMASK, keeps its chain group and
the later ones for the resume and raises the service vector; PENDING comes before the traps of the word's entry; ALIGN, VAULT_BOUNDS and
VAULT_BUSY report exactly the lanes that meet them, in that order. 02 R59, R61: while their enables are 1, a division by zero raises DZ and a
signed overflow OV, with those lanes, DZ first. 07 R199, R200: an engine word meets TOKEN, then SHAPE, then COPYISSUE, then VAULT_BOUNDS, of
which only the last reports lanes; without an active lane it checks no vault range and no displacement. That the displacement counts as part
of an address there is the model's choice (log entry 50). -/
def Obligations.TrapsStopTheGang : Prop :=
  (∀ (s : State) (c : Cursor) (i : Instr) (tr : Trap), isWord i = true → s.cur = some c → s.wordTrap c i = some tr → (s.gangOf c).faulted = false →
    exec i s = .next (({ s with cur := none }.setGang c.gang { s.gangOf c with
      tstat := pack [(0, tr.cause), (8, tr.slot), (16, tr.code), (32, tr.info)], tpc := pcAddr c.pc, tmask := tr.mask, stop := some .software
      resume := some { c with words := [], groups := c.group :: c.groups }, parked := false, trapNext := none }).service (s.gangOf c).tenant)) ∧
  (∀ (s : State) (c : Cursor) (i : Instr) (m : DWord), s.pendingTrap c i = some m → s.wordTrap c i = some { cause := 2, slot := c.slot, mask := m }) ∧
  (∀ (s : State) (c : Cursor) (d sd : VReg) (a : Src) (p : Pend), p ∈ (s.gangOf c).pend → p.reg = .v d.val → p.tag < c.tag0 →
    (∃ l ∈ s.lanes c, l < 64 ∧ p.lanes.getLsbD l = true) → ∃ m, s.pendingTrap c (.iadd .u32 d (.v sd) a) = some m) ∧
  (∀ (s : State) (c : Cursor) (sz : LdSize) (h : Hint) (d : VReg) (o : Src) (ba : AReg),
    s.cur = some c → s.pendingTrap c (.ld sz h d o ba) = none → s.regTrap c (.ld sz h d o ba) = none →
    let n : Nat := match sz with | .b32 => 4 | .b64 => 8 | .b128 => 16 | .u8 | .s8 => 1 | .u16 | .s16 => 2
    let off (l : Nat) : Prop := ((s.gangOf c).areg ba.val + (s.readI c o l).signExtend 80).toNat % n ≠ 0
    (∀ t, s.wordTrap c (.ld sz h d o ba) = some t →
      t.cause = 8 ∧ t.slot = c.slot ∧ ∀ l, l < 64 → (t.mask.getLsbD l = true ↔ l ∈ s.lanes c ∧ off l)) ∧
    (s.wordTrap c (.ld sz h d o ba) = none ↔ ∀ l ∈ s.lanes c, ¬ off l)) ∧
  (∀ (s : State) (c : Cursor) (sz : WSize) (d : VReg) (o : Src) (ba : SReg) (t : Trap),
    s.pendingTrap c (.ldv sz d o ba) = none → s.regTrap c (.ldv sz d o ba) = none → s.wordTrap c (.ldv sz d o ba) = some t →
    let u := (s.gangOf c).crew
    let vsel := bits ((s.gangOf c).sreg ba.val) 32 8
    let off (l : Nat) : Nat := (((s.gangOf c).sreg ba.val).setWidth 32 + s.readI c o l).toNat
    let n := 4 * sz.regs
    let mis (l : Nat) : Prop := off l % n ≠ 0
    let out (l : Nat) : Prop := s.outside u vsel (off l, n) = true
    let busy (l : Nat) : Prop := s.busy u (off l, n) = true
    let hits (P : Nat → Prop) : Prop := ∃ l ∈ s.lanes c, P l
    let reports (P : Nat → Prop) : Prop := ∀ l, l < 64 → (t.mask.getLsbD l = true ↔ l ∈ s.lanes c ∧ P l)
    (hits mis → t.cause = 8 ∧ reports mis) ∧
    (¬ hits mis → hits out → t.cause = 4 ∧ reports out) ∧
    (¬ hits mis → ¬ hits out → t.cause = 5 ∧ reports busy ∧ s.window u vsel = some u)) ∧
  (∀ (s : State) (c : Cursor),
    let meets (cause : Nat) (P : Nat → Prop) (i : Instr) : Prop := ∃ t, s.wordTrap c i = some t ∧ t.cause = cause ∧ t.slot = c.slot ∧
      ∀ l, l < 64 → (t.mask.getLsbD l = true ↔ l ∈ s.lanes c ∧ P l)
    let hits (P : Nat → Prop) : Prop := ∃ l ∈ s.lanes c, P l
    let idze := (s.gangOf c).mode.getLsbD 13
    let iove := (s.gangOf c).mode.getLsbD 14
    let clear (i : Instr) : Prop := s.pendingTrap c i = none ∧ s.regTrap c i = none
    let overflows (i : Instr) (ov : Nat → Prop) : Prop := clear i →
      (iove = true → hits ov → meets 12 ov i) ∧ ((iove = false ∨ ¬ hits ov) → s.wordTrap c i = none)
    ∀ (d : VReg) (a b : Src),
      let x (l : Nat) : Word := s.readI c a l
      let y (l : Nat) : Word := s.readI c b l
      let dx (l : Nat) : DWord := s.readD c true a l
      let dy (l : Nat) : DWord := s.readD c true b l
      overflows (.iadd .s32 d a b) (fun l => BitVec.saddOverflow (x l) (y l) = true) ∧
      overflows (.isub .s32 d a b) (fun l => BitVec.ssubOverflow (x l) (y l) = true) ∧
      overflows (.iadd .s64 d a b) (fun l => BitVec.saddOverflow (dx l) (dy l) = true) ∧
      overflows (.isub .s64 d a b) (fun l => BitVec.ssubOverflow (dx l) (dy l) = true) ∧
      overflows (.imul false false d a b) (fun l => BitVec.smulOverflow (x l) (y l) = true) ∧
      overflows (.imad false d a b) (fun l => let z : Int := (x l).toInt * (y l).toInt + ((s.gangOf c).vreg d.val l).toInt
        z < -2147483648 ∨ 2147483647 < z) ∧
      overflows (.iabs d a) (fun l => x l = 0x80000000) ∧ overflows (.ineg d a) (fun l => x l = 0x80000000) ∧
      (∀ i ∈ [Instr.iadd .u32 d a b, .iadd .u64 d a b, .isub .u32 d a b, .isub .u64 d a b, .imul false true d a b, .imul true true d a b,
        .imul true false d a b, .imad true d a b], overflows i fun _ => False) ∧
      (∀ u, ∀ i ∈ [Instr.idiv u d a b, .irem u d a b], clear i →
        let dz (l : Nat) : Prop := y l = 0
        let ov (l : Nat) : Prop := u = false ∧ x l = 0x80000000 ∧ y l = 0xFFFFFFFF
        (idze = true → hits dz → meets 11 dz i) ∧
        ((idze = false ∨ ¬ hits dz) → iove = true → hits ov → meets 12 ov i) ∧
        ((idze = false ∨ ¬ hits dz) → (iove = false ∨ ¬ hits ov) → s.wordTrap c i = none))) ∧
  (∀ (s : State) (c : Cursor),
    let u := (s.gangOf c).crew
    let cr := s.crew u
    let k := s.core cr.core
    let clear (i : Instr) : Prop := s.pendingTrap c i = none ∧ s.regTrap c i = none
    let engine (t : TReg) : Prop := k.tokOwner = some u ∧ (k.toks[t.val]?).getD .engine = .engine
    let held (t : TReg) : Prop := k.tokOwner = some u ∧ (k.toks[t.val]?).getD .engine = .held c.gang
    let token (t : TReg) (P : Prop) (i : Instr) : Prop := clear i → ¬ P → s.wordTrap c i = some { cause := 3, info := t.val, slot := c.slot }
    let only (t : TReg) (P : Prop) (i : Instr) : Prop := token t P i ∧ (clear i → P → s.wordTrap c i = none)
    let shape (n : Nat) : Option Trap := some { cause := 6, info := n, slot := c.slot }
    let bounds : Option Trap := some { cause := 4, slot := c.slot, mask := laneBits (s.lanes c) }
    let out (vsel : Nat) (rs : List (Nat × Nat)) : Prop := ∃ r ∈ rs, s.outside u vsel r = true
    (∀ (t : TReg) (ha hb : HReg) (sv : SReg) (qa : QReg) (d : VReg) (x : Src),
      token t (engine t) (.mma t ha hb) ∧ token t (engine t) (.mmaI t ha hb) ∧ token t (engine t) (.mmaAd t ha hb sv) ∧
      token t (engine t) (.mmaQ t qa hb x) ∧ only t (engine t) (.macq t) ∧ only t (held t) (.mrel t) ∧ only t (held t) (.mlda d t x) ∧
      only t (held t) (.msta d t x) ∧ only t (engine t ∨ held t) (.mclr t) ∧
      (engine t →
        let a := cr.shape ha.val
        let b := cr.shape hb.val
        let fits (int : Bool) : Prop := a.role = 1 ∧ b.role = 2 ∧ b.inner = a.inner ∧
          (if int then a.vfmt ∈ [0, 14, 15, 16] ∧ b.vfmt ∈ [0, 14, 15, 16] else a.vfmt ∈ [11, 12] ∧ b.vfmt ∈ [11, 12, 13])
        let far : Prop := s.lanes c ≠ [] ∧ (out a.vsel a.operandRanges ∨ out b.vsel b.operandRanges)
        ∀ int, ∀ i, i = (if int then Instr.mmaI t ha hb else Instr.mma t ha hb) → clear i →
          ((a.valid = false ∨ b.valid = false) → s.wordTrap c i = shape 2) ∧
          (a.valid = true → b.valid = true → ¬ fits int → s.wordTrap c i = shape 3) ∧
          (a.valid = true → b.valid = true → fits int → far → s.wordTrap c i = bounds) ∧
          (a.valid = true → b.valid = true → fits int → ¬ far → s.wordTrap c i = none))) ∧
    (∀ (h : HReg) (sk : SReg),
      let r : Shape := { valid := true, w0 := (s.gangOf c).sreg sk.val, w1 := (s.gangOf c).sreg (sk.val + 1)
                         w2 := (s.gangOf c).sreg (sk.val + 2), w3 := (s.gangOf c).sreg (sk.val + 3) }
      clear (.shape h sk) → s.wordTrap c (.shape h sk) = if r.ok then none else shape 1) ∧
    (∀ (h : HReg) (rng : Src) (nb : NBReg) (f m : Bool),
      let g := s.readO c rng
      let first := (g.extractLsb' 0 16).toNat
      let count := (g.extractLsb' 16 16).toNat
      let skew : Prop := s.lanes c ≠ [] ∧ (g.extractLsb' 32 4).toNat ≠ 0
      let word (i : Instr) (role : Shape → Prop) (ranges : Bool) : Prop := clear i →
        (cr.gathering h.val = none → (cr.shape h.val).valid = false → s.wordTrap c i = shape 2) ∧
        ∀ r, (∃ cp, cr.gathering h.val = some cp ∧ r = cp.sh) ∨
            (cr.gathering h.val = none ∧ (cr.shape h.val).valid = true ∧ r = cr.shape h.val) →
          (¬ role r → s.wordTrap c i = shape 3) ∧
          (role r → (count = 0 ∨ r.outer < first + count ∨ skew) →
            s.wordTrap c i = some { cause := 7, info := (s.gangOf c).gid, slot := c.slot }) ∧
          (role r → count ≠ 0 → first + count ≤ r.outer → ¬ skew →
            (ranges = true → s.lanes c ≠ [] → out r.vsel (r.ranges first count) → s.wordTrap c i = bounds) ∧
            ((ranges = false ∨ s.lanes c = [] ∨ ¬ out r.vsel (r.ranges first count)) → s.wordTrap c i = none))
      word (.copy f m h rng nb) (fun r => r.role = 0) true ∧ word (.copyCsr h rng nb) (fun r => r.role = 3) true ∧
      word (.copyPlane f m h rng nb) (fun r => r.role = 1 ∨ r.role = 2) true ∧
      word (.copyQ h rng nb) (fun r => r.role = 0 ∧ r.vsel ≤ 7) false))

/-- 01 R31; 03 R74, R97: a step runs the next word of the packet that issues, as `exec` runs it with the rest of its group left, or the lowest
word of the group that has a trap (00 R13); else an act that is due; else the happening of the tape; else a gang's packet, whose bytes decode to
the words that issue, with its first word; else the next turn of the cycle or the next cycle. The order of acts and the turns are the model's own
(log entry 33). -/
def Obligations.StepRunsTheDecodedWord : Prop :=
  (∀ (s : State) (c : Cursor) (w : PWord) (ws : List PWord), s.cur = some c → c.words = w :: ws →
    (c.words.length = c.group.length → ∀ v ∈ c.group, s.wordTrap { c with slot := v.slot } v.i = none) →
    step s = exec w.i { s with cur := some { c with slot := w.slot, words := ws } }) ∧
  (∀ (s : State) (c : Cursor) (w : PWord), s.cur = some c → c.words.length = c.group.length →
    c.group.find? (fun v => (s.wordTrap { c with slot := v.slot } v.i).isSome) = some w →
    step s = exec w.i { s with cur := some { c with slot := w.slot, words := [] } }) ∧
  (∀ (s : State) (c : Cursor), s.cur = some c → c.words = [] → c.group ≠ [] → step s = .next (s.endGroup c)) ∧
  (∀ (s : State) (i : Instr) (s' : State), s.cur = none → s.dueAct = some (i, s') → step s = exec i s') ∧
  (∀ (s : State) (i : Instr) (s' : State), s.cur = none → s.dueAct = none → s.tapeAct = some (some i, s') → step s = exec i s') ∧
  (∀ (s : State) (g : Nat) (s' : State), s.cur = none → s.dueAct = none → s.tapeAct = none → s.pickGang = some g →
    exec (.packetDecode g) s = .next s' → (s'.cur = none → step s = .next s') ∧ (s'.cur ≠ none → step s = step s')) ∧
  (∀ s : State, s.cur = none → s.dueAct = none → s.tapeAct = none → s.pickGang = none →
    (s.phase < 6 → step s = .next { s with phase := s.phase + 1 }) ∧
    (6 ≤ s.phase → s.life.upsets = [] → step s = .next { s with now := s.now + 1, phase := 0 })) ∧
  (∀ (s : State) (g : Nat) (b : Nat → Byte) (i : Instr),
    let p := Packet.ofBytes b
    decodeWord p.w0 = .ok i → removedWord p.w0 = false → p.isExpr = false → p.w1 = 0 → p.w2 = 0 →
    s.contextBad g p [{ slot := 0, i := i, chain := p.w0.testBit 31 }] = [] →
    s.decodePacket g p = .ok [{ slot := 0, i := i, chain := p.w0.testBit 31 }])

/-- 03 R75 to R95: words written out from the encodings decode to their instructions. -/
def Obligations.WrittenOutWordsDecode : Prop :=
  decodeTableWord 32 0x00840208 = some (.iadd .s32 4 (.v 1) (.v 2)) ∧
  decodeTableWord 32 0x0301002A = some (.movi 1 42) ∧
  decodeTableWord 32 0x0E820002 = some (.loop 2 2) ∧
  decodeTableWord 32 0x0C810003 = some (.brk .nz 1 3) ∧
  decodeTableWord 32 0x0C000002 = some (.br 2) ∧
  decodeTableWord 32 0x10870204 = some (.fmul false 7 (.v 1) (.v 1)) ∧
  decodeTableWord 32 0x20040240 = some (.ld .b32 .none 4 (.v 1) 2) ∧
  decodeTableWord 32 0x2C640064 = some (.nbarr 4 3) ∧
  decodeTableWord 32 0x30640020 = some (.shape 1 4) ∧
  decodeTableWord 32 0x31000202 = some (.mma 2 0 1) ∧
  decodeTableWord 32 0x36630002 = some (.rdsr 3 2) ∧
  decodeTableWord 32 0x37800000 = some .endGang ∧
  decodeTableWord 32 0 = some .nop

/-- 03 R74 to R95: every well-formed instruction word has an encoding, and the packet that holds it decodes to it, with every operand; the
packet of NOP holds no word. The steps of the device that are no instruction words have no encoding. -/
def Obligations.EncodingRoundTrip : Prop :=
  ∀ i : Instr,
    (i.wf = true → isWord i = true → ∃ p, encode i = some p ∧
      p.words = .ok (if i = .nop then [] else [{ slot := 0, i := i, chain := false }])) ∧
    (isWord i = false → encode i = none)

/-- 00 R8; 08 R238: memory reads back the bytes last written and no other byte changes; its canonical form is kept, and two memories in it
that read alike are equal; a byte of a window reads back, and a granule that nothing has written reads as zero. That memory which nothing
has written reads as zero is the model's choice (log entry 1). -/
def Obligations.MemoryReadsBackWhatIsWritten : Prop :=
  (∀ (s : State) (pa : Nat) (bs : List Byte) (a : Nat),
    (s.setBytes pa bs).byte a = if pa ≤ a ∧ a < pa + bs.length then byteAt bs (a - pa) else s.byte a) ∧
  (∀ (s : State) (pa : Nat) (bs : List Byte), s.memWf = true → (s.setBytes pa bs).memWf = true) ∧
  (∀ s t : State, s.memWf = true → t.memWf = true → (∀ a, s.byte a = t.byte a) → s.mem = t.mem) ∧
  (∀ (bs : List Byte) (k : Nat), leNat (bs.drop k) * 256 ^ k + leNat (bs.take k) = leNat bs) ∧
  (∀ (s : State) (u off : Nat) (b : Byte) (k : Nat),
    (s.vaultWrite u off b).vaultRead u k = if k = off then b else s.vaultRead u k) ∧
  (∀ (s : State) (u k : Nat), Sparse.get false (s.crew u).gran (k / 512) = false → s.vaultRead u k = 0)

/-- 00 R13; 01 R31, R42: EVERY INSTRUCTION WORD COMPLETES where it takes no trap, in every state in which it issues: no register that it names is
pending in its lanes, and the checks of its entry pass. 01 R39, R41: it changes no register, MODE or FLAGS of any gang when it issues, for its
results become visible later, and no byte of memory, for its stores reach it later too; and a word that takes its trap changes none of them
either. The words are
iadd, isub, imul, imad, idiv, irem, movi, imin, imax, iabs, ineg, brev, icmp, and, or, xor, andn, not, popc, clz, ctz, shl, shr, sar, rot,
bfe, bfi, sel, mov, sadd, ssub, sand, sor, sshl, sshr, smul, scmp, movs, adda, lea, mova, kand, kor, knot, kpop, setx, getx, br, brk, brs,
jmp, callIndirect, ret, call, loop, join, fadd, fsub, fmul, ffma, fmin, fmax, fcmp, fclass, frnd, hadd2, hmul2, hfma2, dot4F8, dot4I8,
cvtFromFloat, cvtFromInt, rcp, rsq, sqrt, log2, exp2, sin, cos, expr, shfl, bcast, perm, ballot, vote, scan, reduce, ld, st, ldg, stg,
ldAcq, stRel, atom, pref, ldv, stv, atomv, fence, fenceX, afence, nbinit, nbarr, nbwait, tgarr, tgwait, tgjoin, tgleave, evsig, evwait,
evtest, qbind, qpush, qpop, qpeek, qdepth, shape, copy, copyCsr, copyPlane, copyQ, cpstat, mma, mmaI, mmaAd, mmaQ, macq, mrel, mlda, msta,
mclr, adinv, islpush, islrecv, islstat, rdsr, wrsr, trap, brkpt, dbgmark, sleep, getinfo, nop, endl, regang, yield, exit, endGang, halt. -/
def Obligations.WordsLeaveRegistersAndMemory : Prop :=
  ∀ (i : Instr) (s : State), isWord i = true →
    let leaves (t : State) : Prop :=
      (∀ g, (t.gang g).v = (s.gang g).v ∧ (t.gang g).s = (s.gang g).s ∧ (t.gang g).a = (s.gang g).a ∧ (t.gang g).k = (s.gang g).k ∧
        (t.gang g).mode = (s.gang g).mode ∧ (t.gang g).flags = (s.gang g).flags) ∧
      ∀ a, t.byte a = s.byte a
    (∀ c, s.cur = some c → s.pendingTrap c i = none → s.entryTrap c i = none → ∃ t, exec i s = .next t ∧ leaves t) ∧
    ∀ t, exec i s = .next t → leaves t

/-- Memory keeps its canonical form in every step. -/
def Obligations.EveryStepKeepsMemoryCanonical : Prop :=
  ∀ s t : State, s.memWf = true → step s = .next t → t.memWf = true

/-- Every step of the device that is no instruction word answers a next state in every state; the statements above say where it has its effect,
and what that is. No step is refused, and a step faults only where the agenda, which
the model's own acts never fill so, names an instruction word. The steps are
packetDecode, resultWriteback, variableResultArrival, switchParkEnd, dataFault, gangResume, towpathRequestArrival, nbwaitComplete,
tgwaitComplete, eventOverflowOperation, qpopRecordArrival, copyqRecordDelivery, copyComplete, followOnIssue, passStart, passEnd, layerFail,
stagingRecordMove, adapterFillComplete, matrixComplete, macqComplete, islrecvComplete, sleepExpiry, gets, upgo, upgs, upgn, wbmo, wbmx, wbc,
wrt, renew, invack, invackl, fwdack, fwdackx, rcldata, rclack, requestRetry, noncachingRequest, datas, datae, datam, upgack, wback, inv,
fwds, fwdx, recall, update, renack, rebase, rebaseAnswer, nak, leaseFlushTimer, selfRefreshEntry, hostReadShared, hostReadOwn, memrd, memwr,
qtail, qprogWrite, qdWrite, switchOut, switchIn, cancel, cancelTimeout, rootWrite, tlbInvalidate, tlbInvalidateComplete, imgflush,
trbaseWrite, cecntClear, registerWrite, recordIntake, launchStart, starvationExpiry, bindPost, bindAccept, clusterReserve,
clusterBackoffExpiry, crewRetire, pageWalk, pageResponse, swapoutTimer, vacate, crewSaveComplete, crewRestore, borrowCommand,
borrowRestoreComplete, islandRecordEntry, islandRecordExit, i1ImageLoad, i1ImageLoadComplete, ingressSignal, hostWriteback, hostDropHalf,
birsp, hostSnoop, msixVectorUnmask, peerWrite, peerRead, getCertificate, challenge, getMeasurements, ingressPerst, tcreate, tdestroy,
coremask, rtset, coresp, scgran, tidealloc, tideisl, pin, unpin, tabload, rangewr, wload, wgrant, pgretire, measext, starve, invalidCommand,
commandEnd, getVersion, getCapabilities, negotiateAlgorithms, getDigests, reset, brownOut, scrub. -/
def Obligations.StepsAreNeverRefused : Prop :=
  (∀ (i : Instr) (s : State), isWord i = false → ∃ t, exec i s = .next t) ∧
  ∀ s : State, (∃ t, step s = .next t) ∨ (step s = .fault .noIssue ∧ ∃ p ∈ s.agenda, isWord p.2 = true)

/-- 20 R459, R461; 01 R16, R18: after reset nothing is resident, the cycle count is 0, no job is enabled and memory lists nothing, in its
canonical form; the first step is the boot. -/
def Obligations.ResetStartsTheBoot : Prop :=
  let s := State.reset
  s.now = 0 ∧ s.gangs = [] ∧ s.crews = [] ∧ s.lents = [] ∧ s.tenants = [] ∧ s.net = [] ∧ s.mem = [] ∧ s.memWf = true ∧ s.life.booted = false ∧
  (∀ g r l, (s.gang g).vreg r l = 0 ∧ (s.gang g).sreg r = 0 ∧ (s.gang g).areg r = 0 ∧ (s.gang g).kreg r = 0 ∧ (s.gang g).flags = 0) ∧
  step s = exec .reset { s with agenda := [] }
end

