-- ==== Sys2Proof/Laws/Encoding.lean ====
section
/-! SUPPORT. Small laws of the encoding: each code reads back as what it encodes, and the fields of each format are where 03 R88 puts
them. -/

namespace Sys2Proof.Laws

open Sys2Proof

/-! ## Codes -/

@[simp] theorem special_code (x : Special) : Special.ofIdx x.idx = x := by cases x <;> rfl
@[simp] theorem inline_code (x : Inline) : Inline.ofIdx x.idx = x := by cases x <;> rfl
theorem special_lt (x : Special) : x.idx < 8 := by cases x <;> decide
theorem inline_lt (x : Inline) : x.idx < 6 := by cases x <;> decide

theorem src_lt (a : Src) : a.code < 128 := by
  cases a with
  | v n => simp [Src.code]; omega
  | s n => simp [Src.code]; omega
  | sp x => have := special_lt x; simp [Src.code]; omega
  | lit => decide
  | plit => decide
  | cst x => have := inline_lt x; simp [Src.code]; omega

/-- The operand codes of 03 R79 read back. -/
@[simp] theorem src_code (a : Src) : Src.ofCode a.code = a := by
  cases a with
  | v n => simp [Src.code, Src.ofCode]
  | s n =>
    have := n.isLt
    have h1 : ¬ (96 + n.val < 96) := by omega
    have h2 : 96 + n.val < 112 := by omega
    simp [Src.code, Src.ofCode, h2]
  | sp x =>
    have := special_lt x
    have h1 : ¬ (112 + x.idx < 96) := by omega
    have h2 : ¬ (112 + x.idx < 112) := by omega
    have h3 : 112 + x.idx < 120 := by omega
    simp [Src.code, Src.ofCode, h1, h3]
  | lit => rfl
  | plit => rfl
  | cst x => cases x <;> rfl

@[simp] theorem vregOf_val (d : VReg) : vregOf d.val = .ok d := by simp [vregOf]
@[simp] theorem sregOf_val (d : SReg) : sregOf (96 + d.val) = .ok d := by
  have := d.isLt
  have h : 96 ≤ 96 + d.val ∧ 96 + d.val < 112 := by omega
  simp [sregOf, h]
@[simp] theorem num16_val (d : Fin 16) : num16 d.val = d := by
  apply Fin.ext; simp [num16, Nat.mod_eq_of_lt d.isLt]
@[simp] theorem num8_val (d : Fin 8) : num8 d.val = d := by
  apply Fin.ext; simp [num8, Nat.mod_eq_of_lt d.isLt]
@[simp] theorem num4_val (d : Fin 4) : num4 d.val = d := by
  apply Fin.ext; simp [num4, Nat.mod_eq_of_lt d.isLt]
/-- Bits above the low four of a register field do not count (03 R83). -/
@[simp] theorem num16_high (n : Nat) (d : Fin 16) : num16 (16 * n + d.val) = d := by
  apply Fin.ext; simp [num16]

@[simp] theorem num8_low (n : Nat) (d : Fin 8) : num8 (8 * n + d.val) = d := by
  apply Fin.ext; have := d.isLt; simp [num8]
@[simp] theorem num8_8 (d : Fin 8) : num8 (8 + d.val) = d := by simpa using num8_low 1 d
@[simp] theorem num8_16 (d : Fin 8) : num8 (16 + d.val) = d := by simpa using num8_low 2 d
@[simp] theorem num16_16 (d : Fin 16) : num16 (16 + d.val) = d := by simpa using num16_high 1 d
@[simp] theorem num16_32 (d : Fin 16) : num16 (32 + d.val) = d := by simpa using num16_high 2 d

@[simp] theorem scope_code (x : Scope) : Scope.ofCode x.code = some x := by cases x <;> rfl
@[simp] theorem path_code (x : Path) : Path.ofCode x.code = some x := by cases x <;> rfl
@[simp] theorem cond_code (x : Cond) : Cond.ofCode x.code = some x := by cases x <;> rfl
@[simp] theorem tok_code (x : Tok) : Tok.ofCode x.code = some x := by cases x <;> rfl
@[simp] theorem intTy_code (x : IntTy) : IntTy.ofT x.t = x := by cases x <;> rfl
@[simp] theorem hint_code (x : Hint) : Hint.ofCode x.code = x := by cases x <;> rfl
@[simp] theorem fp8_code (x : Fp8) : Fp8.ofBit x.bit = x := by cases x <;> rfl
@[simp] theorem scanOp_code (x : ScanOp) : ScanOp.ofT x.t = some x := by cases x <;> rfl
@[simp] theorem scanTy_code (x : ScanTy) : ScanTy.ofCode x.code = some x := by cases x <;> rfl
@[simp] theorem shflMode_code (x : ShflMode) : ShflMode.ofT x.t = x := by cases x <;> rfl
@[simp] theorem wsize_code (x : WSize) : WSize.ofSz x.sz = some x := by cases x <;> rfl
@[simp] theorem atomv_code (x : AtomvOp) : AtomvOp.ofCode x.code = some x := by cases x <;> rfl
@[simp] theorem atom_code (x : AtomOp) : AtomOp.ofCode x.code.1 x.code.2 = some x := by cases x <;> rfl
@[simp] theorem codeOr_some {α : Type} (a : α) : codeOr (some a) = .ok a := rfl

@[simp] theorem pure_ok {α : Type} (a : α) : (pure a : Except Reject α) = .ok a := rfl
@[simp] theorem bind_ok {α β : Type} (a : α) (f : α → Except Reject β) : (Except.ok a >>= f) = f a := rfl

theorem scope_lt (x : Scope) : x.code < 16 := by cases x <;> decide
theorem path_lt (x : Path) : x.code < 8 := by cases x <;> decide
theorem cond_lt (x : Cond) : x.code < 16 := by cases x <;> decide
theorem tok_lt (x : Tok) : x.code < 16 := by cases x <;> decide
theorem intTy_lt (x : IntTy) : x.t < 4 := by cases x <;> decide
theorem hint_lt (x : Hint) : x.code < 8 := by cases x <;> decide
theorem scanOp_lt (x : ScanOp) : x.t < 4 := by cases x <;> decide
theorem scanTy_lt (x : ScanTy) : x.code < 8 := by cases x <;> decide
theorem shflMode_lt (x : ShflMode) : x.t < 4 := by cases x <;> decide
theorem wsize_lt (x : WSize) : x.sz < 4 := by cases x <;> decide
theorem atomv_lt (x : AtomvOp) : x.code < 16 := by cases x <;> decide
theorem bit_lt (x : Bool) : bit x < 2 := by cases x <;> decide

/-- A 16-bit immediate reads back. -/
@[simp] theorem imm16 (x : BitVec 16) : BitVec.ofNat 16 x.toNat = x := by simp

/-! ## Fields of the formats (03 R88) -/

/-- A word with these fields of format R. -/
def IsR (w op d a b t : Nat) : Prop :=
  fld w 23 7 = op ∧ fld w 16 7 = d ∧ fld w 9 7 = a ∧ fld w 2 7 = b ∧ fld w 0 2 = t ∧ fld w 1 1 = t / 2 ∧ fld w 0
    1 = t % 2 ∧ fld w 5 4 = b / 8 % 16 ∧ fld w 2 3 = b % 8 ∧ fld w 8 1 = b / 64 ∧ fld w 5 3 = b / 8 % 8 ∧ w < 2 ^
    30

theorem encR_fields {op d a b t : Nat} (h0 : op < 128) (h1 : d < 128) (h2 : a < 128) (h3 : b < 128) (h4 : t < 4) :
    IsR (encR op d a b t) op d a b t := by
  simp only [IsR, fld, encR]; norm_num; omega

/-- A word with these fields of format RK. -/
def IsRK (w op c k a b t : Nat) : Prop :=
  fld w 23 7 = op ∧ fld w 19 4 = c ∧ fld w 16 3 = k ∧ fld w 16 7 = 8 * c + k ∧ fld w 9 7 = a ∧ fld w 2 7 = b ∧
    fld w 0 2 = t ∧ fld w 1 1 = t / 2 ∧ fld w 0 1 = t % 2 ∧ w < 2 ^ 30

theorem encRK_fields {op c k a b t : Nat} (h0 : op < 128) (h1 : c < 16) (h2 : k < 8) (h3 : a < 128) (h4 : b < 128) (h5 : t < 4) :
    IsRK (encRK op c k a b t) op c k a b t := by
  simp only [IsRK, fld, encRK]; norm_num; omega

/-- A word with these fields of format I. -/
def IsI (w op d n : Nat) : Prop :=
  fld w 23 7 = op ∧ fld w 16 7 = d ∧ fld w 0 16 = n ∧ w < 2 ^ 30

theorem encI_fields {op d n : Nat} (h0 : op < 128) (h1 : d < 128) (h2 : n < 65536) :
    IsI (encI op d n) op d n := by
  simp only [IsI, fld, encI]; norm_num; omega

/-- A word with these fields of format M. -/
def IsM (w op d o ba h z : Nat) : Prop :=
  fld w 23 7 = op ∧ fld w 16 7 = d ∧ fld w 9 7 = o ∧ fld w 5 4 = ba ∧ fld w 2 3 = h ∧ fld w 0 2 = z ∧ w < 2 ^ 30

theorem encM_fields {op d o ba h z : Nat} (h0 : op < 128) (h1 : d < 128) (h2 : o < 128) (h3 : ba < 16) (h4 : h < 8) (h5 : z < 4) :
    IsM (encM op d o ba h z) op d o ba h z := by
  simp only [IsM, fld, encM]; norm_num; omega

/-- A word with these fields of format MO. -/
def IsMO (w op d o ba c v : Nat) : Prop :=
  fld w 23 7 = op ∧ fld w 16 7 = d ∧ fld w 9 7 = o ∧ fld w 5 4 = ba ∧ fld w 1 4 = c ∧ fld w 0 1 = v ∧ w < 2 ^ 30

theorem encMO_fields {op d o ba c v : Nat} (h0 : op < 128) (h1 : d < 128) (h2 : o < 128) (h3 : ba < 16) (h4 : c < 16) (h5 : v < 2) :
    IsMO (encMO op d o ba c v) op d o ba c v := by
  simp only [IsMO, fld, encMO]; norm_num; omega

/-- A word with these fields of format B20. -/
def IsB20 (w op c n : Nat) : Prop :=
  fld w 23 7 = op ∧ fld w 20 3 = c ∧ fld w 0 20 = n ∧ w < 2 ^ 30

theorem encB20_fields {op c n : Nat} (h0 : op < 128) (h1 : c < 8) (h2 : n < 1048576) :
    IsB20 (encB20 op c n) op c n := by
  simp only [IsB20, fld, encB20]; norm_num; omega

/-- A word with these fields of format B16. -/
def IsB16 (w op c r n : Nat) : Prop :=
  fld w 23 7 = op ∧ fld w 20 3 = c ∧ fld w 16 4 = r ∧ fld w 0 16 = n ∧ w < 2 ^ 30

theorem encB16_fields {op c r n : Nat} (h0 : op < 128) (h1 : c < 8) (h2 : r < 16) (h3 : n < 65536) :
    IsB16 (encB16 op c r n) op c r n := by
  simp only [IsB16, fld, encB16]; norm_num; omega

/-- A word with these fields of format E. -/
def IsE (w op d a h b f : Nat) : Prop :=
  fld w 23 7 = op ∧ fld w 16 7 = d ∧ fld w 9 7 = a ∧ fld w 5 4 = h ∧ fld w 2 3 = b ∧ fld w 0 2 = f ∧ w < 2 ^ 30

theorem encE_fields {op d a h b f : Nat} (h0 : op < 128) (h1 : d < 128) (h2 : a < 128) (h3 : h < 16) (h4 : b < 8) (h5 : f < 4) :
    IsE (encE op d a h b f) op d a h b f := by
  simp only [IsE, fld, encE]; norm_num; omega

/-- A word with these fields of format FN. -/
def IsFN (w k sc p q x y : Nat) : Prop :=
  fld w 23 7 = 0x57 ∧ fld w 17 4 = sc ∧ fld w 21 2 = k ∧ fld w 14 3 = p ∧ fld w 11 3 = q ∧ fld w 7 4 = x ∧ fld w
    3 4 = y ∧ w < 2 ^ 30

theorem encFN_fields {k sc p q x y : Nat} (h0 : k < 4) (h1 : sc < 16) (h2 : p < 8) (h3 : q < 8) (h4 : x < 16) (h5 : y < 16) :
    IsFN (encFN k sc p q x y) k sc p q x y := by
  simp only [IsFN, fld, encFN]; norm_num; omega

/-! ## From the fields of a word to the packet that holds it -/

/-- A word that decodes to an instruction other than NOP is not removed, is no EXPR packet, and has a primary (03 R30, R90). -/
theorem decodeRaw_kept {w : Nat} {i : Instr} (h : decodeRaw w = .ok i) (hn : i ≠ .nop) :
    removedWord w = false ∧ fld w 23 7 ≠ 0x3E := by
  by_cases h0 : fld w 23 7 = 0
  · have : decodeRaw w = .ok .nop := by simp [decodeRaw, h0]
    rw [this] at h; cases h; exact absurd rfl hn
  · have hw : w ≠ 0 := by
      rintro rfl; exact h0 (by decide)
    have h3 : fld w 23 7 ≠ 0x3E := by
      intro h3
      have : decodeRaw w = .error .exprPlace := by simp [decodeRaw, h3]
      rw [this] at h; cases h
    refine ⟨?_, h3⟩
    by_cases hr : 0x70 ≤ fld w 23 7 ∧ fld w 23 7 ≤ 0x77
    · obtain ⟨ha, hb⟩ := hr
      have : decodeRaw w = .error .hintRegion := by
        simp only [decodeRaw]
        repeat rw [if_neg (by omega)]
        rw [if_pos hb]
      rw [this] at h; cases h
    · simp [removedWord, hw]; omega

/-- A packet that holds one word. -/
theorem words_of_raw {w : Nat} {i : Instr} (h : decodeRaw w = .ok i) (hwf : i.wf = true) (hn : i ≠ .nop)
    (hl : w < 2 ^ 30) :
    ({ w0 := w, w1 := 0, w2 := 0, w3 := 0 } : Packet).words = .ok [{ slot := 0, i := i, chain := false }] := by
  obtain ⟨hr, h3⟩ := decodeRaw_kept h hn
  have hd : decodeWord w = .ok i := by simp [decodeWord, h, hwf, bind, Except.bind]
  have hz : removedWord 0 = true := by decide
  have hc : fld w 31 1 = 0 := by simp only [fld]; norm_num at *; omega
  simp [Packet.words, Packet.isExpr, h3, decodeSlots, hr, hd, hz, hc]

end Sys2Proof.Laws
end

