-- ==== Sys2Proof/Laws/Sparse.lean ====
section
/-! SUPPORT. Laws of sparse maps: what a lookup after an update finds, and the canonical form. -/

namespace Sys2Proof.Sparse

variable {α : Type}

@[simp] theorem get_nil (d : α) (k : Nat) : get d [] k = d := rfl

theorem get_cons (d : α) (k j : Nat) (v : α) (m : Sparse α) :
    get d ((k, v) :: m) j = if j = k then v else get d m j := rfl

theorem get_put_self (d : α) (m : Sparse α) (k : Nat) (v : α) : get d (put m k v) k = v := by
  induction m with
  | nil => simp [put, get_cons]
  | cons p r ih =>
    obtain ⟨j, w⟩ := p
    unfold put
    split
    · simp [get_cons]
    · split
      · simp [get_cons]
      · rename_i h; simp [get_cons, h, ih]

theorem get_put_ne (d : α) (m : Sparse α) {k j : Nat} (v : α) (h : j ≠ k) : get d (put m k v) j = get d m j := by
  induction m with
  | nil => simp [put, get_cons, h]
  | cons p r ih =>
    obtain ⟨i, w⟩ := p
    unfold put
    split
    · simp [get_cons, h]
    · split
      · rename_i e; subst e; simp [get_cons, h]
      · simp only [get_cons, ih]

theorem get_filter_self (d : α) (m : Sparse α) (k : Nat) : get d (m.filter fun p => p.1 != k) k = d := by
  induction m with
  | nil => rfl
  | cons p r ih =>
    obtain ⟨i, w⟩ := p
    by_cases e : i = k
    · simpa [List.filter_cons, e] using ih
    · simpa [List.filter_cons, e, get_cons, Ne.symm e] using ih

theorem get_filter_ne (d : α) (m : Sparse α) {k j : Nat} (h : j ≠ k) :
    get d (m.filter fun p => p.1 != k) j = get d m j := by
  induction m with
  | nil => rfl
  | cons p r ih =>
    obtain ⟨i, w⟩ := p
    by_cases e : i = k
    · subst e; simpa [List.filter_cons, get_cons, h] using ih
    · simp only [List.filter_cons, bne_iff_ne, ne_eq, e, not_false_eq_true, ite_true, get_cons, ih]

/-- A lookup of the key just written finds the value written. -/
@[simp] theorem get_set_self [DecidableEq α] (d : α) (m : Sparse α) (k : Nat) (v : α) : get d (set d m k v) k = v := by
  unfold set
  split
  · rename_i h; rw [get_filter_self, h]
  · exact get_put_self d m k v

/-- A lookup of another key finds what it found before. -/
theorem get_set_ne [DecidableEq α] (d : α) (m : Sparse α) {k j : Nat} (v : α) (h : j ≠ k) :
    get d (set d m k v) j = get d m j := by
  unfold set
  split
  · exact get_filter_ne d m h
  · exact get_put_ne d m v h

theorem get_set [DecidableEq α] (d : α) (m : Sparse α) (k j : Nat) (v : α) :
    get d (set d m k v) j = if j = k then v else get d m j := by
  split
  · rename_i h; subst h; simp
  · rename_i h; exact get_set_ne d m v h

theorem wfAbove_mono [DecidableEq α] (d : α) {b b' : Nat} (m : Sparse α) (h : b' ≤ b) (hm : wfAbove d b m = true) :
    wfAbove d b' m = true := by
  cases m with
  | nil => rfl
  | cons p r =>
    obtain ⟨k, v⟩ := p
    simp only [wfAbove, Bool.and_eq_true, decide_eq_true_eq] at hm ⊢
    exact ⟨⟨by omega, hm.1.2⟩, hm.2⟩

theorem wfAbove_filter [DecidableEq α] (d : α) (f : Nat × α → Bool) : ∀ (m : Sparse α) (b : Nat),
    wfAbove d b m = true → wfAbove d b (m.filter f) = true := by
  intro m
  induction m with
  | nil => intro b _; rfl
  | cons p r ih =>
    intro b hm
    obtain ⟨k, v⟩ := p
    simp only [wfAbove, Bool.and_eq_true, decide_eq_true_eq] at hm
    rw [List.filter_cons]
    split
    · simp only [wfAbove, Bool.and_eq_true, decide_eq_true_eq]
      exact ⟨hm.1, ih _ hm.2⟩
    · exact wfAbove_mono d _ (by omega) (ih _ hm.2)

theorem wfAbove_put [DecidableEq α] (d : α) (k : Nat) (v : α) (hv : v ≠ d) : ∀ (m : Sparse α) (b : Nat),
    b ≤ k → wfAbove d b m = true → wfAbove d b (put m k v) = true := by
  intro m
  induction m with
  | nil => intro b hb _; simp [put, wfAbove, hb, hv]
  | cons p r ih =>
    intro b hb hm
    obtain ⟨j, w⟩ := p
    simp only [wfAbove, Bool.and_eq_true, decide_eq_true_eq] at hm
    unfold put
    split
    · rename_i h
      simp only [wfAbove, Bool.and_eq_true, decide_eq_true_eq]
      exact ⟨⟨hb, hv⟩, ⟨by omega, hm.1.2⟩, hm.2⟩
    · split
      · rename_i h; subst h
        simp only [wfAbove, Bool.and_eq_true, decide_eq_true_eq]
        exact ⟨⟨hb, hv⟩, hm.2⟩
      · rename_i h1 h2
        simp only [wfAbove, Bool.and_eq_true, decide_eq_true_eq]
        exact ⟨hm.1, ih _ (by omega) hm.2⟩

/-- An update keeps the canonical form. -/
theorem wf_set [DecidableEq α] (d : α) (m : Sparse α) (k : Nat) (v : α) (h : wf d m = true) : wf d (set d m k v) = true := by
  unfold set
  split
  · exact wfAbove_filter d _ m 0 h
  · rename_i hv; exact wfAbove_put d k v hv m 0 (Nat.zero_le _) h

/-- A filter keeps the canonical form. -/
theorem wf_filter [DecidableEq α] (d : α) (f : Nat × α → Bool) (m : Sparse α) (h : wf d m = true) : wf d (m.filter f) = true :=
  wfAbove_filter d f m 0 h

end Sys2Proof.Sparse
end

