-- ==== Sys2Proof/Laws/State.lean ====
section
/-! SUPPORT. What each update of the state leaves alone, field by field, and what a lookup after it finds. -/

set_option Elab.async false

namespace Sys2Proof.Machine

open Sys2Proof

@[simp] theorem State.setGang_now (s : State) (g : Nat) (x : Gang) : (s.setGang g x).now = s.now := rfl
@[simp] theorem State.setGang_tape (s : State) (g : Nat) (x : Gang) : (s.setGang g x).tape = s.tape := rfl
@[simp] theorem State.setGang_lag (s : State) (g : Nat) (x : Gang) : (s.setGang g x).lag = s.lag := rfl
@[simp] theorem State.setGang_agenda (s : State) (g : Nat) (x : Gang) : (s.setGang g x).agenda = s.agenda := rfl
@[simp] theorem State.setGang_fresh (s : State) (g : Nat) (x : Gang) : (s.setGang g x).fresh = s.fresh := rfl
@[simp] theorem State.setGang_cur (s : State) (g : Nat) (x : Gang) : (s.setGang g x).cur = s.cur := rfl
@[simp] theorem State.setGang_mem (s : State) (g : Nat) (x : Gang) : (s.setGang g x).mem = s.mem := rfl
@[simp] theorem State.setGang_crews (s : State) (g : Nat) (x : Gang) : (s.setGang g x).crews = s.crews := rfl
@[simp] theorem State.setGang_cores (s : State) (g : Nat) (x : Gang) : (s.setGang g x).cores = s.cores := rfl
@[simp] theorem State.setGang_towers (s : State) (g : Nat) (x : Gang) : (s.setGang g x).towers = s.towers := rfl
@[simp] theorem State.setGang_homes (s : State) (g : Nat) (x : Gang) : (s.setGang g x).homes = s.homes := rfl
@[simp] theorem State.setGang_net (s : State) (g : Nat) (x : Gang) : (s.setGang g x).net = s.net := rfl
@[simp] theorem State.setGang_tables (s : State) (g : Nat) (x : Gang) : (s.setGang g x).tables = s.tables := rfl
@[simp] theorem State.setGang_tmulti (s : State) (g : Nat) (x : Gang) : (s.setGang g x).tmulti = s.tmulti := rfl
@[simp] theorem State.setGang_rels (s : State) (g : Nat) (x : Gang) : (s.setGang g x).rels = s.rels := rfl
@[simp] theorem State.setGang_det (s : State) (g : Nat) (x : Gang) : (s.setGang g x).det = s.det := rfl
@[simp] theorem State.setGang_bridge (s : State) (g : Nat) (x : Gang) : (s.setGang g x).bridge = s.bridge := rfl
@[simp] theorem State.setGang_lents (s : State) (g : Nat) (x : Gang) : (s.setGang g x).lents = s.lents := rfl
@[simp] theorem State.setGang_events (s : State) (g : Nat) (x : Gang) : (s.setGang g x).events = s.events := rfl
@[simp] theorem State.setGang_evRes (s : State) (g : Nat) (x : Gang) : (s.setGang g x).evRes = s.evRes := rfl
@[simp] theorem State.setGang_tides (s : State) (g : Nat) (x : Gang) : (s.setGang g x).tides = s.tides := rfl
@[simp] theorem State.setGang_tenants (s : State) (g : Nat) (x : Gang) : (s.setGang g x).tenants = s.tenants := rfl
@[simp] theorem State.setGang_rrQueue (s : State) (g : Nat) (x : Gang) : (s.setGang g x).rrQueue = s.rrQueue := rfl
@[simp] theorem State.setGang_priv (s : State) (g : Nat) (x : Gang) : (s.setGang g x).priv = s.priv := rfl
@[simp] theorem State.setGang_life (s : State) (g : Nat) (x : Gang) : (s.setGang g x).life = s.life := rfl
@[simp] theorem State.setGang_places (s : State) (g : Nat) (x : Gang) : (s.setGang g x).places = s.places := rfl
@[simp] theorem State.setGang_extra (s : State) (g : Nat) (x : Gang) : (s.setGang g x).extra = s.extra := rfl
@[simp] theorem State.setGang_phase (s : State) (g : Nat) (x : Gang) : (s.setGang g x).phase = s.phase := rfl
@[simp] theorem State.setGang_nextIss (s : State) (g : Nat) (x : Gang) : (s.setGang g x).nextIss = s.nextIss := rfl
@[simp] theorem State.setGang_hostK (s : State) (g : Nat) (x : Gang) : (s.setGang g x).hostK = s.hostK := rfl
@[simp] theorem State.setGang_peerTs (s : State) (g : Nat) (x : Gang) : (s.setGang g x).peerTs = s.peerTs := rfl
@[simp] theorem State.setGang_acts (s : State) (g : Nat) (x : Gang) : (s.setGang g x).acts = s.acts := rfl
@[simp] theorem State.setGang_fences (s : State) (g : Nat) (x : Gang) : (s.setGang g x).fences = s.fences := rfl
@[simp] theorem State.setGang_rv (s : State) (g : Nat) (x : Gang) : (s.setGang g x).rv = s.rv := rfl
@[simp] theorem State.modGang_now (s : State) (g : Nat) (f : Gang → Gang) : (s.modGang g f).now = s.now := rfl
@[simp] theorem State.modGang_tape (s : State) (g : Nat) (f : Gang → Gang) : (s.modGang g f).tape = s.tape := rfl
@[simp] theorem State.modGang_lag (s : State) (g : Nat) (f : Gang → Gang) : (s.modGang g f).lag = s.lag := rfl
@[simp] theorem State.modGang_agenda (s : State) (g : Nat) (f : Gang → Gang) : (s.modGang g f).agenda = s.agenda := rfl
@[simp] theorem State.modGang_fresh (s : State) (g : Nat) (f : Gang → Gang) : (s.modGang g f).fresh = s.fresh := rfl
@[simp] theorem State.modGang_cur (s : State) (g : Nat) (f : Gang → Gang) : (s.modGang g f).cur = s.cur := rfl
@[simp] theorem State.modGang_mem (s : State) (g : Nat) (f : Gang → Gang) : (s.modGang g f).mem = s.mem := rfl
@[simp] theorem State.modGang_crews (s : State) (g : Nat) (f : Gang → Gang) : (s.modGang g f).crews = s.crews := rfl
@[simp] theorem State.modGang_cores (s : State) (g : Nat) (f : Gang → Gang) : (s.modGang g f).cores = s.cores := rfl
@[simp] theorem State.modGang_towers (s : State) (g : Nat) (f : Gang → Gang) : (s.modGang g f).towers = s.towers := rfl
@[simp] theorem State.modGang_homes (s : State) (g : Nat) (f : Gang → Gang) : (s.modGang g f).homes = s.homes := rfl
@[simp] theorem State.modGang_net (s : State) (g : Nat) (f : Gang → Gang) : (s.modGang g f).net = s.net := rfl
@[simp] theorem State.modGang_tables (s : State) (g : Nat) (f : Gang → Gang) : (s.modGang g f).tables = s.tables := rfl
@[simp] theorem State.modGang_tmulti (s : State) (g : Nat) (f : Gang → Gang) : (s.modGang g f).tmulti = s.tmulti := rfl
@[simp] theorem State.modGang_rels (s : State) (g : Nat) (f : Gang → Gang) : (s.modGang g f).rels = s.rels := rfl
@[simp] theorem State.modGang_det (s : State) (g : Nat) (f : Gang → Gang) : (s.modGang g f).det = s.det := rfl
@[simp] theorem State.modGang_bridge (s : State) (g : Nat) (f : Gang → Gang) : (s.modGang g f).bridge = s.bridge := rfl
@[simp] theorem State.modGang_lents (s : State) (g : Nat) (f : Gang → Gang) : (s.modGang g f).lents = s.lents := rfl
@[simp] theorem State.modGang_events (s : State) (g : Nat) (f : Gang → Gang) : (s.modGang g f).events = s.events := rfl
@[simp] theorem State.modGang_evRes (s : State) (g : Nat) (f : Gang → Gang) : (s.modGang g f).evRes = s.evRes := rfl
@[simp] theorem State.modGang_tides (s : State) (g : Nat) (f : Gang → Gang) : (s.modGang g f).tides = s.tides := rfl
@[simp] theorem State.modGang_tenants (s : State) (g : Nat) (f : Gang → Gang) : (s.modGang g f).tenants = s.tenants := rfl
@[simp] theorem State.modGang_rrQueue (s : State) (g : Nat) (f : Gang → Gang) : (s.modGang g f).rrQueue = s.rrQueue := rfl
@[simp] theorem State.modGang_priv (s : State) (g : Nat) (f : Gang → Gang) : (s.modGang g f).priv = s.priv := rfl
@[simp] theorem State.modGang_life (s : State) (g : Nat) (f : Gang → Gang) : (s.modGang g f).life = s.life := rfl
@[simp] theorem State.modGang_places (s : State) (g : Nat) (f : Gang → Gang) : (s.modGang g f).places = s.places := rfl
@[simp] theorem State.modGang_extra (s : State) (g : Nat) (f : Gang → Gang) : (s.modGang g f).extra = s.extra := rfl
@[simp] theorem State.modGang_phase (s : State) (g : Nat) (f : Gang → Gang) : (s.modGang g f).phase = s.phase := rfl
@[simp] theorem State.modGang_nextIss (s : State) (g : Nat) (f : Gang → Gang) : (s.modGang g f).nextIss = s.nextIss := rfl
@[simp] theorem State.modGang_hostK (s : State) (g : Nat) (f : Gang → Gang) : (s.modGang g f).hostK = s.hostK := rfl
@[simp] theorem State.modGang_peerTs (s : State) (g : Nat) (f : Gang → Gang) : (s.modGang g f).peerTs = s.peerTs := rfl
@[simp] theorem State.modGang_acts (s : State) (g : Nat) (f : Gang → Gang) : (s.modGang g f).acts = s.acts := rfl
@[simp] theorem State.modGang_fences (s : State) (g : Nat) (f : Gang → Gang) : (s.modGang g f).fences = s.fences := rfl
@[simp] theorem State.modGang_rv (s : State) (g : Nat) (f : Gang → Gang) : (s.modGang g f).rv = s.rv := rfl
@[simp] theorem State.setCrew_now (s : State) (u : Nat) (x : Crew) : (s.setCrew u x).now = s.now := rfl
@[simp] theorem State.setCrew_tape (s : State) (u : Nat) (x : Crew) : (s.setCrew u x).tape = s.tape := rfl
@[simp] theorem State.setCrew_lag (s : State) (u : Nat) (x : Crew) : (s.setCrew u x).lag = s.lag := rfl
@[simp] theorem State.setCrew_agenda (s : State) (u : Nat) (x : Crew) : (s.setCrew u x).agenda = s.agenda := rfl
@[simp] theorem State.setCrew_fresh (s : State) (u : Nat) (x : Crew) : (s.setCrew u x).fresh = s.fresh := rfl
@[simp] theorem State.setCrew_cur (s : State) (u : Nat) (x : Crew) : (s.setCrew u x).cur = s.cur := rfl
@[simp] theorem State.setCrew_mem (s : State) (u : Nat) (x : Crew) : (s.setCrew u x).mem = s.mem := rfl
@[simp] theorem State.setCrew_gangs (s : State) (u : Nat) (x : Crew) : (s.setCrew u x).gangs = s.gangs := rfl
@[simp] theorem State.setCrew_cores (s : State) (u : Nat) (x : Crew) : (s.setCrew u x).cores = s.cores := rfl
@[simp] theorem State.setCrew_towers (s : State) (u : Nat) (x : Crew) : (s.setCrew u x).towers = s.towers := rfl
@[simp] theorem State.setCrew_homes (s : State) (u : Nat) (x : Crew) : (s.setCrew u x).homes = s.homes := rfl
@[simp] theorem State.setCrew_net (s : State) (u : Nat) (x : Crew) : (s.setCrew u x).net = s.net := rfl
@[simp] theorem State.setCrew_tables (s : State) (u : Nat) (x : Crew) : (s.setCrew u x).tables = s.tables := rfl
@[simp] theorem State.setCrew_tmulti (s : State) (u : Nat) (x : Crew) : (s.setCrew u x).tmulti = s.tmulti := rfl
@[simp] theorem State.setCrew_rels (s : State) (u : Nat) (x : Crew) : (s.setCrew u x).rels = s.rels := rfl
@[simp] theorem State.setCrew_det (s : State) (u : Nat) (x : Crew) : (s.setCrew u x).det = s.det := rfl
@[simp] theorem State.setCrew_bridge (s : State) (u : Nat) (x : Crew) : (s.setCrew u x).bridge = s.bridge := rfl
@[simp] theorem State.setCrew_lents (s : State) (u : Nat) (x : Crew) : (s.setCrew u x).lents = s.lents := rfl
@[simp] theorem State.setCrew_events (s : State) (u : Nat) (x : Crew) : (s.setCrew u x).events = s.events := rfl
@[simp] theorem State.setCrew_evRes (s : State) (u : Nat) (x : Crew) : (s.setCrew u x).evRes = s.evRes := rfl
@[simp] theorem State.setCrew_tides (s : State) (u : Nat) (x : Crew) : (s.setCrew u x).tides = s.tides := rfl
@[simp] theorem State.setCrew_tenants (s : State) (u : Nat) (x : Crew) : (s.setCrew u x).tenants = s.tenants := rfl
@[simp] theorem State.setCrew_rrQueue (s : State) (u : Nat) (x : Crew) : (s.setCrew u x).rrQueue = s.rrQueue := rfl
@[simp] theorem State.setCrew_priv (s : State) (u : Nat) (x : Crew) : (s.setCrew u x).priv = s.priv := rfl
@[simp] theorem State.setCrew_life (s : State) (u : Nat) (x : Crew) : (s.setCrew u x).life = s.life := rfl
@[simp] theorem State.setCrew_places (s : State) (u : Nat) (x : Crew) : (s.setCrew u x).places = s.places := rfl
@[simp] theorem State.setCrew_extra (s : State) (u : Nat) (x : Crew) : (s.setCrew u x).extra = s.extra := rfl
@[simp] theorem State.setCrew_phase (s : State) (u : Nat) (x : Crew) : (s.setCrew u x).phase = s.phase := rfl
@[simp] theorem State.setCrew_nextIss (s : State) (u : Nat) (x : Crew) : (s.setCrew u x).nextIss = s.nextIss := rfl
@[simp] theorem State.setCrew_hostK (s : State) (u : Nat) (x : Crew) : (s.setCrew u x).hostK = s.hostK := rfl
@[simp] theorem State.setCrew_peerTs (s : State) (u : Nat) (x : Crew) : (s.setCrew u x).peerTs = s.peerTs := rfl
@[simp] theorem State.setCrew_acts (s : State) (u : Nat) (x : Crew) : (s.setCrew u x).acts = s.acts := rfl
@[simp] theorem State.setCrew_fences (s : State) (u : Nat) (x : Crew) : (s.setCrew u x).fences = s.fences := rfl
@[simp] theorem State.setCrew_rv (s : State) (u : Nat) (x : Crew) : (s.setCrew u x).rv = s.rv := rfl
@[simp] theorem State.modCrew_now (s : State) (u : Nat) (f : Crew → Crew) : (s.modCrew u f).now = s.now := rfl
@[simp] theorem State.modCrew_tape (s : State) (u : Nat) (f : Crew → Crew) : (s.modCrew u f).tape = s.tape := rfl
@[simp] theorem State.modCrew_lag (s : State) (u : Nat) (f : Crew → Crew) : (s.modCrew u f).lag = s.lag := rfl
@[simp] theorem State.modCrew_agenda (s : State) (u : Nat) (f : Crew → Crew) : (s.modCrew u f).agenda = s.agenda := rfl
@[simp] theorem State.modCrew_fresh (s : State) (u : Nat) (f : Crew → Crew) : (s.modCrew u f).fresh = s.fresh := rfl
@[simp] theorem State.modCrew_cur (s : State) (u : Nat) (f : Crew → Crew) : (s.modCrew u f).cur = s.cur := rfl
@[simp] theorem State.modCrew_mem (s : State) (u : Nat) (f : Crew → Crew) : (s.modCrew u f).mem = s.mem := rfl
@[simp] theorem State.modCrew_gangs (s : State) (u : Nat) (f : Crew → Crew) : (s.modCrew u f).gangs = s.gangs := rfl
@[simp] theorem State.modCrew_cores (s : State) (u : Nat) (f : Crew → Crew) : (s.modCrew u f).cores = s.cores := rfl
@[simp] theorem State.modCrew_towers (s : State) (u : Nat) (f : Crew → Crew) : (s.modCrew u f).towers = s.towers := rfl
@[simp] theorem State.modCrew_homes (s : State) (u : Nat) (f : Crew → Crew) : (s.modCrew u f).homes = s.homes := rfl
@[simp] theorem State.modCrew_net (s : State) (u : Nat) (f : Crew → Crew) : (s.modCrew u f).net = s.net := rfl
@[simp] theorem State.modCrew_tables (s : State) (u : Nat) (f : Crew → Crew) : (s.modCrew u f).tables = s.tables := rfl
@[simp] theorem State.modCrew_tmulti (s : State) (u : Nat) (f : Crew → Crew) : (s.modCrew u f).tmulti = s.tmulti := rfl
@[simp] theorem State.modCrew_rels (s : State) (u : Nat) (f : Crew → Crew) : (s.modCrew u f).rels = s.rels := rfl
@[simp] theorem State.modCrew_det (s : State) (u : Nat) (f : Crew → Crew) : (s.modCrew u f).det = s.det := rfl
@[simp] theorem State.modCrew_bridge (s : State) (u : Nat) (f : Crew → Crew) : (s.modCrew u f).bridge = s.bridge := rfl
@[simp] theorem State.modCrew_lents (s : State) (u : Nat) (f : Crew → Crew) : (s.modCrew u f).lents = s.lents := rfl
@[simp] theorem State.modCrew_events (s : State) (u : Nat) (f : Crew → Crew) : (s.modCrew u f).events = s.events := rfl
@[simp] theorem State.modCrew_evRes (s : State) (u : Nat) (f : Crew → Crew) : (s.modCrew u f).evRes = s.evRes := rfl
@[simp] theorem State.modCrew_tides (s : State) (u : Nat) (f : Crew → Crew) : (s.modCrew u f).tides = s.tides := rfl
@[simp] theorem State.modCrew_tenants (s : State) (u : Nat) (f : Crew → Crew) : (s.modCrew u f).tenants = s.tenants := rfl
@[simp] theorem State.modCrew_rrQueue (s : State) (u : Nat) (f : Crew → Crew) : (s.modCrew u f).rrQueue = s.rrQueue := rfl
@[simp] theorem State.modCrew_priv (s : State) (u : Nat) (f : Crew → Crew) : (s.modCrew u f).priv = s.priv := rfl
@[simp] theorem State.modCrew_life (s : State) (u : Nat) (f : Crew → Crew) : (s.modCrew u f).life = s.life := rfl
@[simp] theorem State.modCrew_places (s : State) (u : Nat) (f : Crew → Crew) : (s.modCrew u f).places = s.places := rfl
@[simp] theorem State.modCrew_extra (s : State) (u : Nat) (f : Crew → Crew) : (s.modCrew u f).extra = s.extra := rfl
@[simp] theorem State.modCrew_phase (s : State) (u : Nat) (f : Crew → Crew) : (s.modCrew u f).phase = s.phase := rfl
@[simp] theorem State.modCrew_nextIss (s : State) (u : Nat) (f : Crew → Crew) : (s.modCrew u f).nextIss = s.nextIss := rfl
@[simp] theorem State.modCrew_hostK (s : State) (u : Nat) (f : Crew → Crew) : (s.modCrew u f).hostK = s.hostK := rfl
@[simp] theorem State.modCrew_peerTs (s : State) (u : Nat) (f : Crew → Crew) : (s.modCrew u f).peerTs = s.peerTs := rfl
@[simp] theorem State.modCrew_acts (s : State) (u : Nat) (f : Crew → Crew) : (s.modCrew u f).acts = s.acts := rfl
@[simp] theorem State.modCrew_fences (s : State) (u : Nat) (f : Crew → Crew) : (s.modCrew u f).fences = s.fences := rfl
@[simp] theorem State.modCrew_rv (s : State) (u : Nat) (f : Crew → Crew) : (s.modCrew u f).rv = s.rv := rfl
@[simp] theorem State.setCore_now (s : State) (c : Nat) (x : Core) : (s.setCore c x).now = s.now := rfl
@[simp] theorem State.setCore_tape (s : State) (c : Nat) (x : Core) : (s.setCore c x).tape = s.tape := rfl
@[simp] theorem State.setCore_lag (s : State) (c : Nat) (x : Core) : (s.setCore c x).lag = s.lag := rfl
@[simp] theorem State.setCore_agenda (s : State) (c : Nat) (x : Core) : (s.setCore c x).agenda = s.agenda := rfl
@[simp] theorem State.setCore_fresh (s : State) (c : Nat) (x : Core) : (s.setCore c x).fresh = s.fresh := rfl
@[simp] theorem State.setCore_cur (s : State) (c : Nat) (x : Core) : (s.setCore c x).cur = s.cur := rfl
@[simp] theorem State.setCore_mem (s : State) (c : Nat) (x : Core) : (s.setCore c x).mem = s.mem := rfl
@[simp] theorem State.setCore_gangs (s : State) (c : Nat) (x : Core) : (s.setCore c x).gangs = s.gangs := rfl
@[simp] theorem State.setCore_crews (s : State) (c : Nat) (x : Core) : (s.setCore c x).crews = s.crews := rfl
@[simp] theorem State.setCore_towers (s : State) (c : Nat) (x : Core) : (s.setCore c x).towers = s.towers := rfl
@[simp] theorem State.setCore_homes (s : State) (c : Nat) (x : Core) : (s.setCore c x).homes = s.homes := rfl
@[simp] theorem State.setCore_net (s : State) (c : Nat) (x : Core) : (s.setCore c x).net = s.net := rfl
@[simp] theorem State.setCore_tables (s : State) (c : Nat) (x : Core) : (s.setCore c x).tables = s.tables := rfl
@[simp] theorem State.setCore_tmulti (s : State) (c : Nat) (x : Core) : (s.setCore c x).tmulti = s.tmulti := rfl
@[simp] theorem State.setCore_rels (s : State) (c : Nat) (x : Core) : (s.setCore c x).rels = s.rels := rfl
@[simp] theorem State.setCore_det (s : State) (c : Nat) (x : Core) : (s.setCore c x).det = s.det := rfl
@[simp] theorem State.setCore_bridge (s : State) (c : Nat) (x : Core) : (s.setCore c x).bridge = s.bridge := rfl
@[simp] theorem State.setCore_lents (s : State) (c : Nat) (x : Core) : (s.setCore c x).lents = s.lents := rfl
@[simp] theorem State.setCore_events (s : State) (c : Nat) (x : Core) : (s.setCore c x).events = s.events := rfl
@[simp] theorem State.setCore_evRes (s : State) (c : Nat) (x : Core) : (s.setCore c x).evRes = s.evRes := rfl
@[simp] theorem State.setCore_tides (s : State) (c : Nat) (x : Core) : (s.setCore c x).tides = s.tides := rfl
@[simp] theorem State.setCore_tenants (s : State) (c : Nat) (x : Core) : (s.setCore c x).tenants = s.tenants := rfl
@[simp] theorem State.setCore_rrQueue (s : State) (c : Nat) (x : Core) : (s.setCore c x).rrQueue = s.rrQueue := rfl
@[simp] theorem State.setCore_priv (s : State) (c : Nat) (x : Core) : (s.setCore c x).priv = s.priv := rfl
@[simp] theorem State.setCore_life (s : State) (c : Nat) (x : Core) : (s.setCore c x).life = s.life := rfl
@[simp] theorem State.setCore_places (s : State) (c : Nat) (x : Core) : (s.setCore c x).places = s.places := rfl
@[simp] theorem State.setCore_extra (s : State) (c : Nat) (x : Core) : (s.setCore c x).extra = s.extra := rfl
@[simp] theorem State.setCore_phase (s : State) (c : Nat) (x : Core) : (s.setCore c x).phase = s.phase := rfl
@[simp] theorem State.setCore_nextIss (s : State) (c : Nat) (x : Core) : (s.setCore c x).nextIss = s.nextIss := rfl
@[simp] theorem State.setCore_hostK (s : State) (c : Nat) (x : Core) : (s.setCore c x).hostK = s.hostK := rfl
@[simp] theorem State.setCore_peerTs (s : State) (c : Nat) (x : Core) : (s.setCore c x).peerTs = s.peerTs := rfl
@[simp] theorem State.setCore_acts (s : State) (c : Nat) (x : Core) : (s.setCore c x).acts = s.acts := rfl
@[simp] theorem State.setCore_fences (s : State) (c : Nat) (x : Core) : (s.setCore c x).fences = s.fences := rfl
@[simp] theorem State.setCore_rv (s : State) (c : Nat) (x : Core) : (s.setCore c x).rv = s.rv := rfl
@[simp] theorem State.modCore_now (s : State) (c : Nat) (f : Core → Core) : (s.modCore c f).now = s.now := rfl
@[simp] theorem State.modCore_tape (s : State) (c : Nat) (f : Core → Core) : (s.modCore c f).tape = s.tape := rfl
@[simp] theorem State.modCore_lag (s : State) (c : Nat) (f : Core → Core) : (s.modCore c f).lag = s.lag := rfl
@[simp] theorem State.modCore_agenda (s : State) (c : Nat) (f : Core → Core) : (s.modCore c f).agenda = s.agenda := rfl
@[simp] theorem State.modCore_fresh (s : State) (c : Nat) (f : Core → Core) : (s.modCore c f).fresh = s.fresh := rfl
@[simp] theorem State.modCore_cur (s : State) (c : Nat) (f : Core → Core) : (s.modCore c f).cur = s.cur := rfl
@[simp] theorem State.modCore_mem (s : State) (c : Nat) (f : Core → Core) : (s.modCore c f).mem = s.mem := rfl
@[simp] theorem State.modCore_gangs (s : State) (c : Nat) (f : Core → Core) : (s.modCore c f).gangs = s.gangs := rfl
@[simp] theorem State.modCore_crews (s : State) (c : Nat) (f : Core → Core) : (s.modCore c f).crews = s.crews := rfl
@[simp] theorem State.modCore_towers (s : State) (c : Nat) (f : Core → Core) : (s.modCore c f).towers = s.towers := rfl
@[simp] theorem State.modCore_homes (s : State) (c : Nat) (f : Core → Core) : (s.modCore c f).homes = s.homes := rfl
@[simp] theorem State.modCore_net (s : State) (c : Nat) (f : Core → Core) : (s.modCore c f).net = s.net := rfl
@[simp] theorem State.modCore_tables (s : State) (c : Nat) (f : Core → Core) : (s.modCore c f).tables = s.tables := rfl
@[simp] theorem State.modCore_tmulti (s : State) (c : Nat) (f : Core → Core) : (s.modCore c f).tmulti = s.tmulti := rfl
@[simp] theorem State.modCore_rels (s : State) (c : Nat) (f : Core → Core) : (s.modCore c f).rels = s.rels := rfl
@[simp] theorem State.modCore_det (s : State) (c : Nat) (f : Core → Core) : (s.modCore c f).det = s.det := rfl
@[simp] theorem State.modCore_bridge (s : State) (c : Nat) (f : Core → Core) : (s.modCore c f).bridge = s.bridge := rfl
@[simp] theorem State.modCore_lents (s : State) (c : Nat) (f : Core → Core) : (s.modCore c f).lents = s.lents := rfl
@[simp] theorem State.modCore_events (s : State) (c : Nat) (f : Core → Core) : (s.modCore c f).events = s.events := rfl
@[simp] theorem State.modCore_evRes (s : State) (c : Nat) (f : Core → Core) : (s.modCore c f).evRes = s.evRes := rfl
@[simp] theorem State.modCore_tides (s : State) (c : Nat) (f : Core → Core) : (s.modCore c f).tides = s.tides := rfl
@[simp] theorem State.modCore_tenants (s : State) (c : Nat) (f : Core → Core) : (s.modCore c f).tenants = s.tenants := rfl
@[simp] theorem State.modCore_rrQueue (s : State) (c : Nat) (f : Core → Core) : (s.modCore c f).rrQueue = s.rrQueue := rfl
@[simp] theorem State.modCore_priv (s : State) (c : Nat) (f : Core → Core) : (s.modCore c f).priv = s.priv := rfl
@[simp] theorem State.modCore_life (s : State) (c : Nat) (f : Core → Core) : (s.modCore c f).life = s.life := rfl
@[simp] theorem State.modCore_places (s : State) (c : Nat) (f : Core → Core) : (s.modCore c f).places = s.places := rfl
@[simp] theorem State.modCore_extra (s : State) (c : Nat) (f : Core → Core) : (s.modCore c f).extra = s.extra := rfl
@[simp] theorem State.modCore_phase (s : State) (c : Nat) (f : Core → Core) : (s.modCore c f).phase = s.phase := rfl
@[simp] theorem State.modCore_nextIss (s : State) (c : Nat) (f : Core → Core) : (s.modCore c f).nextIss = s.nextIss := rfl
@[simp] theorem State.modCore_hostK (s : State) (c : Nat) (f : Core → Core) : (s.modCore c f).hostK = s.hostK := rfl
@[simp] theorem State.modCore_peerTs (s : State) (c : Nat) (f : Core → Core) : (s.modCore c f).peerTs = s.peerTs := rfl
@[simp] theorem State.modCore_acts (s : State) (c : Nat) (f : Core → Core) : (s.modCore c f).acts = s.acts := rfl
@[simp] theorem State.modCore_fences (s : State) (c : Nat) (f : Core → Core) : (s.modCore c f).fences = s.fences := rfl
@[simp] theorem State.modCore_rv (s : State) (c : Nat) (f : Core → Core) : (s.modCore c f).rv = s.rv := rfl
@[simp] theorem State.setTower_now (s : State) (t : Nat) (x : Tower) : (s.setTower t x).now = s.now := rfl
@[simp] theorem State.setTower_tape (s : State) (t : Nat) (x : Tower) : (s.setTower t x).tape = s.tape := rfl
@[simp] theorem State.setTower_lag (s : State) (t : Nat) (x : Tower) : (s.setTower t x).lag = s.lag := rfl
@[simp] theorem State.setTower_agenda (s : State) (t : Nat) (x : Tower) : (s.setTower t x).agenda = s.agenda := rfl
@[simp] theorem State.setTower_fresh (s : State) (t : Nat) (x : Tower) : (s.setTower t x).fresh = s.fresh := rfl
@[simp] theorem State.setTower_cur (s : State) (t : Nat) (x : Tower) : (s.setTower t x).cur = s.cur := rfl
@[simp] theorem State.setTower_mem (s : State) (t : Nat) (x : Tower) : (s.setTower t x).mem = s.mem := rfl
@[simp] theorem State.setTower_gangs (s : State) (t : Nat) (x : Tower) : (s.setTower t x).gangs = s.gangs := rfl
@[simp] theorem State.setTower_crews (s : State) (t : Nat) (x : Tower) : (s.setTower t x).crews = s.crews := rfl
@[simp] theorem State.setTower_cores (s : State) (t : Nat) (x : Tower) : (s.setTower t x).cores = s.cores := rfl
@[simp] theorem State.setTower_homes (s : State) (t : Nat) (x : Tower) : (s.setTower t x).homes = s.homes := rfl
@[simp] theorem State.setTower_net (s : State) (t : Nat) (x : Tower) : (s.setTower t x).net = s.net := rfl
@[simp] theorem State.setTower_tables (s : State) (t : Nat) (x : Tower) : (s.setTower t x).tables = s.tables := rfl
@[simp] theorem State.setTower_tmulti (s : State) (t : Nat) (x : Tower) : (s.setTower t x).tmulti = s.tmulti := rfl
@[simp] theorem State.setTower_rels (s : State) (t : Nat) (x : Tower) : (s.setTower t x).rels = s.rels := rfl
@[simp] theorem State.setTower_det (s : State) (t : Nat) (x : Tower) : (s.setTower t x).det = s.det := rfl
@[simp] theorem State.setTower_bridge (s : State) (t : Nat) (x : Tower) : (s.setTower t x).bridge = s.bridge := rfl
@[simp] theorem State.setTower_lents (s : State) (t : Nat) (x : Tower) : (s.setTower t x).lents = s.lents := rfl
@[simp] theorem State.setTower_events (s : State) (t : Nat) (x : Tower) : (s.setTower t x).events = s.events := rfl
@[simp] theorem State.setTower_evRes (s : State) (t : Nat) (x : Tower) : (s.setTower t x).evRes = s.evRes := rfl
@[simp] theorem State.setTower_tides (s : State) (t : Nat) (x : Tower) : (s.setTower t x).tides = s.tides := rfl
@[simp] theorem State.setTower_tenants (s : State) (t : Nat) (x : Tower) : (s.setTower t x).tenants = s.tenants := rfl
@[simp] theorem State.setTower_rrQueue (s : State) (t : Nat) (x : Tower) : (s.setTower t x).rrQueue = s.rrQueue := rfl
@[simp] theorem State.setTower_priv (s : State) (t : Nat) (x : Tower) : (s.setTower t x).priv = s.priv := rfl
@[simp] theorem State.setTower_life (s : State) (t : Nat) (x : Tower) : (s.setTower t x).life = s.life := rfl
@[simp] theorem State.setTower_places (s : State) (t : Nat) (x : Tower) : (s.setTower t x).places = s.places := rfl
@[simp] theorem State.setTower_extra (s : State) (t : Nat) (x : Tower) : (s.setTower t x).extra = s.extra := rfl
@[simp] theorem State.setTower_phase (s : State) (t : Nat) (x : Tower) : (s.setTower t x).phase = s.phase := rfl
@[simp] theorem State.setTower_nextIss (s : State) (t : Nat) (x : Tower) : (s.setTower t x).nextIss = s.nextIss := rfl
@[simp] theorem State.setTower_hostK (s : State) (t : Nat) (x : Tower) : (s.setTower t x).hostK = s.hostK := rfl
@[simp] theorem State.setTower_peerTs (s : State) (t : Nat) (x : Tower) : (s.setTower t x).peerTs = s.peerTs := rfl
@[simp] theorem State.setTower_acts (s : State) (t : Nat) (x : Tower) : (s.setTower t x).acts = s.acts := rfl
@[simp] theorem State.setTower_fences (s : State) (t : Nat) (x : Tower) : (s.setTower t x).fences = s.fences := rfl
@[simp] theorem State.setTower_rv (s : State) (t : Nat) (x : Tower) : (s.setTower t x).rv = s.rv := rfl
@[simp] theorem State.modTower_now (s : State) (t : Nat) (f : Tower → Tower) : (s.modTower t f).now = s.now := rfl
@[simp] theorem State.modTower_tape (s : State) (t : Nat) (f : Tower → Tower) : (s.modTower t f).tape = s.tape := rfl
@[simp] theorem State.modTower_lag (s : State) (t : Nat) (f : Tower → Tower) : (s.modTower t f).lag = s.lag := rfl
@[simp] theorem State.modTower_agenda (s : State) (t : Nat) (f : Tower → Tower) : (s.modTower t f).agenda = s.agenda := rfl
@[simp] theorem State.modTower_fresh (s : State) (t : Nat) (f : Tower → Tower) : (s.modTower t f).fresh = s.fresh := rfl
@[simp] theorem State.modTower_cur (s : State) (t : Nat) (f : Tower → Tower) : (s.modTower t f).cur = s.cur := rfl
@[simp] theorem State.modTower_mem (s : State) (t : Nat) (f : Tower → Tower) : (s.modTower t f).mem = s.mem := rfl
@[simp] theorem State.modTower_gangs (s : State) (t : Nat) (f : Tower → Tower) : (s.modTower t f).gangs = s.gangs := rfl
@[simp] theorem State.modTower_crews (s : State) (t : Nat) (f : Tower → Tower) : (s.modTower t f).crews = s.crews := rfl
@[simp] theorem State.modTower_cores (s : State) (t : Nat) (f : Tower → Tower) : (s.modTower t f).cores = s.cores := rfl
@[simp] theorem State.modTower_homes (s : State) (t : Nat) (f : Tower → Tower) : (s.modTower t f).homes = s.homes := rfl
@[simp] theorem State.modTower_net (s : State) (t : Nat) (f : Tower → Tower) : (s.modTower t f).net = s.net := rfl
@[simp] theorem State.modTower_tables (s : State) (t : Nat) (f : Tower → Tower) : (s.modTower t f).tables = s.tables := rfl
@[simp] theorem State.modTower_tmulti (s : State) (t : Nat) (f : Tower → Tower) : (s.modTower t f).tmulti = s.tmulti := rfl
@[simp] theorem State.modTower_rels (s : State) (t : Nat) (f : Tower → Tower) : (s.modTower t f).rels = s.rels := rfl
@[simp] theorem State.modTower_det (s : State) (t : Nat) (f : Tower → Tower) : (s.modTower t f).det = s.det := rfl
@[simp] theorem State.modTower_bridge (s : State) (t : Nat) (f : Tower → Tower) : (s.modTower t f).bridge = s.bridge := rfl
@[simp] theorem State.modTower_lents (s : State) (t : Nat) (f : Tower → Tower) : (s.modTower t f).lents = s.lents := rfl
@[simp] theorem State.modTower_events (s : State) (t : Nat) (f : Tower → Tower) : (s.modTower t f).events = s.events := rfl
@[simp] theorem State.modTower_evRes (s : State) (t : Nat) (f : Tower → Tower) : (s.modTower t f).evRes = s.evRes := rfl
@[simp] theorem State.modTower_tides (s : State) (t : Nat) (f : Tower → Tower) : (s.modTower t f).tides = s.tides := rfl
@[simp] theorem State.modTower_tenants (s : State) (t : Nat) (f : Tower → Tower) : (s.modTower t f).tenants = s.tenants := rfl
@[simp] theorem State.modTower_rrQueue (s : State) (t : Nat) (f : Tower → Tower) : (s.modTower t f).rrQueue = s.rrQueue := rfl
@[simp] theorem State.modTower_priv (s : State) (t : Nat) (f : Tower → Tower) : (s.modTower t f).priv = s.priv := rfl
@[simp] theorem State.modTower_life (s : State) (t : Nat) (f : Tower → Tower) : (s.modTower t f).life = s.life := rfl
@[simp] theorem State.modTower_places (s : State) (t : Nat) (f : Tower → Tower) : (s.modTower t f).places = s.places := rfl
@[simp] theorem State.modTower_extra (s : State) (t : Nat) (f : Tower → Tower) : (s.modTower t f).extra = s.extra := rfl
@[simp] theorem State.modTower_phase (s : State) (t : Nat) (f : Tower → Tower) : (s.modTower t f).phase = s.phase := rfl
@[simp] theorem State.modTower_nextIss (s : State) (t : Nat) (f : Tower → Tower) : (s.modTower t f).nextIss = s.nextIss := rfl
@[simp] theorem State.modTower_hostK (s : State) (t : Nat) (f : Tower → Tower) : (s.modTower t f).hostK = s.hostK := rfl
@[simp] theorem State.modTower_peerTs (s : State) (t : Nat) (f : Tower → Tower) : (s.modTower t f).peerTs = s.peerTs := rfl
@[simp] theorem State.modTower_acts (s : State) (t : Nat) (f : Tower → Tower) : (s.modTower t f).acts = s.acts := rfl
@[simp] theorem State.modTower_fences (s : State) (t : Nat) (f : Tower → Tower) : (s.modTower t f).fences = s.fences := rfl
@[simp] theorem State.modTower_rv (s : State) (t : Nat) (f : Tower → Tower) : (s.modTower t f).rv = s.rv := rfl
@[simp] theorem State.setHome_now (s : State) (h : Nat) (x : HomeSt) : (s.setHome h x).now = s.now := rfl
@[simp] theorem State.setHome_tape (s : State) (h : Nat) (x : HomeSt) : (s.setHome h x).tape = s.tape := rfl
@[simp] theorem State.setHome_lag (s : State) (h : Nat) (x : HomeSt) : (s.setHome h x).lag = s.lag := rfl
@[simp] theorem State.setHome_agenda (s : State) (h : Nat) (x : HomeSt) : (s.setHome h x).agenda = s.agenda := rfl
@[simp] theorem State.setHome_fresh (s : State) (h : Nat) (x : HomeSt) : (s.setHome h x).fresh = s.fresh := rfl
@[simp] theorem State.setHome_cur (s : State) (h : Nat) (x : HomeSt) : (s.setHome h x).cur = s.cur := rfl
@[simp] theorem State.setHome_mem (s : State) (h : Nat) (x : HomeSt) : (s.setHome h x).mem = s.mem := rfl
@[simp] theorem State.setHome_gangs (s : State) (h : Nat) (x : HomeSt) : (s.setHome h x).gangs = s.gangs := rfl
@[simp] theorem State.setHome_crews (s : State) (h : Nat) (x : HomeSt) : (s.setHome h x).crews = s.crews := rfl
@[simp] theorem State.setHome_cores (s : State) (h : Nat) (x : HomeSt) : (s.setHome h x).cores = s.cores := rfl
@[simp] theorem State.setHome_towers (s : State) (h : Nat) (x : HomeSt) : (s.setHome h x).towers = s.towers := rfl
@[simp] theorem State.setHome_net (s : State) (h : Nat) (x : HomeSt) : (s.setHome h x).net = s.net := rfl
@[simp] theorem State.setHome_tables (s : State) (h : Nat) (x : HomeSt) : (s.setHome h x).tables = s.tables := rfl
@[simp] theorem State.setHome_tmulti (s : State) (h : Nat) (x : HomeSt) : (s.setHome h x).tmulti = s.tmulti := rfl
@[simp] theorem State.setHome_rels (s : State) (h : Nat) (x : HomeSt) : (s.setHome h x).rels = s.rels := rfl
@[simp] theorem State.setHome_det (s : State) (h : Nat) (x : HomeSt) : (s.setHome h x).det = s.det := rfl
@[simp] theorem State.setHome_bridge (s : State) (h : Nat) (x : HomeSt) : (s.setHome h x).bridge = s.bridge := rfl
@[simp] theorem State.setHome_lents (s : State) (h : Nat) (x : HomeSt) : (s.setHome h x).lents = s.lents := rfl
@[simp] theorem State.setHome_events (s : State) (h : Nat) (x : HomeSt) : (s.setHome h x).events = s.events := rfl
@[simp] theorem State.setHome_evRes (s : State) (h : Nat) (x : HomeSt) : (s.setHome h x).evRes = s.evRes := rfl
@[simp] theorem State.setHome_tides (s : State) (h : Nat) (x : HomeSt) : (s.setHome h x).tides = s.tides := rfl
@[simp] theorem State.setHome_tenants (s : State) (h : Nat) (x : HomeSt) : (s.setHome h x).tenants = s.tenants := rfl
@[simp] theorem State.setHome_rrQueue (s : State) (h : Nat) (x : HomeSt) : (s.setHome h x).rrQueue = s.rrQueue := rfl
@[simp] theorem State.setHome_priv (s : State) (h : Nat) (x : HomeSt) : (s.setHome h x).priv = s.priv := rfl
@[simp] theorem State.setHome_life (s : State) (h : Nat) (x : HomeSt) : (s.setHome h x).life = s.life := rfl
@[simp] theorem State.setHome_places (s : State) (h : Nat) (x : HomeSt) : (s.setHome h x).places = s.places := rfl
@[simp] theorem State.setHome_extra (s : State) (h : Nat) (x : HomeSt) : (s.setHome h x).extra = s.extra := rfl
@[simp] theorem State.setHome_phase (s : State) (h : Nat) (x : HomeSt) : (s.setHome h x).phase = s.phase := rfl
@[simp] theorem State.setHome_nextIss (s : State) (h : Nat) (x : HomeSt) : (s.setHome h x).nextIss = s.nextIss := rfl
@[simp] theorem State.setHome_hostK (s : State) (h : Nat) (x : HomeSt) : (s.setHome h x).hostK = s.hostK := rfl
@[simp] theorem State.setHome_peerTs (s : State) (h : Nat) (x : HomeSt) : (s.setHome h x).peerTs = s.peerTs := rfl
@[simp] theorem State.setHome_acts (s : State) (h : Nat) (x : HomeSt) : (s.setHome h x).acts = s.acts := rfl
@[simp] theorem State.setHome_fences (s : State) (h : Nat) (x : HomeSt) : (s.setHome h x).fences = s.fences := rfl
@[simp] theorem State.setHome_rv (s : State) (h : Nat) (x : HomeSt) : (s.setHome h x).rv = s.rv := rfl
@[simp] theorem State.modHome_now (s : State) (h : Nat) (f : HomeSt → HomeSt) : (s.modHome h f).now = s.now := rfl
@[simp] theorem State.modHome_tape (s : State) (h : Nat) (f : HomeSt → HomeSt) : (s.modHome h f).tape = s.tape := rfl
@[simp] theorem State.modHome_lag (s : State) (h : Nat) (f : HomeSt → HomeSt) : (s.modHome h f).lag = s.lag := rfl
@[simp] theorem State.modHome_agenda (s : State) (h : Nat) (f : HomeSt → HomeSt) : (s.modHome h f).agenda = s.agenda := rfl
@[simp] theorem State.modHome_fresh (s : State) (h : Nat) (f : HomeSt → HomeSt) : (s.modHome h f).fresh = s.fresh := rfl
@[simp] theorem State.modHome_cur (s : State) (h : Nat) (f : HomeSt → HomeSt) : (s.modHome h f).cur = s.cur := rfl
@[simp] theorem State.modHome_mem (s : State) (h : Nat) (f : HomeSt → HomeSt) : (s.modHome h f).mem = s.mem := rfl
@[simp] theorem State.modHome_gangs (s : State) (h : Nat) (f : HomeSt → HomeSt) : (s.modHome h f).gangs = s.gangs := rfl
@[simp] theorem State.modHome_crews (s : State) (h : Nat) (f : HomeSt → HomeSt) : (s.modHome h f).crews = s.crews := rfl
@[simp] theorem State.modHome_cores (s : State) (h : Nat) (f : HomeSt → HomeSt) : (s.modHome h f).cores = s.cores := rfl
@[simp] theorem State.modHome_towers (s : State) (h : Nat) (f : HomeSt → HomeSt) : (s.modHome h f).towers = s.towers := rfl
@[simp] theorem State.modHome_net (s : State) (h : Nat) (f : HomeSt → HomeSt) : (s.modHome h f).net = s.net := rfl
@[simp] theorem State.modHome_tables (s : State) (h : Nat) (f : HomeSt → HomeSt) : (s.modHome h f).tables = s.tables := rfl
@[simp] theorem State.modHome_tmulti (s : State) (h : Nat) (f : HomeSt → HomeSt) : (s.modHome h f).tmulti = s.tmulti := rfl
@[simp] theorem State.modHome_rels (s : State) (h : Nat) (f : HomeSt → HomeSt) : (s.modHome h f).rels = s.rels := rfl
@[simp] theorem State.modHome_det (s : State) (h : Nat) (f : HomeSt → HomeSt) : (s.modHome h f).det = s.det := rfl
@[simp] theorem State.modHome_bridge (s : State) (h : Nat) (f : HomeSt → HomeSt) : (s.modHome h f).bridge = s.bridge := rfl
@[simp] theorem State.modHome_lents (s : State) (h : Nat) (f : HomeSt → HomeSt) : (s.modHome h f).lents = s.lents := rfl
@[simp] theorem State.modHome_events (s : State) (h : Nat) (f : HomeSt → HomeSt) : (s.modHome h f).events = s.events := rfl
@[simp] theorem State.modHome_evRes (s : State) (h : Nat) (f : HomeSt → HomeSt) : (s.modHome h f).evRes = s.evRes := rfl
@[simp] theorem State.modHome_tides (s : State) (h : Nat) (f : HomeSt → HomeSt) : (s.modHome h f).tides = s.tides := rfl
@[simp] theorem State.modHome_tenants (s : State) (h : Nat) (f : HomeSt → HomeSt) : (s.modHome h f).tenants = s.tenants := rfl
@[simp] theorem State.modHome_rrQueue (s : State) (h : Nat) (f : HomeSt → HomeSt) : (s.modHome h f).rrQueue = s.rrQueue := rfl
@[simp] theorem State.modHome_priv (s : State) (h : Nat) (f : HomeSt → HomeSt) : (s.modHome h f).priv = s.priv := rfl
@[simp] theorem State.modHome_life (s : State) (h : Nat) (f : HomeSt → HomeSt) : (s.modHome h f).life = s.life := rfl
@[simp] theorem State.modHome_places (s : State) (h : Nat) (f : HomeSt → HomeSt) : (s.modHome h f).places = s.places := rfl
@[simp] theorem State.modHome_extra (s : State) (h : Nat) (f : HomeSt → HomeSt) : (s.modHome h f).extra = s.extra := rfl
@[simp] theorem State.modHome_phase (s : State) (h : Nat) (f : HomeSt → HomeSt) : (s.modHome h f).phase = s.phase := rfl
@[simp] theorem State.modHome_nextIss (s : State) (h : Nat) (f : HomeSt → HomeSt) : (s.modHome h f).nextIss = s.nextIss := rfl
@[simp] theorem State.modHome_hostK (s : State) (h : Nat) (f : HomeSt → HomeSt) : (s.modHome h f).hostK = s.hostK := rfl
@[simp] theorem State.modHome_peerTs (s : State) (h : Nat) (f : HomeSt → HomeSt) : (s.modHome h f).peerTs = s.peerTs := rfl
@[simp] theorem State.modHome_acts (s : State) (h : Nat) (f : HomeSt → HomeSt) : (s.modHome h f).acts = s.acts := rfl
@[simp] theorem State.modHome_fences (s : State) (h : Nat) (f : HomeSt → HomeSt) : (s.modHome h f).fences = s.fences := rfl
@[simp] theorem State.modHome_rv (s : State) (h : Nat) (f : HomeSt → HomeSt) : (s.modHome h f).rv = s.rv := rfl
@[simp] theorem State.setTen_now (s : State) (t : Nat) (x : Tenant) : (s.setTen t x).now = s.now := rfl
@[simp] theorem State.setTen_tape (s : State) (t : Nat) (x : Tenant) : (s.setTen t x).tape = s.tape := rfl
@[simp] theorem State.setTen_lag (s : State) (t : Nat) (x : Tenant) : (s.setTen t x).lag = s.lag := rfl
@[simp] theorem State.setTen_agenda (s : State) (t : Nat) (x : Tenant) : (s.setTen t x).agenda = s.agenda := rfl
@[simp] theorem State.setTen_fresh (s : State) (t : Nat) (x : Tenant) : (s.setTen t x).fresh = s.fresh := rfl
@[simp] theorem State.setTen_cur (s : State) (t : Nat) (x : Tenant) : (s.setTen t x).cur = s.cur := rfl
@[simp] theorem State.setTen_mem (s : State) (t : Nat) (x : Tenant) : (s.setTen t x).mem = s.mem := rfl
@[simp] theorem State.setTen_gangs (s : State) (t : Nat) (x : Tenant) : (s.setTen t x).gangs = s.gangs := rfl
@[simp] theorem State.setTen_crews (s : State) (t : Nat) (x : Tenant) : (s.setTen t x).crews = s.crews := rfl
@[simp] theorem State.setTen_cores (s : State) (t : Nat) (x : Tenant) : (s.setTen t x).cores = s.cores := rfl
@[simp] theorem State.setTen_towers (s : State) (t : Nat) (x : Tenant) : (s.setTen t x).towers = s.towers := rfl
@[simp] theorem State.setTen_homes (s : State) (t : Nat) (x : Tenant) : (s.setTen t x).homes = s.homes := rfl
@[simp] theorem State.setTen_net (s : State) (t : Nat) (x : Tenant) : (s.setTen t x).net = s.net := rfl
@[simp] theorem State.setTen_tables (s : State) (t : Nat) (x : Tenant) : (s.setTen t x).tables = s.tables := rfl
@[simp] theorem State.setTen_tmulti (s : State) (t : Nat) (x : Tenant) : (s.setTen t x).tmulti = s.tmulti := rfl
@[simp] theorem State.setTen_rels (s : State) (t : Nat) (x : Tenant) : (s.setTen t x).rels = s.rels := rfl
@[simp] theorem State.setTen_det (s : State) (t : Nat) (x : Tenant) : (s.setTen t x).det = s.det := rfl
@[simp] theorem State.setTen_bridge (s : State) (t : Nat) (x : Tenant) : (s.setTen t x).bridge = s.bridge := rfl
@[simp] theorem State.setTen_lents (s : State) (t : Nat) (x : Tenant) : (s.setTen t x).lents = s.lents := rfl
@[simp] theorem State.setTen_events (s : State) (t : Nat) (x : Tenant) : (s.setTen t x).events = s.events := rfl
@[simp] theorem State.setTen_evRes (s : State) (t : Nat) (x : Tenant) : (s.setTen t x).evRes = s.evRes := rfl
@[simp] theorem State.setTen_tides (s : State) (t : Nat) (x : Tenant) : (s.setTen t x).tides = s.tides := rfl
@[simp] theorem State.setTen_rrQueue (s : State) (t : Nat) (x : Tenant) : (s.setTen t x).rrQueue = s.rrQueue := rfl
@[simp] theorem State.setTen_priv (s : State) (t : Nat) (x : Tenant) : (s.setTen t x).priv = s.priv := rfl
@[simp] theorem State.setTen_life (s : State) (t : Nat) (x : Tenant) : (s.setTen t x).life = s.life := rfl
@[simp] theorem State.setTen_places (s : State) (t : Nat) (x : Tenant) : (s.setTen t x).places = s.places := rfl
@[simp] theorem State.setTen_extra (s : State) (t : Nat) (x : Tenant) : (s.setTen t x).extra = s.extra := rfl
@[simp] theorem State.setTen_phase (s : State) (t : Nat) (x : Tenant) : (s.setTen t x).phase = s.phase := rfl
@[simp] theorem State.setTen_nextIss (s : State) (t : Nat) (x : Tenant) : (s.setTen t x).nextIss = s.nextIss := rfl
@[simp] theorem State.setTen_hostK (s : State) (t : Nat) (x : Tenant) : (s.setTen t x).hostK = s.hostK := rfl
@[simp] theorem State.setTen_peerTs (s : State) (t : Nat) (x : Tenant) : (s.setTen t x).peerTs = s.peerTs := rfl
@[simp] theorem State.setTen_acts (s : State) (t : Nat) (x : Tenant) : (s.setTen t x).acts = s.acts := rfl
@[simp] theorem State.setTen_fences (s : State) (t : Nat) (x : Tenant) : (s.setTen t x).fences = s.fences := rfl
@[simp] theorem State.setTen_rv (s : State) (t : Nat) (x : Tenant) : (s.setTen t x).rv = s.rv := rfl
@[simp] theorem State.modTen_now (s : State) (t : Nat) (f : Tenant → Tenant) : (s.modTen t f).now = s.now := rfl
@[simp] theorem State.modTen_tape (s : State) (t : Nat) (f : Tenant → Tenant) : (s.modTen t f).tape = s.tape := rfl
@[simp] theorem State.modTen_lag (s : State) (t : Nat) (f : Tenant → Tenant) : (s.modTen t f).lag = s.lag := rfl
@[simp] theorem State.modTen_agenda (s : State) (t : Nat) (f : Tenant → Tenant) : (s.modTen t f).agenda = s.agenda := rfl
@[simp] theorem State.modTen_fresh (s : State) (t : Nat) (f : Tenant → Tenant) : (s.modTen t f).fresh = s.fresh := rfl
@[simp] theorem State.modTen_cur (s : State) (t : Nat) (f : Tenant → Tenant) : (s.modTen t f).cur = s.cur := rfl
@[simp] theorem State.modTen_mem (s : State) (t : Nat) (f : Tenant → Tenant) : (s.modTen t f).mem = s.mem := rfl
@[simp] theorem State.modTen_gangs (s : State) (t : Nat) (f : Tenant → Tenant) : (s.modTen t f).gangs = s.gangs := rfl
@[simp] theorem State.modTen_crews (s : State) (t : Nat) (f : Tenant → Tenant) : (s.modTen t f).crews = s.crews := rfl
@[simp] theorem State.modTen_cores (s : State) (t : Nat) (f : Tenant → Tenant) : (s.modTen t f).cores = s.cores := rfl
@[simp] theorem State.modTen_towers (s : State) (t : Nat) (f : Tenant → Tenant) : (s.modTen t f).towers = s.towers := rfl
@[simp] theorem State.modTen_homes (s : State) (t : Nat) (f : Tenant → Tenant) : (s.modTen t f).homes = s.homes := rfl
@[simp] theorem State.modTen_net (s : State) (t : Nat) (f : Tenant → Tenant) : (s.modTen t f).net = s.net := rfl
@[simp] theorem State.modTen_tables (s : State) (t : Nat) (f : Tenant → Tenant) : (s.modTen t f).tables = s.tables := rfl
@[simp] theorem State.modTen_tmulti (s : State) (t : Nat) (f : Tenant → Tenant) : (s.modTen t f).tmulti = s.tmulti := rfl
@[simp] theorem State.modTen_rels (s : State) (t : Nat) (f : Tenant → Tenant) : (s.modTen t f).rels = s.rels := rfl
@[simp] theorem State.modTen_det (s : State) (t : Nat) (f : Tenant → Tenant) : (s.modTen t f).det = s.det := rfl
@[simp] theorem State.modTen_bridge (s : State) (t : Nat) (f : Tenant → Tenant) : (s.modTen t f).bridge = s.bridge := rfl
@[simp] theorem State.modTen_lents (s : State) (t : Nat) (f : Tenant → Tenant) : (s.modTen t f).lents = s.lents := rfl
@[simp] theorem State.modTen_events (s : State) (t : Nat) (f : Tenant → Tenant) : (s.modTen t f).events = s.events := rfl
@[simp] theorem State.modTen_evRes (s : State) (t : Nat) (f : Tenant → Tenant) : (s.modTen t f).evRes = s.evRes := rfl
@[simp] theorem State.modTen_tides (s : State) (t : Nat) (f : Tenant → Tenant) : (s.modTen t f).tides = s.tides := rfl
@[simp] theorem State.modTen_rrQueue (s : State) (t : Nat) (f : Tenant → Tenant) : (s.modTen t f).rrQueue = s.rrQueue := rfl
@[simp] theorem State.modTen_priv (s : State) (t : Nat) (f : Tenant → Tenant) : (s.modTen t f).priv = s.priv := rfl
@[simp] theorem State.modTen_life (s : State) (t : Nat) (f : Tenant → Tenant) : (s.modTen t f).life = s.life := rfl
@[simp] theorem State.modTen_places (s : State) (t : Nat) (f : Tenant → Tenant) : (s.modTen t f).places = s.places := rfl
@[simp] theorem State.modTen_extra (s : State) (t : Nat) (f : Tenant → Tenant) : (s.modTen t f).extra = s.extra := rfl
@[simp] theorem State.modTen_phase (s : State) (t : Nat) (f : Tenant → Tenant) : (s.modTen t f).phase = s.phase := rfl
@[simp] theorem State.modTen_nextIss (s : State) (t : Nat) (f : Tenant → Tenant) : (s.modTen t f).nextIss = s.nextIss := rfl
@[simp] theorem State.modTen_hostK (s : State) (t : Nat) (f : Tenant → Tenant) : (s.modTen t f).hostK = s.hostK := rfl
@[simp] theorem State.modTen_peerTs (s : State) (t : Nat) (f : Tenant → Tenant) : (s.modTen t f).peerTs = s.peerTs := rfl
@[simp] theorem State.modTen_acts (s : State) (t : Nat) (f : Tenant → Tenant) : (s.modTen t f).acts = s.acts := rfl
@[simp] theorem State.modTen_fences (s : State) (t : Nat) (f : Tenant → Tenant) : (s.modTen t f).fences = s.fences := rfl
@[simp] theorem State.modTen_rv (s : State) (t : Nat) (f : Tenant → Tenant) : (s.modTen t f).rv = s.rv := rfl
@[simp] theorem State.setLaunch_now (s : State) (l : Nat) (x : Launch) : (s.setLaunch l x).now = s.now := rfl
@[simp] theorem State.setLaunch_tape (s : State) (l : Nat) (x : Launch) : (s.setLaunch l x).tape = s.tape := rfl
@[simp] theorem State.setLaunch_lag (s : State) (l : Nat) (x : Launch) : (s.setLaunch l x).lag = s.lag := rfl
@[simp] theorem State.setLaunch_agenda (s : State) (l : Nat) (x : Launch) : (s.setLaunch l x).agenda = s.agenda := rfl
@[simp] theorem State.setLaunch_fresh (s : State) (l : Nat) (x : Launch) : (s.setLaunch l x).fresh = s.fresh := rfl
@[simp] theorem State.setLaunch_cur (s : State) (l : Nat) (x : Launch) : (s.setLaunch l x).cur = s.cur := rfl
@[simp] theorem State.setLaunch_mem (s : State) (l : Nat) (x : Launch) : (s.setLaunch l x).mem = s.mem := rfl
@[simp] theorem State.setLaunch_gangs (s : State) (l : Nat) (x : Launch) : (s.setLaunch l x).gangs = s.gangs := rfl
@[simp] theorem State.setLaunch_crews (s : State) (l : Nat) (x : Launch) : (s.setLaunch l x).crews = s.crews := rfl
@[simp] theorem State.setLaunch_cores (s : State) (l : Nat) (x : Launch) : (s.setLaunch l x).cores = s.cores := rfl
@[simp] theorem State.setLaunch_towers (s : State) (l : Nat) (x : Launch) : (s.setLaunch l x).towers = s.towers := rfl
@[simp] theorem State.setLaunch_homes (s : State) (l : Nat) (x : Launch) : (s.setLaunch l x).homes = s.homes := rfl
@[simp] theorem State.setLaunch_net (s : State) (l : Nat) (x : Launch) : (s.setLaunch l x).net = s.net := rfl
@[simp] theorem State.setLaunch_tables (s : State) (l : Nat) (x : Launch) : (s.setLaunch l x).tables = s.tables := rfl
@[simp] theorem State.setLaunch_tmulti (s : State) (l : Nat) (x : Launch) : (s.setLaunch l x).tmulti = s.tmulti := rfl
@[simp] theorem State.setLaunch_rels (s : State) (l : Nat) (x : Launch) : (s.setLaunch l x).rels = s.rels := rfl
@[simp] theorem State.setLaunch_det (s : State) (l : Nat) (x : Launch) : (s.setLaunch l x).det = s.det := rfl
@[simp] theorem State.setLaunch_bridge (s : State) (l : Nat) (x : Launch) : (s.setLaunch l x).bridge = s.bridge := rfl
@[simp] theorem State.setLaunch_events (s : State) (l : Nat) (x : Launch) : (s.setLaunch l x).events = s.events := rfl
@[simp] theorem State.setLaunch_evRes (s : State) (l : Nat) (x : Launch) : (s.setLaunch l x).evRes = s.evRes := rfl
@[simp] theorem State.setLaunch_tides (s : State) (l : Nat) (x : Launch) : (s.setLaunch l x).tides = s.tides := rfl
@[simp] theorem State.setLaunch_tenants (s : State) (l : Nat) (x : Launch) : (s.setLaunch l x).tenants = s.tenants := rfl
@[simp] theorem State.setLaunch_rrQueue (s : State) (l : Nat) (x : Launch) : (s.setLaunch l x).rrQueue = s.rrQueue := rfl
@[simp] theorem State.setLaunch_priv (s : State) (l : Nat) (x : Launch) : (s.setLaunch l x).priv = s.priv := rfl
@[simp] theorem State.setLaunch_life (s : State) (l : Nat) (x : Launch) : (s.setLaunch l x).life = s.life := rfl
@[simp] theorem State.setLaunch_places (s : State) (l : Nat) (x : Launch) : (s.setLaunch l x).places = s.places := rfl
@[simp] theorem State.setLaunch_extra (s : State) (l : Nat) (x : Launch) : (s.setLaunch l x).extra = s.extra := rfl
@[simp] theorem State.setLaunch_phase (s : State) (l : Nat) (x : Launch) : (s.setLaunch l x).phase = s.phase := rfl
@[simp] theorem State.setLaunch_nextIss (s : State) (l : Nat) (x : Launch) : (s.setLaunch l x).nextIss = s.nextIss := rfl
@[simp] theorem State.setLaunch_hostK (s : State) (l : Nat) (x : Launch) : (s.setLaunch l x).hostK = s.hostK := rfl
@[simp] theorem State.setLaunch_peerTs (s : State) (l : Nat) (x : Launch) : (s.setLaunch l x).peerTs = s.peerTs := rfl
@[simp] theorem State.setLaunch_acts (s : State) (l : Nat) (x : Launch) : (s.setLaunch l x).acts = s.acts := rfl
@[simp] theorem State.setLaunch_fences (s : State) (l : Nat) (x : Launch) : (s.setLaunch l x).fences = s.fences := rfl
@[simp] theorem State.setLaunch_rv (s : State) (l : Nat) (x : Launch) : (s.setLaunch l x).rv = s.rv := rfl
@[simp] theorem State.modLaunch_now (s : State) (l : Nat) (f : Launch → Launch) : (s.modLaunch l f).now = s.now := rfl
@[simp] theorem State.modLaunch_tape (s : State) (l : Nat) (f : Launch → Launch) : (s.modLaunch l f).tape = s.tape := rfl
@[simp] theorem State.modLaunch_lag (s : State) (l : Nat) (f : Launch → Launch) : (s.modLaunch l f).lag = s.lag := rfl
@[simp] theorem State.modLaunch_agenda (s : State) (l : Nat) (f : Launch → Launch) : (s.modLaunch l f).agenda = s.agenda := rfl
@[simp] theorem State.modLaunch_fresh (s : State) (l : Nat) (f : Launch → Launch) : (s.modLaunch l f).fresh = s.fresh := rfl
@[simp] theorem State.modLaunch_cur (s : State) (l : Nat) (f : Launch → Launch) : (s.modLaunch l f).cur = s.cur := rfl
@[simp] theorem State.modLaunch_mem (s : State) (l : Nat) (f : Launch → Launch) : (s.modLaunch l f).mem = s.mem := rfl
@[simp] theorem State.modLaunch_gangs (s : State) (l : Nat) (f : Launch → Launch) : (s.modLaunch l f).gangs = s.gangs := rfl
@[simp] theorem State.modLaunch_crews (s : State) (l : Nat) (f : Launch → Launch) : (s.modLaunch l f).crews = s.crews := rfl
@[simp] theorem State.modLaunch_cores (s : State) (l : Nat) (f : Launch → Launch) : (s.modLaunch l f).cores = s.cores := rfl
@[simp] theorem State.modLaunch_towers (s : State) (l : Nat) (f : Launch → Launch) : (s.modLaunch l f).towers = s.towers := rfl
@[simp] theorem State.modLaunch_homes (s : State) (l : Nat) (f : Launch → Launch) : (s.modLaunch l f).homes = s.homes := rfl
@[simp] theorem State.modLaunch_net (s : State) (l : Nat) (f : Launch → Launch) : (s.modLaunch l f).net = s.net := rfl
@[simp] theorem State.modLaunch_tables (s : State) (l : Nat) (f : Launch → Launch) : (s.modLaunch l f).tables = s.tables := rfl
@[simp] theorem State.modLaunch_tmulti (s : State) (l : Nat) (f : Launch → Launch) : (s.modLaunch l f).tmulti = s.tmulti := rfl
@[simp] theorem State.modLaunch_rels (s : State) (l : Nat) (f : Launch → Launch) : (s.modLaunch l f).rels = s.rels := rfl
@[simp] theorem State.modLaunch_det (s : State) (l : Nat) (f : Launch → Launch) : (s.modLaunch l f).det = s.det := rfl
@[simp] theorem State.modLaunch_bridge (s : State) (l : Nat) (f : Launch → Launch) : (s.modLaunch l f).bridge = s.bridge := rfl
@[simp] theorem State.modLaunch_events (s : State) (l : Nat) (f : Launch → Launch) : (s.modLaunch l f).events = s.events := rfl
@[simp] theorem State.modLaunch_evRes (s : State) (l : Nat) (f : Launch → Launch) : (s.modLaunch l f).evRes = s.evRes := rfl
@[simp] theorem State.modLaunch_tides (s : State) (l : Nat) (f : Launch → Launch) : (s.modLaunch l f).tides = s.tides := rfl
@[simp] theorem State.modLaunch_tenants (s : State) (l : Nat) (f : Launch → Launch) : (s.modLaunch l f).tenants = s.tenants := rfl
@[simp] theorem State.modLaunch_rrQueue (s : State) (l : Nat) (f : Launch → Launch) : (s.modLaunch l f).rrQueue = s.rrQueue := rfl
@[simp] theorem State.modLaunch_priv (s : State) (l : Nat) (f : Launch → Launch) : (s.modLaunch l f).priv = s.priv := rfl
@[simp] theorem State.modLaunch_life (s : State) (l : Nat) (f : Launch → Launch) : (s.modLaunch l f).life = s.life := rfl
@[simp] theorem State.modLaunch_places (s : State) (l : Nat) (f : Launch → Launch) : (s.modLaunch l f).places = s.places := rfl
@[simp] theorem State.modLaunch_extra (s : State) (l : Nat) (f : Launch → Launch) : (s.modLaunch l f).extra = s.extra := rfl
@[simp] theorem State.modLaunch_phase (s : State) (l : Nat) (f : Launch → Launch) : (s.modLaunch l f).phase = s.phase := rfl
@[simp] theorem State.modLaunch_nextIss (s : State) (l : Nat) (f : Launch → Launch) : (s.modLaunch l f).nextIss = s.nextIss := rfl
@[simp] theorem State.modLaunch_hostK (s : State) (l : Nat) (f : Launch → Launch) : (s.modLaunch l f).hostK = s.hostK := rfl
@[simp] theorem State.modLaunch_peerTs (s : State) (l : Nat) (f : Launch → Launch) : (s.modLaunch l f).peerTs = s.peerTs := rfl
@[simp] theorem State.modLaunch_acts (s : State) (l : Nat) (f : Launch → Launch) : (s.modLaunch l f).acts = s.acts := rfl
@[simp] theorem State.modLaunch_fences (s : State) (l : Nat) (f : Launch → Launch) : (s.modLaunch l f).fences = s.fences := rfl
@[simp] theorem State.modLaunch_rv (s : State) (l : Nat) (f : Launch → Launch) : (s.modLaunch l f).rv = s.rv := rfl
@[simp] theorem State.modQueue_now (s : State) (t q : Nat) (f : Queue → Queue) : (s.modQueue t q f).now = s.now := rfl
@[simp] theorem State.modQueue_tape (s : State) (t q : Nat) (f : Queue → Queue) : (s.modQueue t q f).tape = s.tape := rfl
@[simp] theorem State.modQueue_lag (s : State) (t q : Nat) (f : Queue → Queue) : (s.modQueue t q f).lag = s.lag := rfl
@[simp] theorem State.modQueue_agenda (s : State) (t q : Nat) (f : Queue → Queue) : (s.modQueue t q f).agenda = s.agenda := rfl
@[simp] theorem State.modQueue_fresh (s : State) (t q : Nat) (f : Queue → Queue) : (s.modQueue t q f).fresh = s.fresh := rfl
@[simp] theorem State.modQueue_cur (s : State) (t q : Nat) (f : Queue → Queue) : (s.modQueue t q f).cur = s.cur := rfl
@[simp] theorem State.modQueue_mem (s : State) (t q : Nat) (f : Queue → Queue) : (s.modQueue t q f).mem = s.mem := rfl
@[simp] theorem State.modQueue_gangs (s : State) (t q : Nat) (f : Queue → Queue) : (s.modQueue t q f).gangs = s.gangs := rfl
@[simp] theorem State.modQueue_crews (s : State) (t q : Nat) (f : Queue → Queue) : (s.modQueue t q f).crews = s.crews := rfl
@[simp] theorem State.modQueue_cores (s : State) (t q : Nat) (f : Queue → Queue) : (s.modQueue t q f).cores = s.cores := rfl
@[simp] theorem State.modQueue_towers (s : State) (t q : Nat) (f : Queue → Queue) : (s.modQueue t q f).towers = s.towers := rfl
@[simp] theorem State.modQueue_homes (s : State) (t q : Nat) (f : Queue → Queue) : (s.modQueue t q f).homes = s.homes := rfl
@[simp] theorem State.modQueue_net (s : State) (t q : Nat) (f : Queue → Queue) : (s.modQueue t q f).net = s.net := rfl
@[simp] theorem State.modQueue_tables (s : State) (t q : Nat) (f : Queue → Queue) : (s.modQueue t q f).tables = s.tables := rfl
@[simp] theorem State.modQueue_tmulti (s : State) (t q : Nat) (f : Queue → Queue) : (s.modQueue t q f).tmulti = s.tmulti := rfl
@[simp] theorem State.modQueue_rels (s : State) (t q : Nat) (f : Queue → Queue) : (s.modQueue t q f).rels = s.rels := rfl
@[simp] theorem State.modQueue_det (s : State) (t q : Nat) (f : Queue → Queue) : (s.modQueue t q f).det = s.det := rfl
@[simp] theorem State.modQueue_bridge (s : State) (t q : Nat) (f : Queue → Queue) : (s.modQueue t q f).bridge = s.bridge := rfl
@[simp] theorem State.modQueue_lents (s : State) (t q : Nat) (f : Queue → Queue) : (s.modQueue t q f).lents = s.lents := rfl
@[simp] theorem State.modQueue_events (s : State) (t q : Nat) (f : Queue → Queue) : (s.modQueue t q f).events = s.events := rfl
@[simp] theorem State.modQueue_evRes (s : State) (t q : Nat) (f : Queue → Queue) : (s.modQueue t q f).evRes = s.evRes := rfl
@[simp] theorem State.modQueue_tides (s : State) (t q : Nat) (f : Queue → Queue) : (s.modQueue t q f).tides = s.tides := rfl
@[simp] theorem State.modQueue_rrQueue (s : State) (t q : Nat) (f : Queue → Queue) : (s.modQueue t q f).rrQueue = s.rrQueue := rfl
@[simp] theorem State.modQueue_priv (s : State) (t q : Nat) (f : Queue → Queue) : (s.modQueue t q f).priv = s.priv := rfl
@[simp] theorem State.modQueue_life (s : State) (t q : Nat) (f : Queue → Queue) : (s.modQueue t q f).life = s.life := rfl
@[simp] theorem State.modQueue_places (s : State) (t q : Nat) (f : Queue → Queue) : (s.modQueue t q f).places = s.places := rfl
@[simp] theorem State.modQueue_extra (s : State) (t q : Nat) (f : Queue → Queue) : (s.modQueue t q f).extra = s.extra := rfl
@[simp] theorem State.modQueue_phase (s : State) (t q : Nat) (f : Queue → Queue) : (s.modQueue t q f).phase = s.phase := rfl
@[simp] theorem State.modQueue_nextIss (s : State) (t q : Nat) (f : Queue → Queue) : (s.modQueue t q f).nextIss = s.nextIss := rfl
@[simp] theorem State.modQueue_hostK (s : State) (t q : Nat) (f : Queue → Queue) : (s.modQueue t q f).hostK = s.hostK := rfl
@[simp] theorem State.modQueue_peerTs (s : State) (t q : Nat) (f : Queue → Queue) : (s.modQueue t q f).peerTs = s.peerTs := rfl
@[simp] theorem State.modQueue_acts (s : State) (t q : Nat) (f : Queue → Queue) : (s.modQueue t q f).acts = s.acts := rfl
@[simp] theorem State.modQueue_fences (s : State) (t q : Nat) (f : Queue → Queue) : (s.modQueue t q f).fences = s.fences := rfl
@[simp] theorem State.modQueue_rv (s : State) (t q : Nat) (f : Queue → Queue) : (s.modQueue t q f).rv = s.rv := rfl
@[simp] theorem State.setTide_now (s : State) (n : Nat) (x : Tide) : (s.setTide n x).now = s.now := rfl
@[simp] theorem State.setTide_tape (s : State) (n : Nat) (x : Tide) : (s.setTide n x).tape = s.tape := rfl
@[simp] theorem State.setTide_lag (s : State) (n : Nat) (x : Tide) : (s.setTide n x).lag = s.lag := rfl
@[simp] theorem State.setTide_agenda (s : State) (n : Nat) (x : Tide) : (s.setTide n x).agenda = s.agenda := rfl
@[simp] theorem State.setTide_fresh (s : State) (n : Nat) (x : Tide) : (s.setTide n x).fresh = s.fresh := rfl
@[simp] theorem State.setTide_cur (s : State) (n : Nat) (x : Tide) : (s.setTide n x).cur = s.cur := rfl
@[simp] theorem State.setTide_mem (s : State) (n : Nat) (x : Tide) : (s.setTide n x).mem = s.mem := rfl
@[simp] theorem State.setTide_gangs (s : State) (n : Nat) (x : Tide) : (s.setTide n x).gangs = s.gangs := rfl
@[simp] theorem State.setTide_crews (s : State) (n : Nat) (x : Tide) : (s.setTide n x).crews = s.crews := rfl
@[simp] theorem State.setTide_cores (s : State) (n : Nat) (x : Tide) : (s.setTide n x).cores = s.cores := rfl
@[simp] theorem State.setTide_towers (s : State) (n : Nat) (x : Tide) : (s.setTide n x).towers = s.towers := rfl
@[simp] theorem State.setTide_homes (s : State) (n : Nat) (x : Tide) : (s.setTide n x).homes = s.homes := rfl
@[simp] theorem State.setTide_net (s : State) (n : Nat) (x : Tide) : (s.setTide n x).net = s.net := rfl
@[simp] theorem State.setTide_tables (s : State) (n : Nat) (x : Tide) : (s.setTide n x).tables = s.tables := rfl
@[simp] theorem State.setTide_tmulti (s : State) (n : Nat) (x : Tide) : (s.setTide n x).tmulti = s.tmulti := rfl
@[simp] theorem State.setTide_rels (s : State) (n : Nat) (x : Tide) : (s.setTide n x).rels = s.rels := rfl
@[simp] theorem State.setTide_det (s : State) (n : Nat) (x : Tide) : (s.setTide n x).det = s.det := rfl
@[simp] theorem State.setTide_bridge (s : State) (n : Nat) (x : Tide) : (s.setTide n x).bridge = s.bridge := rfl
@[simp] theorem State.setTide_lents (s : State) (n : Nat) (x : Tide) : (s.setTide n x).lents = s.lents := rfl
@[simp] theorem State.setTide_events (s : State) (n : Nat) (x : Tide) : (s.setTide n x).events = s.events := rfl
@[simp] theorem State.setTide_evRes (s : State) (n : Nat) (x : Tide) : (s.setTide n x).evRes = s.evRes := rfl
@[simp] theorem State.setTide_tenants (s : State) (n : Nat) (x : Tide) : (s.setTide n x).tenants = s.tenants := rfl
@[simp] theorem State.setTide_rrQueue (s : State) (n : Nat) (x : Tide) : (s.setTide n x).rrQueue = s.rrQueue := rfl
@[simp] theorem State.setTide_priv (s : State) (n : Nat) (x : Tide) : (s.setTide n x).priv = s.priv := rfl
@[simp] theorem State.setTide_life (s : State) (n : Nat) (x : Tide) : (s.setTide n x).life = s.life := rfl
@[simp] theorem State.setTide_places (s : State) (n : Nat) (x : Tide) : (s.setTide n x).places = s.places := rfl
@[simp] theorem State.setTide_extra (s : State) (n : Nat) (x : Tide) : (s.setTide n x).extra = s.extra := rfl
@[simp] theorem State.setTide_phase (s : State) (n : Nat) (x : Tide) : (s.setTide n x).phase = s.phase := rfl
@[simp] theorem State.setTide_nextIss (s : State) (n : Nat) (x : Tide) : (s.setTide n x).nextIss = s.nextIss := rfl
@[simp] theorem State.setTide_hostK (s : State) (n : Nat) (x : Tide) : (s.setTide n x).hostK = s.hostK := rfl
@[simp] theorem State.setTide_peerTs (s : State) (n : Nat) (x : Tide) : (s.setTide n x).peerTs = s.peerTs := rfl
@[simp] theorem State.setTide_acts (s : State) (n : Nat) (x : Tide) : (s.setTide n x).acts = s.acts := rfl
@[simp] theorem State.setTide_fences (s : State) (n : Nat) (x : Tide) : (s.setTide n x).fences = s.fences := rfl
@[simp] theorem State.setTide_rv (s : State) (n : Nat) (x : Tide) : (s.setTide n x).rv = s.rv := rfl
@[simp] theorem State.setEv_now (s : State) (k : Nat) (x : Ev) : (s.setEv k x).now = s.now := rfl
@[simp] theorem State.setEv_tape (s : State) (k : Nat) (x : Ev) : (s.setEv k x).tape = s.tape := rfl
@[simp] theorem State.setEv_lag (s : State) (k : Nat) (x : Ev) : (s.setEv k x).lag = s.lag := rfl
@[simp] theorem State.setEv_agenda (s : State) (k : Nat) (x : Ev) : (s.setEv k x).agenda = s.agenda := rfl
@[simp] theorem State.setEv_fresh (s : State) (k : Nat) (x : Ev) : (s.setEv k x).fresh = s.fresh := rfl
@[simp] theorem State.setEv_cur (s : State) (k : Nat) (x : Ev) : (s.setEv k x).cur = s.cur := rfl
@[simp] theorem State.setEv_mem (s : State) (k : Nat) (x : Ev) : (s.setEv k x).mem = s.mem := rfl
@[simp] theorem State.setEv_gangs (s : State) (k : Nat) (x : Ev) : (s.setEv k x).gangs = s.gangs := rfl
@[simp] theorem State.setEv_crews (s : State) (k : Nat) (x : Ev) : (s.setEv k x).crews = s.crews := rfl
@[simp] theorem State.setEv_cores (s : State) (k : Nat) (x : Ev) : (s.setEv k x).cores = s.cores := rfl
@[simp] theorem State.setEv_towers (s : State) (k : Nat) (x : Ev) : (s.setEv k x).towers = s.towers := rfl
@[simp] theorem State.setEv_homes (s : State) (k : Nat) (x : Ev) : (s.setEv k x).homes = s.homes := rfl
@[simp] theorem State.setEv_net (s : State) (k : Nat) (x : Ev) : (s.setEv k x).net = s.net := rfl
@[simp] theorem State.setEv_tables (s : State) (k : Nat) (x : Ev) : (s.setEv k x).tables = s.tables := rfl
@[simp] theorem State.setEv_tmulti (s : State) (k : Nat) (x : Ev) : (s.setEv k x).tmulti = s.tmulti := rfl
@[simp] theorem State.setEv_rels (s : State) (k : Nat) (x : Ev) : (s.setEv k x).rels = s.rels := rfl
@[simp] theorem State.setEv_det (s : State) (k : Nat) (x : Ev) : (s.setEv k x).det = s.det := rfl
@[simp] theorem State.setEv_bridge (s : State) (k : Nat) (x : Ev) : (s.setEv k x).bridge = s.bridge := rfl
@[simp] theorem State.setEv_lents (s : State) (k : Nat) (x : Ev) : (s.setEv k x).lents = s.lents := rfl
@[simp] theorem State.setEv_evRes (s : State) (k : Nat) (x : Ev) : (s.setEv k x).evRes = s.evRes := rfl
@[simp] theorem State.setEv_tides (s : State) (k : Nat) (x : Ev) : (s.setEv k x).tides = s.tides := rfl
@[simp] theorem State.setEv_tenants (s : State) (k : Nat) (x : Ev) : (s.setEv k x).tenants = s.tenants := rfl
@[simp] theorem State.setEv_rrQueue (s : State) (k : Nat) (x : Ev) : (s.setEv k x).rrQueue = s.rrQueue := rfl
@[simp] theorem State.setEv_priv (s : State) (k : Nat) (x : Ev) : (s.setEv k x).priv = s.priv := rfl
@[simp] theorem State.setEv_life (s : State) (k : Nat) (x : Ev) : (s.setEv k x).life = s.life := rfl
@[simp] theorem State.setEv_places (s : State) (k : Nat) (x : Ev) : (s.setEv k x).places = s.places := rfl
@[simp] theorem State.setEv_extra (s : State) (k : Nat) (x : Ev) : (s.setEv k x).extra = s.extra := rfl
@[simp] theorem State.setEv_phase (s : State) (k : Nat) (x : Ev) : (s.setEv k x).phase = s.phase := rfl
@[simp] theorem State.setEv_nextIss (s : State) (k : Nat) (x : Ev) : (s.setEv k x).nextIss = s.nextIss := rfl
@[simp] theorem State.setEv_hostK (s : State) (k : Nat) (x : Ev) : (s.setEv k x).hostK = s.hostK := rfl
@[simp] theorem State.setEv_peerTs (s : State) (k : Nat) (x : Ev) : (s.setEv k x).peerTs = s.peerTs := rfl
@[simp] theorem State.setEv_acts (s : State) (k : Nat) (x : Ev) : (s.setEv k x).acts = s.acts := rfl
@[simp] theorem State.setEv_fences (s : State) (k : Nat) (x : Ev) : (s.setEv k x).fences = s.fences := rfl
@[simp] theorem State.setEv_rv (s : State) (k : Nat) (x : Ev) : (s.setEv k x).rv = s.rv := rfl
@[simp] theorem State.at_now (s : State) (due : Nat) (i : Instr) : (s.at due i).now = s.now := rfl
@[simp] theorem State.at_tape (s : State) (due : Nat) (i : Instr) : (s.at due i).tape = s.tape := rfl
@[simp] theorem State.at_lag (s : State) (due : Nat) (i : Instr) : (s.at due i).lag = s.lag := rfl
@[simp] theorem State.at_fresh (s : State) (due : Nat) (i : Instr) : (s.at due i).fresh = s.fresh := rfl
@[simp] theorem State.at_cur (s : State) (due : Nat) (i : Instr) : (s.at due i).cur = s.cur := rfl
@[simp] theorem State.at_mem (s : State) (due : Nat) (i : Instr) : (s.at due i).mem = s.mem := rfl
@[simp] theorem State.at_gangs (s : State) (due : Nat) (i : Instr) : (s.at due i).gangs = s.gangs := rfl
@[simp] theorem State.at_crews (s : State) (due : Nat) (i : Instr) : (s.at due i).crews = s.crews := rfl
@[simp] theorem State.at_cores (s : State) (due : Nat) (i : Instr) : (s.at due i).cores = s.cores := rfl
@[simp] theorem State.at_towers (s : State) (due : Nat) (i : Instr) : (s.at due i).towers = s.towers := rfl
@[simp] theorem State.at_homes (s : State) (due : Nat) (i : Instr) : (s.at due i).homes = s.homes := rfl
@[simp] theorem State.at_net (s : State) (due : Nat) (i : Instr) : (s.at due i).net = s.net := rfl
@[simp] theorem State.at_tables (s : State) (due : Nat) (i : Instr) : (s.at due i).tables = s.tables := rfl
@[simp] theorem State.at_tmulti (s : State) (due : Nat) (i : Instr) : (s.at due i).tmulti = s.tmulti := rfl
@[simp] theorem State.at_rels (s : State) (due : Nat) (i : Instr) : (s.at due i).rels = s.rels := rfl
@[simp] theorem State.at_det (s : State) (due : Nat) (i : Instr) : (s.at due i).det = s.det := rfl
@[simp] theorem State.at_bridge (s : State) (due : Nat) (i : Instr) : (s.at due i).bridge = s.bridge := rfl
@[simp] theorem State.at_lents (s : State) (due : Nat) (i : Instr) : (s.at due i).lents = s.lents := rfl
@[simp] theorem State.at_events (s : State) (due : Nat) (i : Instr) : (s.at due i).events = s.events := rfl
@[simp] theorem State.at_evRes (s : State) (due : Nat) (i : Instr) : (s.at due i).evRes = s.evRes := rfl
@[simp] theorem State.at_tides (s : State) (due : Nat) (i : Instr) : (s.at due i).tides = s.tides := rfl
@[simp] theorem State.at_tenants (s : State) (due : Nat) (i : Instr) : (s.at due i).tenants = s.tenants := rfl
@[simp] theorem State.at_rrQueue (s : State) (due : Nat) (i : Instr) : (s.at due i).rrQueue = s.rrQueue := rfl
@[simp] theorem State.at_priv (s : State) (due : Nat) (i : Instr) : (s.at due i).priv = s.priv := rfl
@[simp] theorem State.at_life (s : State) (due : Nat) (i : Instr) : (s.at due i).life = s.life := rfl
@[simp] theorem State.at_places (s : State) (due : Nat) (i : Instr) : (s.at due i).places = s.places := rfl
@[simp] theorem State.at_extra (s : State) (due : Nat) (i : Instr) : (s.at due i).extra = s.extra := rfl
@[simp] theorem State.at_phase (s : State) (due : Nat) (i : Instr) : (s.at due i).phase = s.phase := rfl
@[simp] theorem State.at_nextIss (s : State) (due : Nat) (i : Instr) : (s.at due i).nextIss = s.nextIss := rfl
@[simp] theorem State.at_hostK (s : State) (due : Nat) (i : Instr) : (s.at due i).hostK = s.hostK := rfl
@[simp] theorem State.at_peerTs (s : State) (due : Nat) (i : Instr) : (s.at due i).peerTs = s.peerTs := rfl
@[simp] theorem State.at_acts (s : State) (due : Nat) (i : Instr) : (s.at due i).acts = s.acts := rfl
@[simp] theorem State.at_fences (s : State) (due : Nat) (i : Instr) : (s.at due i).fences = s.fences := rfl
@[simp] theorem State.at_rv (s : State) (due : Nat) (i : Instr) : (s.at due i).rv = s.rv := rfl
@[simp] theorem State.setByte_now (s : State) (pa : Nat) (b : Byte) : (s.setByte pa b).now = s.now := rfl
@[simp] theorem State.setByte_tape (s : State) (pa : Nat) (b : Byte) : (s.setByte pa b).tape = s.tape := rfl
@[simp] theorem State.setByte_lag (s : State) (pa : Nat) (b : Byte) : (s.setByte pa b).lag = s.lag := rfl
@[simp] theorem State.setByte_agenda (s : State) (pa : Nat) (b : Byte) : (s.setByte pa b).agenda = s.agenda := rfl
@[simp] theorem State.setByte_fresh (s : State) (pa : Nat) (b : Byte) : (s.setByte pa b).fresh = s.fresh := rfl
@[simp] theorem State.setByte_cur (s : State) (pa : Nat) (b : Byte) : (s.setByte pa b).cur = s.cur := rfl
@[simp] theorem State.setByte_gangs (s : State) (pa : Nat) (b : Byte) : (s.setByte pa b).gangs = s.gangs := rfl
@[simp] theorem State.setByte_crews (s : State) (pa : Nat) (b : Byte) : (s.setByte pa b).crews = s.crews := rfl
@[simp] theorem State.setByte_cores (s : State) (pa : Nat) (b : Byte) : (s.setByte pa b).cores = s.cores := rfl
@[simp] theorem State.setByte_towers (s : State) (pa : Nat) (b : Byte) : (s.setByte pa b).towers = s.towers := rfl
@[simp] theorem State.setByte_homes (s : State) (pa : Nat) (b : Byte) : (s.setByte pa b).homes = s.homes := rfl
@[simp] theorem State.setByte_net (s : State) (pa : Nat) (b : Byte) : (s.setByte pa b).net = s.net := rfl
@[simp] theorem State.setByte_tables (s : State) (pa : Nat) (b : Byte) : (s.setByte pa b).tables = s.tables := rfl
@[simp] theorem State.setByte_tmulti (s : State) (pa : Nat) (b : Byte) : (s.setByte pa b).tmulti = s.tmulti := rfl
@[simp] theorem State.setByte_rels (s : State) (pa : Nat) (b : Byte) : (s.setByte pa b).rels = s.rels := rfl
@[simp] theorem State.setByte_det (s : State) (pa : Nat) (b : Byte) : (s.setByte pa b).det = s.det := rfl
@[simp] theorem State.setByte_bridge (s : State) (pa : Nat) (b : Byte) : (s.setByte pa b).bridge = s.bridge := rfl
@[simp] theorem State.setByte_lents (s : State) (pa : Nat) (b : Byte) : (s.setByte pa b).lents = s.lents := rfl
@[simp] theorem State.setByte_events (s : State) (pa : Nat) (b : Byte) : (s.setByte pa b).events = s.events := rfl
@[simp] theorem State.setByte_evRes (s : State) (pa : Nat) (b : Byte) : (s.setByte pa b).evRes = s.evRes := rfl
@[simp] theorem State.setByte_tides (s : State) (pa : Nat) (b : Byte) : (s.setByte pa b).tides = s.tides := rfl
@[simp] theorem State.setByte_tenants (s : State) (pa : Nat) (b : Byte) : (s.setByte pa b).tenants = s.tenants := rfl
@[simp] theorem State.setByte_rrQueue (s : State) (pa : Nat) (b : Byte) : (s.setByte pa b).rrQueue = s.rrQueue := rfl
@[simp] theorem State.setByte_priv (s : State) (pa : Nat) (b : Byte) : (s.setByte pa b).priv = s.priv := rfl
@[simp] theorem State.setByte_life (s : State) (pa : Nat) (b : Byte) : (s.setByte pa b).life = s.life := rfl
@[simp] theorem State.setByte_places (s : State) (pa : Nat) (b : Byte) : (s.setByte pa b).places = s.places := rfl
@[simp] theorem State.setByte_extra (s : State) (pa : Nat) (b : Byte) : (s.setByte pa b).extra = s.extra := rfl
@[simp] theorem State.setByte_phase (s : State) (pa : Nat) (b : Byte) : (s.setByte pa b).phase = s.phase := rfl
@[simp] theorem State.setByte_nextIss (s : State) (pa : Nat) (b : Byte) : (s.setByte pa b).nextIss = s.nextIss := rfl
@[simp] theorem State.setByte_hostK (s : State) (pa : Nat) (b : Byte) : (s.setByte pa b).hostK = s.hostK := rfl
@[simp] theorem State.setByte_peerTs (s : State) (pa : Nat) (b : Byte) : (s.setByte pa b).peerTs = s.peerTs := rfl
@[simp] theorem State.setByte_acts (s : State) (pa : Nat) (b : Byte) : (s.setByte pa b).acts = s.acts := rfl
@[simp] theorem State.setByte_fences (s : State) (pa : Nat) (b : Byte) : (s.setByte pa b).fences = s.fences := rfl
@[simp] theorem State.setByte_rv (s : State) (pa : Nat) (b : Byte) : (s.setByte pa b).rv = s.rv := rfl
@[simp] theorem State.setGang_crew_ (s : State) (g : Nat) (x : Gang) (j : Nat) : (s.setGang g x).crew j = s.crew j := rfl
@[simp] theorem State.setGang_core_ (s : State) (g : Nat) (x : Gang) (j : Nat) : (s.setGang g x).core j = s.core j := rfl
@[simp] theorem State.setGang_tower_ (s : State) (g : Nat) (x : Gang) (j : Nat) : (s.setGang g x).tower j = s.tower j := rfl
@[simp] theorem State.setGang_home_ (s : State) (g : Nat) (x : Gang) (j : Nat) : (s.setGang g x).home j = s.home j := rfl
@[simp] theorem State.setGang_ten_ (s : State) (g : Nat) (x : Gang) (j : Nat) : (s.setGang g x).ten j = s.ten j := rfl
@[simp] theorem State.setGang_launch_ (s : State) (g : Nat) (x : Gang) (j : Nat) : (s.setGang g x).launch j = s.launch j := rfl
@[simp] theorem State.setGang_tide_ (s : State) (g : Nat) (x : Gang) (j : Nat) : (s.setGang g x).tide j = s.tide j := rfl
@[simp] theorem State.setGang_ev_ (s : State) (g : Nat) (x : Gang) (j : Nat) : (s.setGang g x).ev j = s.ev j := rfl
@[simp] theorem State.modGang_crew_ (s : State) (g : Nat) (f : Gang → Gang) (j : Nat) : (s.modGang g f).crew j = s.crew j := rfl
@[simp] theorem State.modGang_core_ (s : State) (g : Nat) (f : Gang → Gang) (j : Nat) : (s.modGang g f).core j = s.core j := rfl
@[simp] theorem State.modGang_tower_ (s : State) (g : Nat) (f : Gang → Gang) (j : Nat) : (s.modGang g f).tower j = s.tower j := rfl
@[simp] theorem State.modGang_home_ (s : State) (g : Nat) (f : Gang → Gang) (j : Nat) : (s.modGang g f).home j = s.home j := rfl
@[simp] theorem State.modGang_ten_ (s : State) (g : Nat) (f : Gang → Gang) (j : Nat) : (s.modGang g f).ten j = s.ten j := rfl
@[simp] theorem State.modGang_launch_ (s : State) (g : Nat) (f : Gang → Gang) (j : Nat) : (s.modGang g f).launch j = s.launch j := rfl
@[simp] theorem State.modGang_tide_ (s : State) (g : Nat) (f : Gang → Gang) (j : Nat) : (s.modGang g f).tide j = s.tide j := rfl
@[simp] theorem State.modGang_ev_ (s : State) (g : Nat) (f : Gang → Gang) (j : Nat) : (s.modGang g f).ev j = s.ev j := rfl
@[simp] theorem State.setCrew_gang_ (s : State) (u : Nat) (x : Crew) (j : Nat) : (s.setCrew u x).gang j = s.gang j := rfl
@[simp] theorem State.setCrew_core_ (s : State) (u : Nat) (x : Crew) (j : Nat) : (s.setCrew u x).core j = s.core j := rfl
@[simp] theorem State.setCrew_tower_ (s : State) (u : Nat) (x : Crew) (j : Nat) : (s.setCrew u x).tower j = s.tower j := rfl
@[simp] theorem State.setCrew_home_ (s : State) (u : Nat) (x : Crew) (j : Nat) : (s.setCrew u x).home j = s.home j := rfl
@[simp] theorem State.setCrew_ten_ (s : State) (u : Nat) (x : Crew) (j : Nat) : (s.setCrew u x).ten j = s.ten j := rfl
@[simp] theorem State.setCrew_launch_ (s : State) (u : Nat) (x : Crew) (j : Nat) : (s.setCrew u x).launch j = s.launch j := rfl
@[simp] theorem State.setCrew_tide_ (s : State) (u : Nat) (x : Crew) (j : Nat) : (s.setCrew u x).tide j = s.tide j := rfl
@[simp] theorem State.setCrew_ev_ (s : State) (u : Nat) (x : Crew) (j : Nat) : (s.setCrew u x).ev j = s.ev j := rfl
@[simp] theorem State.modCrew_gang_ (s : State) (u : Nat) (f : Crew → Crew) (j : Nat) : (s.modCrew u f).gang j = s.gang j := rfl
@[simp] theorem State.modCrew_core_ (s : State) (u : Nat) (f : Crew → Crew) (j : Nat) : (s.modCrew u f).core j = s.core j := rfl
@[simp] theorem State.modCrew_tower_ (s : State) (u : Nat) (f : Crew → Crew) (j : Nat) : (s.modCrew u f).tower j = s.tower j := rfl
@[simp] theorem State.modCrew_home_ (s : State) (u : Nat) (f : Crew → Crew) (j : Nat) : (s.modCrew u f).home j = s.home j := rfl
@[simp] theorem State.modCrew_ten_ (s : State) (u : Nat) (f : Crew → Crew) (j : Nat) : (s.modCrew u f).ten j = s.ten j := rfl
@[simp] theorem State.modCrew_launch_ (s : State) (u : Nat) (f : Crew → Crew) (j : Nat) : (s.modCrew u f).launch j = s.launch j := rfl
@[simp] theorem State.modCrew_tide_ (s : State) (u : Nat) (f : Crew → Crew) (j : Nat) : (s.modCrew u f).tide j = s.tide j := rfl
@[simp] theorem State.modCrew_ev_ (s : State) (u : Nat) (f : Crew → Crew) (j : Nat) : (s.modCrew u f).ev j = s.ev j := rfl
@[simp] theorem State.setCore_gang_ (s : State) (c : Nat) (x : Core) (j : Nat) : (s.setCore c x).gang j = s.gang j := rfl
@[simp] theorem State.setCore_crew_ (s : State) (c : Nat) (x : Core) (j : Nat) : (s.setCore c x).crew j = s.crew j := rfl
@[simp] theorem State.setCore_tower_ (s : State) (c : Nat) (x : Core) (j : Nat) : (s.setCore c x).tower j = s.tower j := rfl
@[simp] theorem State.setCore_home_ (s : State) (c : Nat) (x : Core) (j : Nat) : (s.setCore c x).home j = s.home j := rfl
@[simp] theorem State.setCore_ten_ (s : State) (c : Nat) (x : Core) (j : Nat) : (s.setCore c x).ten j = s.ten j := rfl
@[simp] theorem State.setCore_launch_ (s : State) (c : Nat) (x : Core) (j : Nat) : (s.setCore c x).launch j = s.launch j := rfl
@[simp] theorem State.setCore_tide_ (s : State) (c : Nat) (x : Core) (j : Nat) : (s.setCore c x).tide j = s.tide j := rfl
@[simp] theorem State.setCore_ev_ (s : State) (c : Nat) (x : Core) (j : Nat) : (s.setCore c x).ev j = s.ev j := rfl
@[simp] theorem State.modCore_gang_ (s : State) (c : Nat) (f : Core → Core) (j : Nat) : (s.modCore c f).gang j = s.gang j := rfl
@[simp] theorem State.modCore_crew_ (s : State) (c : Nat) (f : Core → Core) (j : Nat) : (s.modCore c f).crew j = s.crew j := rfl
@[simp] theorem State.modCore_tower_ (s : State) (c : Nat) (f : Core → Core) (j : Nat) : (s.modCore c f).tower j = s.tower j := rfl
@[simp] theorem State.modCore_home_ (s : State) (c : Nat) (f : Core → Core) (j : Nat) : (s.modCore c f).home j = s.home j := rfl
@[simp] theorem State.modCore_ten_ (s : State) (c : Nat) (f : Core → Core) (j : Nat) : (s.modCore c f).ten j = s.ten j := rfl
@[simp] theorem State.modCore_launch_ (s : State) (c : Nat) (f : Core → Core) (j : Nat) : (s.modCore c f).launch j = s.launch j := rfl
@[simp] theorem State.modCore_tide_ (s : State) (c : Nat) (f : Core → Core) (j : Nat) : (s.modCore c f).tide j = s.tide j := rfl
@[simp] theorem State.modCore_ev_ (s : State) (c : Nat) (f : Core → Core) (j : Nat) : (s.modCore c f).ev j = s.ev j := rfl
@[simp] theorem State.setTower_gang_ (s : State) (t : Nat) (x : Tower) (j : Nat) : (s.setTower t x).gang j = s.gang j := rfl
@[simp] theorem State.setTower_crew_ (s : State) (t : Nat) (x : Tower) (j : Nat) : (s.setTower t x).crew j = s.crew j := rfl
@[simp] theorem State.setTower_core_ (s : State) (t : Nat) (x : Tower) (j : Nat) : (s.setTower t x).core j = s.core j := rfl
@[simp] theorem State.setTower_home_ (s : State) (t : Nat) (x : Tower) (j : Nat) : (s.setTower t x).home j = s.home j := rfl
@[simp] theorem State.setTower_ten_ (s : State) (t : Nat) (x : Tower) (j : Nat) : (s.setTower t x).ten j = s.ten j := rfl
@[simp] theorem State.setTower_launch_ (s : State) (t : Nat) (x : Tower) (j : Nat) : (s.setTower t x).launch j = s.launch j := rfl
@[simp] theorem State.setTower_tide_ (s : State) (t : Nat) (x : Tower) (j : Nat) : (s.setTower t x).tide j = s.tide j := rfl
@[simp] theorem State.setTower_ev_ (s : State) (t : Nat) (x : Tower) (j : Nat) : (s.setTower t x).ev j = s.ev j := rfl
@[simp] theorem State.modTower_gang_ (s : State) (t : Nat) (f : Tower → Tower) (j : Nat) : (s.modTower t f).gang j = s.gang j := rfl
@[simp] theorem State.modTower_crew_ (s : State) (t : Nat) (f : Tower → Tower) (j : Nat) : (s.modTower t f).crew j = s.crew j := rfl
@[simp] theorem State.modTower_core_ (s : State) (t : Nat) (f : Tower → Tower) (j : Nat) : (s.modTower t f).core j = s.core j := rfl
@[simp] theorem State.modTower_home_ (s : State) (t : Nat) (f : Tower → Tower) (j : Nat) : (s.modTower t f).home j = s.home j := rfl
@[simp] theorem State.modTower_ten_ (s : State) (t : Nat) (f : Tower → Tower) (j : Nat) : (s.modTower t f).ten j = s.ten j := rfl
@[simp] theorem State.modTower_launch_ (s : State) (t : Nat) (f : Tower → Tower) (j : Nat) : (s.modTower t f).launch j = s.launch j := rfl
@[simp] theorem State.modTower_tide_ (s : State) (t : Nat) (f : Tower → Tower) (j : Nat) : (s.modTower t f).tide j = s.tide j := rfl
@[simp] theorem State.modTower_ev_ (s : State) (t : Nat) (f : Tower → Tower) (j : Nat) : (s.modTower t f).ev j = s.ev j := rfl
@[simp] theorem State.setHome_gang_ (s : State) (h : Nat) (x : HomeSt) (j : Nat) : (s.setHome h x).gang j = s.gang j := rfl
@[simp] theorem State.setHome_crew_ (s : State) (h : Nat) (x : HomeSt) (j : Nat) : (s.setHome h x).crew j = s.crew j := rfl
@[simp] theorem State.setHome_core_ (s : State) (h : Nat) (x : HomeSt) (j : Nat) : (s.setHome h x).core j = s.core j := rfl
@[simp] theorem State.setHome_tower_ (s : State) (h : Nat) (x : HomeSt) (j : Nat) : (s.setHome h x).tower j = s.tower j := rfl
@[simp] theorem State.setHome_ten_ (s : State) (h : Nat) (x : HomeSt) (j : Nat) : (s.setHome h x).ten j = s.ten j := rfl
@[simp] theorem State.setHome_launch_ (s : State) (h : Nat) (x : HomeSt) (j : Nat) : (s.setHome h x).launch j = s.launch j := rfl
@[simp] theorem State.setHome_tide_ (s : State) (h : Nat) (x : HomeSt) (j : Nat) : (s.setHome h x).tide j = s.tide j := rfl
@[simp] theorem State.setHome_ev_ (s : State) (h : Nat) (x : HomeSt) (j : Nat) : (s.setHome h x).ev j = s.ev j := rfl
@[simp] theorem State.modHome_gang_ (s : State) (h : Nat) (f : HomeSt → HomeSt) (j : Nat) : (s.modHome h f).gang j = s.gang j := rfl
@[simp] theorem State.modHome_crew_ (s : State) (h : Nat) (f : HomeSt → HomeSt) (j : Nat) : (s.modHome h f).crew j = s.crew j := rfl
@[simp] theorem State.modHome_core_ (s : State) (h : Nat) (f : HomeSt → HomeSt) (j : Nat) : (s.modHome h f).core j = s.core j := rfl
@[simp] theorem State.modHome_tower_ (s : State) (h : Nat) (f : HomeSt → HomeSt) (j : Nat) : (s.modHome h f).tower j = s.tower j := rfl
@[simp] theorem State.modHome_ten_ (s : State) (h : Nat) (f : HomeSt → HomeSt) (j : Nat) : (s.modHome h f).ten j = s.ten j := rfl
@[simp] theorem State.modHome_launch_ (s : State) (h : Nat) (f : HomeSt → HomeSt) (j : Nat) : (s.modHome h f).launch j = s.launch j := rfl
@[simp] theorem State.modHome_tide_ (s : State) (h : Nat) (f : HomeSt → HomeSt) (j : Nat) : (s.modHome h f).tide j = s.tide j := rfl
@[simp] theorem State.modHome_ev_ (s : State) (h : Nat) (f : HomeSt → HomeSt) (j : Nat) : (s.modHome h f).ev j = s.ev j := rfl
@[simp] theorem State.setTen_gang_ (s : State) (t : Nat) (x : Tenant) (j : Nat) : (s.setTen t x).gang j = s.gang j := rfl
@[simp] theorem State.setTen_crew_ (s : State) (t : Nat) (x : Tenant) (j : Nat) : (s.setTen t x).crew j = s.crew j := rfl
@[simp] theorem State.setTen_core_ (s : State) (t : Nat) (x : Tenant) (j : Nat) : (s.setTen t x).core j = s.core j := rfl
@[simp] theorem State.setTen_tower_ (s : State) (t : Nat) (x : Tenant) (j : Nat) : (s.setTen t x).tower j = s.tower j := rfl
@[simp] theorem State.setTen_home_ (s : State) (t : Nat) (x : Tenant) (j : Nat) : (s.setTen t x).home j = s.home j := rfl
@[simp] theorem State.setTen_launch_ (s : State) (t : Nat) (x : Tenant) (j : Nat) : (s.setTen t x).launch j = s.launch j := rfl
@[simp] theorem State.setTen_tide_ (s : State) (t : Nat) (x : Tenant) (j : Nat) : (s.setTen t x).tide j = s.tide j := rfl
@[simp] theorem State.setTen_ev_ (s : State) (t : Nat) (x : Tenant) (j : Nat) : (s.setTen t x).ev j = s.ev j := rfl
@[simp] theorem State.modTen_gang_ (s : State) (t : Nat) (f : Tenant → Tenant) (j : Nat) : (s.modTen t f).gang j = s.gang j := rfl
@[simp] theorem State.modTen_crew_ (s : State) (t : Nat) (f : Tenant → Tenant) (j : Nat) : (s.modTen t f).crew j = s.crew j := rfl
@[simp] theorem State.modTen_core_ (s : State) (t : Nat) (f : Tenant → Tenant) (j : Nat) : (s.modTen t f).core j = s.core j := rfl
@[simp] theorem State.modTen_tower_ (s : State) (t : Nat) (f : Tenant → Tenant) (j : Nat) : (s.modTen t f).tower j = s.tower j := rfl
@[simp] theorem State.modTen_home_ (s : State) (t : Nat) (f : Tenant → Tenant) (j : Nat) : (s.modTen t f).home j = s.home j := rfl
@[simp] theorem State.modTen_launch_ (s : State) (t : Nat) (f : Tenant → Tenant) (j : Nat) : (s.modTen t f).launch j = s.launch j := rfl
@[simp] theorem State.modTen_tide_ (s : State) (t : Nat) (f : Tenant → Tenant) (j : Nat) : (s.modTen t f).tide j = s.tide j := rfl
@[simp] theorem State.modTen_ev_ (s : State) (t : Nat) (f : Tenant → Tenant) (j : Nat) : (s.modTen t f).ev j = s.ev j := rfl
@[simp] theorem State.setLaunch_gang_ (s : State) (l : Nat) (x : Launch) (j : Nat) : (s.setLaunch l x).gang j = s.gang j := rfl
@[simp] theorem State.setLaunch_crew_ (s : State) (l : Nat) (x : Launch) (j : Nat) : (s.setLaunch l x).crew j = s.crew j := rfl
@[simp] theorem State.setLaunch_core_ (s : State) (l : Nat) (x : Launch) (j : Nat) : (s.setLaunch l x).core j = s.core j := rfl
@[simp] theorem State.setLaunch_tower_ (s : State) (l : Nat) (x : Launch) (j : Nat) : (s.setLaunch l x).tower j = s.tower j := rfl
@[simp] theorem State.setLaunch_home_ (s : State) (l : Nat) (x : Launch) (j : Nat) : (s.setLaunch l x).home j = s.home j := rfl
@[simp] theorem State.setLaunch_ten_ (s : State) (l : Nat) (x : Launch) (j : Nat) : (s.setLaunch l x).ten j = s.ten j := rfl
@[simp] theorem State.setLaunch_tide_ (s : State) (l : Nat) (x : Launch) (j : Nat) : (s.setLaunch l x).tide j = s.tide j := rfl
@[simp] theorem State.setLaunch_ev_ (s : State) (l : Nat) (x : Launch) (j : Nat) : (s.setLaunch l x).ev j = s.ev j := rfl
@[simp] theorem State.modLaunch_gang_ (s : State) (l : Nat) (f : Launch → Launch) (j : Nat) : (s.modLaunch l f).gang j = s.gang j := rfl
@[simp] theorem State.modLaunch_crew_ (s : State) (l : Nat) (f : Launch → Launch) (j : Nat) : (s.modLaunch l f).crew j = s.crew j := rfl
@[simp] theorem State.modLaunch_core_ (s : State) (l : Nat) (f : Launch → Launch) (j : Nat) : (s.modLaunch l f).core j = s.core j := rfl
@[simp] theorem State.modLaunch_tower_ (s : State) (l : Nat) (f : Launch → Launch) (j : Nat) : (s.modLaunch l f).tower j = s.tower j := rfl
@[simp] theorem State.modLaunch_home_ (s : State) (l : Nat) (f : Launch → Launch) (j : Nat) : (s.modLaunch l f).home j = s.home j := rfl
@[simp] theorem State.modLaunch_ten_ (s : State) (l : Nat) (f : Launch → Launch) (j : Nat) : (s.modLaunch l f).ten j = s.ten j := rfl
@[simp] theorem State.modLaunch_tide_ (s : State) (l : Nat) (f : Launch → Launch) (j : Nat) : (s.modLaunch l f).tide j = s.tide j := rfl
@[simp] theorem State.modLaunch_ev_ (s : State) (l : Nat) (f : Launch → Launch) (j : Nat) : (s.modLaunch l f).ev j = s.ev j := rfl
@[simp] theorem State.modQueue_gang_ (s : State) (t q : Nat) (f : Queue → Queue) (j : Nat) : (s.modQueue t q f).gang j = s.gang j := rfl
@[simp] theorem State.modQueue_crew_ (s : State) (t q : Nat) (f : Queue → Queue) (j : Nat) : (s.modQueue t q f).crew j = s.crew j := rfl
@[simp] theorem State.modQueue_core_ (s : State) (t q : Nat) (f : Queue → Queue) (j : Nat) : (s.modQueue t q f).core j = s.core j := rfl
@[simp] theorem State.modQueue_tower_ (s : State) (t q : Nat) (f : Queue → Queue) (j : Nat) : (s.modQueue t q f).tower j = s.tower j := rfl
@[simp] theorem State.modQueue_home_ (s : State) (t q : Nat) (f : Queue → Queue) (j : Nat) : (s.modQueue t q f).home j = s.home j := rfl
@[simp] theorem State.modQueue_launch_ (s : State) (t q : Nat) (f : Queue → Queue) (j : Nat) : (s.modQueue t q f).launch j = s.launch j := rfl
@[simp] theorem State.modQueue_tide_ (s : State) (t q : Nat) (f : Queue → Queue) (j : Nat) : (s.modQueue t q f).tide j = s.tide j := rfl
@[simp] theorem State.modQueue_ev_ (s : State) (t q : Nat) (f : Queue → Queue) (j : Nat) : (s.modQueue t q f).ev j = s.ev j := rfl
@[simp] theorem State.setTide_gang_ (s : State) (n : Nat) (x : Tide) (j : Nat) : (s.setTide n x).gang j = s.gang j := rfl
@[simp] theorem State.setTide_crew_ (s : State) (n : Nat) (x : Tide) (j : Nat) : (s.setTide n x).crew j = s.crew j := rfl
@[simp] theorem State.setTide_core_ (s : State) (n : Nat) (x : Tide) (j : Nat) : (s.setTide n x).core j = s.core j := rfl
@[simp] theorem State.setTide_tower_ (s : State) (n : Nat) (x : Tide) (j : Nat) : (s.setTide n x).tower j = s.tower j := rfl
@[simp] theorem State.setTide_home_ (s : State) (n : Nat) (x : Tide) (j : Nat) : (s.setTide n x).home j = s.home j := rfl
@[simp] theorem State.setTide_ten_ (s : State) (n : Nat) (x : Tide) (j : Nat) : (s.setTide n x).ten j = s.ten j := rfl
@[simp] theorem State.setTide_launch_ (s : State) (n : Nat) (x : Tide) (j : Nat) : (s.setTide n x).launch j = s.launch j := rfl
@[simp] theorem State.setTide_ev_ (s : State) (n : Nat) (x : Tide) (j : Nat) : (s.setTide n x).ev j = s.ev j := rfl
@[simp] theorem State.setEv_gang_ (s : State) (k : Nat) (x : Ev) (j : Nat) : (s.setEv k x).gang j = s.gang j := rfl
@[simp] theorem State.setEv_crew_ (s : State) (k : Nat) (x : Ev) (j : Nat) : (s.setEv k x).crew j = s.crew j := rfl
@[simp] theorem State.setEv_core_ (s : State) (k : Nat) (x : Ev) (j : Nat) : (s.setEv k x).core j = s.core j := rfl
@[simp] theorem State.setEv_tower_ (s : State) (k : Nat) (x : Ev) (j : Nat) : (s.setEv k x).tower j = s.tower j := rfl
@[simp] theorem State.setEv_home_ (s : State) (k : Nat) (x : Ev) (j : Nat) : (s.setEv k x).home j = s.home j := rfl
@[simp] theorem State.setEv_ten_ (s : State) (k : Nat) (x : Ev) (j : Nat) : (s.setEv k x).ten j = s.ten j := rfl
@[simp] theorem State.setEv_launch_ (s : State) (k : Nat) (x : Ev) (j : Nat) : (s.setEv k x).launch j = s.launch j := rfl
@[simp] theorem State.setEv_tide_ (s : State) (k : Nat) (x : Ev) (j : Nat) : (s.setEv k x).tide j = s.tide j := rfl
@[simp] theorem State.at_gang_ (s : State) (due : Nat) (i : Instr) (j : Nat) : (s.at due i).gang j = s.gang j := rfl
@[simp] theorem State.at_crew_ (s : State) (due : Nat) (i : Instr) (j : Nat) : (s.at due i).crew j = s.crew j := rfl
@[simp] theorem State.at_core_ (s : State) (due : Nat) (i : Instr) (j : Nat) : (s.at due i).core j = s.core j := rfl
@[simp] theorem State.at_tower_ (s : State) (due : Nat) (i : Instr) (j : Nat) : (s.at due i).tower j = s.tower j := rfl
@[simp] theorem State.at_home_ (s : State) (due : Nat) (i : Instr) (j : Nat) : (s.at due i).home j = s.home j := rfl
@[simp] theorem State.at_ten_ (s : State) (due : Nat) (i : Instr) (j : Nat) : (s.at due i).ten j = s.ten j := rfl
@[simp] theorem State.at_launch_ (s : State) (due : Nat) (i : Instr) (j : Nat) : (s.at due i).launch j = s.launch j := rfl
@[simp] theorem State.at_tide_ (s : State) (due : Nat) (i : Instr) (j : Nat) : (s.at due i).tide j = s.tide j := rfl
@[simp] theorem State.at_ev_ (s : State) (due : Nat) (i : Instr) (j : Nat) : (s.at due i).ev j = s.ev j := rfl
@[simp] theorem State.setByte_gang_ (s : State) (pa : Nat) (b : Byte) (j : Nat) : (s.setByte pa b).gang j = s.gang j := rfl
@[simp] theorem State.setByte_crew_ (s : State) (pa : Nat) (b : Byte) (j : Nat) : (s.setByte pa b).crew j = s.crew j := rfl
@[simp] theorem State.setByte_core_ (s : State) (pa : Nat) (b : Byte) (j : Nat) : (s.setByte pa b).core j = s.core j := rfl
@[simp] theorem State.setByte_tower_ (s : State) (pa : Nat) (b : Byte) (j : Nat) : (s.setByte pa b).tower j = s.tower j := rfl
@[simp] theorem State.setByte_home_ (s : State) (pa : Nat) (b : Byte) (j : Nat) : (s.setByte pa b).home j = s.home j := rfl
@[simp] theorem State.setByte_ten_ (s : State) (pa : Nat) (b : Byte) (j : Nat) : (s.setByte pa b).ten j = s.ten j := rfl
@[simp] theorem State.setByte_launch_ (s : State) (pa : Nat) (b : Byte) (j : Nat) : (s.setByte pa b).launch j = s.launch j := rfl
@[simp] theorem State.setByte_tide_ (s : State) (pa : Nat) (b : Byte) (j : Nat) : (s.setByte pa b).tide j = s.tide j := rfl
@[simp] theorem State.setByte_ev_ (s : State) (pa : Nat) (b : Byte) (j : Nat) : (s.setByte pa b).ev j = s.ev j := rfl
@[simp] theorem State.setGang_gang_self (s : State) (k : Nat) (x : Gang) : (s.setGang k x).gang k = x := Sparse.get_set_self _ _ _ _
theorem State.setGang_gang_ne (s : State) {k j : Nat} (x : Gang) (h : j ≠ k) : (s.setGang k x).gang j = s.gang j := Sparse.get_set_ne _ _ _ h
@[simp] theorem State.modGang_gang_self (s : State) (k : Nat) (f : Gang → Gang) : (s.modGang k f).gang k = f (s.gang k) := Sparse.get_set_self _ _ _ _
theorem State.modGang_gang_ne (s : State) {k j : Nat} (f : Gang → Gang) (h : j ≠ k) : (s.modGang k f).gang j = s.gang j := Sparse.get_set_ne _ _ _ h
@[simp] theorem State.setCrew_crew_self (s : State) (k : Nat) (x : Crew) : (s.setCrew k x).crew k = x := Sparse.get_set_self _ _ _ _
theorem State.setCrew_crew_ne (s : State) {k j : Nat} (x : Crew) (h : j ≠ k) : (s.setCrew k x).crew j = s.crew j := Sparse.get_set_ne _ _ _ h
@[simp] theorem State.modCrew_crew_self (s : State) (k : Nat) (f : Crew → Crew) : (s.modCrew k f).crew k = f (s.crew k) := Sparse.get_set_self _ _ _ _
theorem State.modCrew_crew_ne (s : State) {k j : Nat} (f : Crew → Crew) (h : j ≠ k) : (s.modCrew k f).crew j = s.crew j := Sparse.get_set_ne _ _ _ h
@[simp] theorem State.setCore_core_self (s : State) (k : Nat) (x : Core) : (s.setCore k x).core k = x := Sparse.get_set_self _ _ _ _
theorem State.setCore_core_ne (s : State) {k j : Nat} (x : Core) (h : j ≠ k) : (s.setCore k x).core j = s.core j := Sparse.get_set_ne _ _ _ h
@[simp] theorem State.modCore_core_self (s : State) (k : Nat) (f : Core → Core) : (s.modCore k f).core k = f (s.core k) := Sparse.get_set_self _ _ _ _
theorem State.modCore_core_ne (s : State) {k j : Nat} (f : Core → Core) (h : j ≠ k) : (s.modCore k f).core j = s.core j := Sparse.get_set_ne _ _ _ h
@[simp] theorem State.setTower_tower_self (s : State) (k : Nat) (x : Tower) : (s.setTower k x).tower k = x := Sparse.get_set_self _ _ _ _
theorem State.setTower_tower_ne (s : State) {k j : Nat} (x : Tower) (h : j ≠ k) : (s.setTower k x).tower j = s.tower j := Sparse.get_set_ne _ _ _ h
@[simp] theorem State.modTower_tower_self (s : State) (k : Nat) (f : Tower → Tower) : (s.modTower k f).tower k = f (s.tower k) := Sparse.get_set_self _ _ _ _
theorem State.modTower_tower_ne (s : State) {k j : Nat} (f : Tower → Tower) (h : j ≠ k) : (s.modTower k f).tower j = s.tower j := Sparse.get_set_ne _ _ _ h
@[simp] theorem State.setHome_home_self (s : State) (k : Nat) (x : HomeSt) : (s.setHome k x).home k = x := Sparse.get_set_self _ _ _ _
theorem State.setHome_home_ne (s : State) {k j : Nat} (x : HomeSt) (h : j ≠ k) : (s.setHome k x).home j = s.home j := Sparse.get_set_ne _ _ _ h
@[simp] theorem State.modHome_home_self (s : State) (k : Nat) (f : HomeSt → HomeSt) : (s.modHome k f).home k = f (s.home k) := Sparse.get_set_self _ _ _ _
theorem State.modHome_home_ne (s : State) {k j : Nat} (f : HomeSt → HomeSt) (h : j ≠ k) : (s.modHome k f).home j = s.home j := Sparse.get_set_ne _ _ _ h
@[simp] theorem State.setTen_ten_self (s : State) (k : Nat) (x : Tenant) : (s.setTen k x).ten k = x := Sparse.get_set_self _ _ _ _
theorem State.setTen_ten_ne (s : State) {k j : Nat} (x : Tenant) (h : j ≠ k) : (s.setTen k x).ten j = s.ten j := Sparse.get_set_ne _ _ _ h
@[simp] theorem State.modTen_ten_self (s : State) (k : Nat) (f : Tenant → Tenant) : (s.modTen k f).ten k = f (s.ten k) := Sparse.get_set_self _ _ _ _
theorem State.modTen_ten_ne (s : State) {k j : Nat} (f : Tenant → Tenant) (h : j ≠ k) : (s.modTen k f).ten j = s.ten j := Sparse.get_set_ne _ _ _ h
@[simp] theorem State.setLaunch_launch_self (s : State) (k : Nat) (x : Launch) : (s.setLaunch k x).launch k = x := Sparse.get_set_self _ _ _ _
theorem State.setLaunch_launch_ne (s : State) {k j : Nat} (x : Launch) (h : j ≠ k) : (s.setLaunch k x).launch j = s.launch j := Sparse.get_set_ne _ _ _ h
@[simp] theorem State.modLaunch_launch_self (s : State) (k : Nat) (f : Launch → Launch) : (s.modLaunch k f).launch k = f (s.launch k) := Sparse.get_set_self _ _ _ _
theorem State.modLaunch_launch_ne (s : State) {k j : Nat} (f : Launch → Launch) (h : j ≠ k) : (s.modLaunch k f).launch j = s.launch j := Sparse.get_set_ne _ _ _ h
@[simp] theorem State.setTide_tide_self (s : State) (k : Nat) (x : Tide) : (s.setTide k x).tide k = x := Sparse.get_set_self _ _ _ _
theorem State.setTide_tide_ne (s : State) {k j : Nat} (x : Tide) (h : j ≠ k) : (s.setTide k x).tide j = s.tide j := Sparse.get_set_ne _ _ _ h
@[simp] theorem State.setEv_ev_self (s : State) (k : Nat) (x : Ev) : (s.setEv k x).ev k = x := Sparse.get_set_self _ _ _ _
theorem State.setEv_ev_ne (s : State) {k j : Nat} (x : Ev) (h : j ≠ k) : (s.setEv k x).ev j = s.ev j := Sparse.get_set_ne _ _ _ h

@[simp] theorem State.modQueue_queue_self (s : State) (t q : Nat) (f : Queue → Queue) : (s.modQueue t q f).queue t q = f (s.queue t q) := by
  simp [State.queue, State.modQueue]

end Sys2Proof.Machine
end

