-- ==== Sys2Proof/Laws/Ops.lean ====
section
/-! SUPPORT. What each shared operation can do: the form of a word's meaning, lags, results, operations, traps, memory bytes. -/

set_option Elab.async false
set_option linter.unusedSimpArgs false

namespace Sys2Proof.Machine

open Sys2Proof

/-! ## The form of a word's meaning -/

/-- What a word's meaning answers: a fault without an issue, else the trap, else the effect. -/
theorem State.runWord_cases (s : State) (i : Instr) (eff : Cursor → State) :
    (s.cur = none ∧ s.runWord i eff = .fault .noIssue) ∨
    (∃ c t, s.cur = some c ∧ s.wordTrap c i = some t ∧ s.runWord i eff = .next (s.takeTrap c t)) ∨
    (∃ c, s.cur = some c ∧ s.wordTrap c i = none ∧ s.runWord i eff = .next (eff c)) := by
  unfold State.runWord
  cases hc : s.cur with
  | none => exact .inl ⟨rfl, rfl⟩
  | some c =>
    cases ht : s.wordTrap c i with
    | some t => exact .inr (.inl ⟨c, t, rfl, ht, by simp [ht]⟩)
    | none => exact .inr (.inr ⟨c, rfl, ht, by simp [ht]⟩)

theorem State.runWord_eff {s : State} {c : Cursor} {i : Instr} (hc : s.cur = some c) (ht : s.wordTrap c i = none)
    (eff : Cursor → State) : s.runWord i eff = .next (eff c) := by simp [State.runWord, hc, ht]

theorem State.runWord_trap {s : State} {c : Cursor} {i : Instr} {t : Trap} (hc : s.cur = some c) (ht : s.wordTrap c i = some t)
    (eff : Cursor → State) : s.runWord i eff = .next (s.takeTrap c t) := by simp [State.runWord, hc, ht]

theorem State.runWord_none {s : State} (hc : s.cur = none) (i : Instr) (eff : Cursor → State) :
    s.runWord i eff = .fault .noIssue := by simp [State.runWord, hc]

/-! ## Lags and the agenda -/

/-- The next lag is the first of the list, 0 where it is empty, and it is taken. -/
theorem State.popLag_eq (s : State) : s.popLag = (s.lag.headD 0, { s with lag := s.lag.tail }) := by
  unfold State.popLag
  split
  · rename_i h; obtain ⟨⟩ := s; simp_all
  · rename_i h; simp [h]

theorem State.later_eq (s : State) (n : Nat) (i : Instr) :
    s.later n i = { s with lag := s.lag.tail, agenda := s.agenda ++ [(s.now + n + s.lag.headD 0, i)] } := by
  unfold State.later
  split
  · rename_i h; obtain ⟨⟩ := s; simp_all [State.at]
  · rename_i h; simp [h, State.at]

/-! ## Results and operations -/

/-- A fixed-latency result enters the gang's results, and nothing else changes (01 R39). -/
theorem State.emit_eq (s : State) (g lat : Nat) (ws : List Write) (fl : BitVec 7) :
    s.emit g lat ws fl = s.setGang g { s.gang g with
      wb := (s.gang g).wb ++ [{ due := s.now + lat, seq := (s.gang g).nextSeq, writes := ws, flags := fl }]
      nextSeq := (s.gang g).nextSeq + 1 } := rfl

/-- An operation enters the gang's list under a new tag, with its marks, its place in the order of issue and its clock (01 R41). -/
theorem State.addOp_eq (s : State) (g : Nat) (f : Nat → Op) (regs : List PReg) (lanes : DWord) :
    s.addOp g f regs lanes = s.setGang g ((s.gang g).newOp s.now f regs lanes) := rfl

/-- What a new operation leaves of its gang: all but the marks, the operations, the clock and the next tag. -/
theorem Gang.newOp_eq (x : Gang) (now : Nat) (f : Nat → Op) (regs : List PReg) (lanes : DWord) :
    x.newOp now f regs lanes = { x with
      pend := x.pend ++ regs.map fun r => { reg := r, lanes := lanes, tag := x.nextTag }
      ops := x.ops ++ [{ f x.nextTag with born := 4 * now + x.quarter, late := x.faulted, clk := x.clk }]
      clk := if isRelease (f x.nextTag).i then x.clk + 1 else x.clk
      nextTag := x.nextTag + 1 } := rfl

/-- A result that is owed at a cycle: its marks, its operation and its arrival (01 R41). -/
theorem State.oweAt_eq (s : State) (c : Cursor) (i : Instr) (regs : List PReg) (ws : List Write) (due : Nat) (x : DWord) :
    s.oweAt c i regs ws due x = s.setGang c.gang { (s.gang c.gang).newOp s.now (fun t =>
        { tag := t, pc := c.pc, slot := c.slot, i := i, lanes := BitVec.allOnes 64, logged := true, x := x }) regs (BitVec.allOnes 64) with
      arr := (s.gang c.gang).arr ++ [(due, (s.gang c.gang).nextTag, ws)] } := rfl

/-- A result that is owed arrives after one cycle and a lag, which is taken (01 R41, R477). -/
theorem State.owe_eq (s : State) (c : Cursor) (i : Instr) (regs : List PReg) (ws : List Write) (x : DWord) :
    s.owe c i regs ws x = State.oweAt { s with lag := s.lag.tail } c i regs ws (s.now + 1 + s.lag.headD 0) x := by
  simp only [State.owe, State.popLag_eq]

/-- Changes of one operation leave the gang's registers alone. -/
theorem State.modOp_eq (s : State) (g tag : Nat) (f : Op → Op) :
    s.modOp g tag f = s.setGang g { s.gang g with ops := (s.gang g).ops.map fun o => if o.tag = tag then f o else o } := rfl

theorem State.dropOp_eq (s : State) (g tag : Nat) :
    s.dropOp g tag = s.setGang g { s.gang g with ops := (s.gang g).ops.filter fun o => o.tag != tag } := rfl

/-! ## Interrupts and traps -/

/-- A vector that is raised changes only the interrupt part of the privileged window. -/
theorem State.raiseVector_eq (s : State) (v : Nat) :
    ∃ p : Priv, s.raiseVector v = { s with priv := p } ∧ p.errbase = s.priv.errbase ∧ p.errsz = s.priv.errsz ∧
      p.errhead = s.priv.errhead ∧ p.errtail = s.priv.errtail ∧ p.busy = s.priv.busy ∧ p.cend = s.priv.cend ∧
      p.cmdop = s.priv.cmdop ∧ p.cargs = s.priv.cargs := by
  unfold State.raiseVector
  split <;> exact ⟨_, rfl, rfl, rfl, rfl, rfl, rfl, rfl, rfl, rfl⟩

theorem State.service_eq (s : State) (t : Nat) : ∃ p : Priv, s.service t = { s with priv := p } := by
  obtain ⟨p, h, -⟩ := s.raiseVector_eq (32 * t + 31); exact ⟨p, h⟩

/-- A gang stops for software: its trap registers are written, and nothing else changes but the interrupt (07 R231). -/
theorem State.stopGang_eq (s : State) (g : Nat) (tstat mask : DWord) (pc : PAddr) (rest : Option Cursor) :
    s.stopGang g tstat mask pc rest = (s.setGang g { s.gang g with
      tstat := tstat, tpc := pcAddr pc, tmask := mask, stop := some .software, resume := rest, parked := false
      trapNext := none }).service (s.gang g).tenant := by
  simp [State.stopGang, State.modGang]

/-- Taking a trap (00 R13): no word issues any more, and the gang stops, at its stop point where it holds a data fault. -/
theorem State.takeTrap_eq (s : State) (c : Cursor) (t : Trap) :
    s.takeTrap c t =
      if (s.gang c.gang).faulted = true then
        State.stopPoint { s with cur := none } c.gang c.pc (some { c with words := [], groups := c.group :: c.groups })
      else State.stopGang { s with cur := none } c.gang t.tstat t.mask c.pc (some { c with words := [], groups := c.group :: c.groups }) := rfl

/-! ## Memory bytes -/

@[simp] theorem State.byte_setByte (s : State) (pa a : Nat) (b : Byte) :
    (s.setByte pa b).byte a = if a = pa then b else s.byte a := Sparse.get_set _ _ _ _ _

theorem State.setByte_memWf (s : State) (pa : Nat) (b : Byte) (h : s.memWf = true) : (s.setByte pa b).memWf = true :=
  Sparse.wf_set _ _ _ _ h

/-- Bytes that are written change memory and nothing else. -/
theorem State.setBytes_mem (bs : List Byte) : ∀ (s : State) (pa : Nat), ∃ m, s.setBytes pa bs = { s with mem := m } := by
  induction bs with
  | nil => intro s pa; exact ⟨s.mem, rfl⟩
  | cons b r ih =>
    intro s pa
    obtain ⟨m, h⟩ := ih (s.setByte pa b) (pa + 1)
    exact ⟨m, h⟩

theorem State.setBytes_memWf (bs : List Byte) : ∀ (s : State) (pa : Nat), s.memWf = true → (s.setBytes pa bs).memWf = true := by
  induction bs with
  | nil => intro s pa h; exact h
  | cons b r ih => intro s pa h; exact ih _ _ (s.setByte_memWf pa b h)

/-- A fold over a list keeps what each of its steps keeps. -/
theorem foldl_keeps {α : Type} {P : State → Prop} {f : State → α → State} (l : List α) (h : ∀ s x, x ∈ l → P s → P (f s x)) :
    ∀ s, P s → P (l.foldl f s) := by
  induction l with
  | nil => intro s hs; exact hs
  | cons a r ih =>
    intro s hs
    exact ih (fun s x hx => h s x (List.mem_cons_of_mem _ hx)) _ (h s a (List.mem_cons_self ..) hs)

theorem State.writeLine_memWf (s : State) (ln : Nat) (data : List Byte) (mask : BitVec 128) (rels : Sparse (List Rel))
    (h : s.memWf = true) : (s.writeLine ln data mask rels).memWf = true := by
  unfold State.writeLine State.memWf
  exact foldl_keeps (P := fun s => s.memWf = true) _ (fun s k _ hs => s.setByte_memWf _ _ hs) s h

/-- The boot keeps the canonical form of what host memory holds. -/
theorem State.cold_memWf (s : State) (brown : Bool) (h : s.memWf = true) : (s.cold brown).memWf = true :=
  Sparse.wf_filter _ _ _ h

theorem State.reset_memWf : State.reset.memWf = true := rfl

/-- A write of a window's byte changes cores and crews only. -/
theorem State.vaultWrite_mem (s : State) (u off : Nat) (b : Byte) : (s.vaultWrite u off b).mem = s.mem ∧
    (s.vaultWrite u off b).gangs = s.gangs := by
  unfold State.vaultWrite
  simp only
  split <;> simp

end Sys2Proof.Machine
end

