-- ==== Sys2Proof/Laws/PerInstr.lean ====
section
/-! SUPPORT. The family WordRoundTrip: for each instruction, a packet that holds its encoding decodes to it (03 R74 to R95). -/

set_option Elab.async false
set_option linter.unusedSimpArgs false

/-- A well-formed instruction word comes back from its encoding: the packet that holds it in slot 0 has it as its one word, and
the packet of NOP has none (03 R30).  Steps that are no instruction words have no encoding. -/
def Sys2Proof.Laws.WordRoundTrip.Statement (i : Sys2Proof.Instr) : Prop :=
  i.wf = true → ∀ p, Sys2Proof.encode i = some p →
    p.words = .ok (if i = .nop then [] else [{ slot := 0, i := i, chain := false }])

open Sys2Proof Sys2Proof.Laws

/-- The statement of an instruction without an encoding. -/
theorem Sys2Proof.Laws.WordRoundTrip.none_of {i : Instr} (h : encode i = none) : Statement i := by
  intro _ p hp; rw [h] at hp; cases hp

/-- The statement of an instruction of one word, from what its word decodes to. -/
theorem Sys2Proof.Laws.WordRoundTrip.of_raw {i : Instr} {w : Nat}
    (he : encode i = some { w0 := w, w1 := 0, w2 := 0, w3 := 0 }) (hn : i ≠ .nop) (h : decodeRaw w = .ok i)
    (hl : w < 2 ^ 30) : Statement i := by
  intro hwf p hp
  rw [he] at hp; cases hp
  simpa [hn] using words_of_raw h hwf hn hl

/-- The load size of a word size. -/
def Sys2Proof.Laws.ldOf : WSize → LdSize
  | .b32 => .b32
  | .b64 => .b64
  | .b128 => .b128

/-- LD of 32 to 128 bits (06 R165). -/
theorem Sys2Proof.Laws.decodeRaw_ld (z : WSize) (hint : Hint) (d : VReg) (o : Src) (ba : AReg) :
    decodeRaw (encM 64 d.val o.code ba.val hint.code z.sz) = .ok (.ld (ldOf z) hint d o ba) := by
  have hf := encM_fields (show 64 < 128 by decide) (show d.val < 128 by omega) (src_lt o) (show ba.val < 16 by omega)
    (hint_lt hint) (wsize_lt z)
  have key : ∀ w, IsM w 64 d.val o.code ba.val hint.code z.sz → decodeRaw w = .ok (.ld (ldOf z) hint d o ba) := by
    intro w hf; unfold IsM at hf
    rw [show decodeRaw w = decodeMem 64 w by simp only [decodeRaw, hf]; rfl]
    unfold decodeMem
    simp only [hf, wsize_code, vregOf_val, src_code, num16_val, hint_code]
    cases z <;> rfl
  exact key _ hf

/-- LD of 8 and 16 bits (06 R165). -/
theorem Sys2Proof.Laws.decodeRaw_ldSub (hint : Hint) (d : VReg) (o : Src) (ba : AReg) :
    decodeRaw (encM 65 d.val o.code ba.val hint.code 0) = .ok (.ld .u8 hint d o ba) ∧
    decodeRaw (encM 65 d.val o.code ba.val hint.code 1) = .ok (.ld .s8 hint d o ba) ∧
    decodeRaw (encM 65 d.val o.code ba.val hint.code 2) = .ok (.ld .u16 hint d o ba) ∧
    decodeRaw (encM 65 d.val o.code ba.val hint.code 3) = .ok (.ld .s16 hint d o ba) := by
  have hf (z : Nat) (hz : z < 4) := encM_fields (show 65 < 128 by decide) (show d.val < 128 by omega) (src_lt o)
    (show ba.val < 16 by omega) (hint_lt hint) hz
  have key : ∀ z w, IsM w 65 d.val o.code ba.val hint.code z → decodeRaw w =
      match z with
      | 0 => .ok (.ld .u8 hint d o ba)
      | 1 => .ok (.ld .s8 hint d o ba)
      | 2 => .ok (.ld .u16 hint d o ba)
      | _ => .ok (.ld .s16 hint d o ba) := by
    intro z w hf; unfold IsM at hf
    rw [show decodeRaw w = decodeMem 65 w by simp only [decodeRaw, hf]; rfl]
    unfold decodeMem
    simp only [hf, vregOf_val, src_code, num16_val, hint_code]
    rfl
  exact ⟨key 0 _ (hf 0 (by decide)), key 1 _ (hf 1 (by decide)), key 2 _ (hf 2 (by decide)), key 3 _ (hf 3 (by decide))⟩


theorem Sys2Proof.Laws.WordRoundTrip.packetDecode (g : Nat) : Statement (.packetDecode g) := none_of rfl

theorem Sys2Proof.Laws.WordRoundTrip.resultWriteback (g : Nat) : Statement (.resultWriteback g) := none_of rfl

theorem Sys2Proof.Laws.WordRoundTrip.variableResultArrival (g : Nat) : Statement (.variableResultArrival g) := none_of rfl

theorem Sys2Proof.Laws.WordRoundTrip.switchParkEnd (g : Nat) : Statement (.switchParkEnd g) := none_of rfl

theorem Sys2Proof.Laws.WordRoundTrip.dataFault (g : Nat) (tag : Nat) (k : FaultKind) (lanes : DWord) : Statement (.dataFault g tag k lanes) := none_of rfl

theorem Sys2Proof.Laws.WordRoundTrip.gangResume (g : Nat) : Statement (.gangResume g) := none_of rfl

theorem Sys2Proof.Laws.WordRoundTrip.iadd (ty : IntTy) (d : VReg) (a : Src) (b : Src) : Statement (.iadd ty d a b) := by
  have hf := encR_fields (show 1 < 128 by decide) (show d.val < 128 by omega) (src_lt a) (src_lt b) (intTy_lt ty)
  have key : ∀ w, IsR w 1 d.val a.code b.code ty.t → decodeRaw w = .ok (.iadd ty d a b) := by
    intro w hf; unfold IsR at hf
    rw [show decodeRaw w = decodeInt 1 w by simp only [decodeRaw, hf]; rfl]
    unfold decodeInt
    simp only [hf, vregOf_val, src_code, num8_val, num4_val, cond_code, intTy_code, codeOr_some, imm16]; rfl
  exact of_raw rfl (by simp) (key _ hf) hf.2.2.2.2.2.2.2.2.2.2.2

theorem Sys2Proof.Laws.WordRoundTrip.isub (ty : IntTy) (d : VReg) (a : Src) (b : Src) : Statement (.isub ty d a b) := by
  have hf := encR_fields (show 2 < 128 by decide) (show d.val < 128 by omega) (src_lt a) (src_lt b) (intTy_lt ty)
  have key : ∀ w, IsR w 2 d.val a.code b.code ty.t → decodeRaw w = .ok (.isub ty d a b) := by
    intro w hf; unfold IsR at hf
    rw [show decodeRaw w = decodeInt 2 w by simp only [decodeRaw, hf]; rfl]
    unfold decodeInt
    simp only [hf, vregOf_val, src_code, num8_val, num4_val, cond_code, intTy_code, codeOr_some, imm16]; rfl
  exact of_raw rfl (by simp) (key _ hf) hf.2.2.2.2.2.2.2.2.2.2.2

theorem Sys2Proof.Laws.WordRoundTrip.imul (hi : Bool) (uns : Bool) (d : VReg) (a : Src) (b : Src) : Statement (.imul hi uns d a b) := by
  cases hi <;> cases uns
  · have hf := encR_fields (show 3 < 128 by decide) (show d.val < 128 by omega) (src_lt a) (src_lt b) (show 0 < 4 by decide)
    have key : ∀ w, IsR w 3 d.val a.code b.code 0 → decodeRaw w = .ok (.imul false false d a b) := by
      intro w hf; unfold IsR at hf
      rw [show decodeRaw w = decodeInt 3 w by simp only [decodeRaw, hf]; rfl]
      unfold decodeInt
      simp only [hf, vregOf_val, src_code, num8_val, num4_val, cond_code, intTy_code, codeOr_some, imm16]; rfl
    exact of_raw rfl (by simp) (key _ hf) hf.2.2.2.2.2.2.2.2.2.2.2
  · have hf := encR_fields (show 3 < 128 by decide) (show d.val < 128 by omega) (src_lt a) (src_lt b) (show 1 < 4 by decide)
    have key : ∀ w, IsR w 3 d.val a.code b.code 1 → decodeRaw w = .ok (.imul false true d a b) := by
      intro w hf; unfold IsR at hf
      rw [show decodeRaw w = decodeInt 3 w by simp only [decodeRaw, hf]; rfl]
      unfold decodeInt
      simp only [hf, vregOf_val, src_code, num8_val, num4_val, cond_code, intTy_code, codeOr_some, imm16]; rfl
    exact of_raw rfl (by simp) (key _ hf) hf.2.2.2.2.2.2.2.2.2.2.2
  · have hf := encR_fields (show 3 < 128 by decide) (show d.val < 128 by omega) (src_lt a) (src_lt b) (show 2 < 4 by decide)
    have key : ∀ w, IsR w 3 d.val a.code b.code 2 → decodeRaw w = .ok (.imul true false d a b) := by
      intro w hf; unfold IsR at hf
      rw [show decodeRaw w = decodeInt 3 w by simp only [decodeRaw, hf]; rfl]
      unfold decodeInt
      simp only [hf, vregOf_val, src_code, num8_val, num4_val, cond_code, intTy_code, codeOr_some, imm16]; rfl
    exact of_raw rfl (by simp) (key _ hf) hf.2.2.2.2.2.2.2.2.2.2.2
  · have hf := encR_fields (show 3 < 128 by decide) (show d.val < 128 by omega) (src_lt a) (src_lt b) (show 3 < 4 by decide)
    have key : ∀ w, IsR w 3 d.val a.code b.code 3 → decodeRaw w = .ok (.imul true true d a b) := by
      intro w hf; unfold IsR at hf
      rw [show decodeRaw w = decodeInt 3 w by simp only [decodeRaw, hf]; rfl]
      unfold decodeInt
      simp only [hf, vregOf_val, src_code, num8_val, num4_val, cond_code, intTy_code, codeOr_some, imm16]; rfl
    exact of_raw rfl (by simp) (key _ hf) hf.2.2.2.2.2.2.2.2.2.2.2

theorem Sys2Proof.Laws.WordRoundTrip.imad (uns : Bool) (d : VReg) (a : Src) (b : Src) : Statement (.imad uns d a b) := by
  cases uns
  · have hf := encR_fields (show 4 < 128 by decide) (show d.val < 128 by omega) (src_lt a) (src_lt b) (show 0 < 4 by decide)
    have key : ∀ w, IsR w 4 d.val a.code b.code 0 → decodeRaw w = .ok (.imad false d a b) := by
      intro w hf; unfold IsR at hf
      rw [show decodeRaw w = decodeInt 4 w by simp only [decodeRaw, hf]; rfl]
      unfold decodeInt
      simp only [hf, vregOf_val, src_code, num8_val, num4_val, cond_code, intTy_code, codeOr_some, imm16]; rfl
    exact of_raw rfl (by simp) (key _ hf) hf.2.2.2.2.2.2.2.2.2.2.2
  · have hf := encR_fields (show 4 < 128 by decide) (show d.val < 128 by omega) (src_lt a) (src_lt b) (show 1 < 4 by decide)
    have key : ∀ w, IsR w 4 d.val a.code b.code 1 → decodeRaw w = .ok (.imad true d a b) := by
      intro w hf; unfold IsR at hf
      rw [show decodeRaw w = decodeInt 4 w by simp only [decodeRaw, hf]; rfl]
      unfold decodeInt
      simp only [hf, vregOf_val, src_code, num8_val, num4_val, cond_code, intTy_code, codeOr_some, imm16]; rfl
    exact of_raw rfl (by simp) (key _ hf) hf.2.2.2.2.2.2.2.2.2.2.2

theorem Sys2Proof.Laws.WordRoundTrip.idiv (uns : Bool) (d : VReg) (a : Src) (b : Src) : Statement (.idiv uns d a b) := by
  cases uns
  · have hf := encR_fields (show 5 < 128 by decide) (show d.val < 128 by omega) (src_lt a) (src_lt b) (show 0 < 4 by decide)
    have key : ∀ w, IsR w 5 d.val a.code b.code 0 → decodeRaw w = .ok (.idiv false d a b) := by
      intro w hf; unfold IsR at hf
      rw [show decodeRaw w = decodeInt 5 w by simp only [decodeRaw, hf]; rfl]
      unfold decodeInt
      simp only [hf, vregOf_val, src_code, num8_val, num4_val, cond_code, intTy_code, codeOr_some, imm16]; rfl
    exact of_raw rfl (by simp) (key _ hf) hf.2.2.2.2.2.2.2.2.2.2.2
  · have hf := encR_fields (show 5 < 128 by decide) (show d.val < 128 by omega) (src_lt a) (src_lt b) (show 1 < 4 by decide)
    have key : ∀ w, IsR w 5 d.val a.code b.code 1 → decodeRaw w = .ok (.idiv true d a b) := by
      intro w hf; unfold IsR at hf
      rw [show decodeRaw w = decodeInt 5 w by simp only [decodeRaw, hf]; rfl]
      unfold decodeInt
      simp only [hf, vregOf_val, src_code, num8_val, num4_val, cond_code, intTy_code, codeOr_some, imm16]; rfl
    exact of_raw rfl (by simp) (key _ hf) hf.2.2.2.2.2.2.2.2.2.2.2

theorem Sys2Proof.Laws.WordRoundTrip.irem (uns : Bool) (d : VReg) (a : Src) (b : Src) : Statement (.irem uns d a b) := by
  cases uns
  · have hf := encR_fields (show 5 < 128 by decide) (show d.val < 128 by omega) (src_lt a) (src_lt b) (show 2 < 4 by decide)
    have key : ∀ w, IsR w 5 d.val a.code b.code 2 → decodeRaw w = .ok (.irem false d a b) := by
      intro w hf; unfold IsR at hf
      rw [show decodeRaw w = decodeInt 5 w by simp only [decodeRaw, hf]; rfl]
      unfold decodeInt
      simp only [hf, vregOf_val, src_code, num8_val, num4_val, cond_code, intTy_code, codeOr_some, imm16]; rfl
    exact of_raw rfl (by simp) (key _ hf) hf.2.2.2.2.2.2.2.2.2.2.2
  · have hf := encR_fields (show 5 < 128 by decide) (show d.val < 128 by omega) (src_lt a) (src_lt b) (show 3 < 4 by decide)
    have key : ∀ w, IsR w 5 d.val a.code b.code 3 → decodeRaw w = .ok (.irem true d a b) := by
      intro w hf; unfold IsR at hf
      rw [show decodeRaw w = decodeInt 5 w by simp only [decodeRaw, hf]; rfl]
      unfold decodeInt
      simp only [hf, vregOf_val, src_code, num8_val, num4_val, cond_code, intTy_code, codeOr_some, imm16]; rfl
    exact of_raw rfl (by simp) (key _ hf) hf.2.2.2.2.2.2.2.2.2.2.2

theorem Sys2Proof.Laws.WordRoundTrip.movi (d : VReg) (imm : BitVec 16) : Statement (.movi d imm) := by
  have hf := encI_fields (show 6 < 128 by decide) (show d.val < 128 by omega) (show imm.toNat < 65536 by omega)
  have key : ∀ w, IsI w 6 d.val imm.toNat → decodeRaw w = .ok (.movi d imm) := by
    intro w hf; unfold IsI at hf
    rw [show decodeRaw w = decodeInt 6 w by simp only [decodeRaw, hf]; rfl]
    unfold decodeInt
    simp only [hf, vregOf_val, src_code, num8_val, num4_val, cond_code, intTy_code, codeOr_some, imm16]; rfl
  exact of_raw rfl (by simp) (key _ hf) hf.2.2.2

theorem Sys2Proof.Laws.WordRoundTrip.imin (uns : Bool) (d : VReg) (a : Src) (b : Src) : Statement (.imin uns d a b) := by
  cases uns
  · have hf := encR_fields (show 7 < 128 by decide) (show d.val < 128 by omega) (src_lt a) (src_lt b) (show 0 < 4 by decide)
    have key : ∀ w, IsR w 7 d.val a.code b.code 0 → decodeRaw w = .ok (.imin false d a b) := by
      intro w hf; unfold IsR at hf
      rw [show decodeRaw w = decodeInt 7 w by simp only [decodeRaw, hf]; rfl]
      unfold decodeInt
      simp only [hf, vregOf_val, src_code, num8_val, num4_val, cond_code, intTy_code, codeOr_some, imm16]; rfl
    exact of_raw rfl (by simp) (key _ hf) hf.2.2.2.2.2.2.2.2.2.2.2
  · have hf := encR_fields (show 7 < 128 by decide) (show d.val < 128 by omega) (src_lt a) (src_lt b) (show 1 < 4 by decide)
    have key : ∀ w, IsR w 7 d.val a.code b.code 1 → decodeRaw w = .ok (.imin true d a b) := by
      intro w hf; unfold IsR at hf
      rw [show decodeRaw w = decodeInt 7 w by simp only [decodeRaw, hf]; rfl]
      unfold decodeInt
      simp only [hf, vregOf_val, src_code, num8_val, num4_val, cond_code, intTy_code, codeOr_some, imm16]; rfl
    exact of_raw rfl (by simp) (key _ hf) hf.2.2.2.2.2.2.2.2.2.2.2

theorem Sys2Proof.Laws.WordRoundTrip.imax (uns : Bool) (d : VReg) (a : Src) (b : Src) : Statement (.imax uns d a b) := by
  cases uns
  · have hf := encR_fields (show 7 < 128 by decide) (show d.val < 128 by omega) (src_lt a) (src_lt b) (show 2 < 4 by decide)
    have key : ∀ w, IsR w 7 d.val a.code b.code 2 → decodeRaw w = .ok (.imax false d a b) := by
      intro w hf; unfold IsR at hf
      rw [show decodeRaw w = decodeInt 7 w by simp only [decodeRaw, hf]; rfl]
      unfold decodeInt
      simp only [hf, vregOf_val, src_code, num8_val, num4_val, cond_code, intTy_code, codeOr_some, imm16]; rfl
    exact of_raw rfl (by simp) (key _ hf) hf.2.2.2.2.2.2.2.2.2.2.2
  · have hf := encR_fields (show 7 < 128 by decide) (show d.val < 128 by omega) (src_lt a) (src_lt b) (show 3 < 4 by decide)
    have key : ∀ w, IsR w 7 d.val a.code b.code 3 → decodeRaw w = .ok (.imax true d a b) := by
      intro w hf; unfold IsR at hf
      rw [show decodeRaw w = decodeInt 7 w by simp only [decodeRaw, hf]; rfl]
      unfold decodeInt
      simp only [hf, vregOf_val, src_code, num8_val, num4_val, cond_code, intTy_code, codeOr_some, imm16]; rfl
    exact of_raw rfl (by simp) (key _ hf) hf.2.2.2.2.2.2.2.2.2.2.2

theorem Sys2Proof.Laws.WordRoundTrip.iabs (d : VReg) (a : Src) : Statement (.iabs d a) := by
  have hf := encR_fields (show 8 < 128 by decide) (show d.val < 128 by omega) (src_lt a) (show 0 < 128 by decide) (show 0 < 4 by decide)
  have key : ∀ w, IsR w 8 d.val a.code 0 0 → decodeRaw w = .ok (.iabs d a) := by
    intro w hf; unfold IsR at hf
    rw [show decodeRaw w = decodeInt 8 w by simp only [decodeRaw, hf]; rfl]
    unfold decodeInt
    simp only [hf, vregOf_val, src_code, num8_val, num4_val, cond_code, intTy_code, codeOr_some, imm16]; rfl
  exact of_raw rfl (by simp) (key _ hf) hf.2.2.2.2.2.2.2.2.2.2.2

theorem Sys2Proof.Laws.WordRoundTrip.ineg (d : VReg) (a : Src) : Statement (.ineg d a) := by
  have hf := encR_fields (show 8 < 128 by decide) (show d.val < 128 by omega) (src_lt a) (show 0 < 128 by decide) (show 1 < 4 by decide)
  have key : ∀ w, IsR w 8 d.val a.code 0 1 → decodeRaw w = .ok (.ineg d a) := by
    intro w hf; unfold IsR at hf
    rw [show decodeRaw w = decodeInt 8 w by simp only [decodeRaw, hf]; rfl]
    unfold decodeInt
    simp only [hf, vregOf_val, src_code, num8_val, num4_val, cond_code, intTy_code, codeOr_some, imm16]; rfl
  exact of_raw rfl (by simp) (key _ hf) hf.2.2.2.2.2.2.2.2.2.2.2

theorem Sys2Proof.Laws.WordRoundTrip.brev (d : VReg) (a : Src) : Statement (.brev d a) := by
  have hf := encR_fields (show 8 < 128 by decide) (show d.val < 128 by omega) (src_lt a) (show 0 < 128 by decide) (show 2 < 4 by decide)
  have key : ∀ w, IsR w 8 d.val a.code 0 2 → decodeRaw w = .ok (.brev d a) := by
    intro w hf; unfold IsR at hf
    rw [show decodeRaw w = decodeInt 8 w by simp only [decodeRaw, hf]; rfl]
    unfold decodeInt
    simp only [hf, vregOf_val, src_code, num8_val, num4_val, cond_code, intTy_code, codeOr_some, imm16]; rfl
  exact of_raw rfl (by simp) (key _ hf) hf.2.2.2.2.2.2.2.2.2.2.2

theorem Sys2Proof.Laws.WordRoundTrip.icmp (cc : Cond) (ty : IntTy) (k : KReg) (a : Src) (b : Src) : Statement (.icmp cc ty k a b) := by
  have hf := encRK_fields (show 9 < 128 by decide) (cond_lt cc) (show k.val < 8 by omega) (src_lt a) (src_lt b) (intTy_lt ty)
  have key : ∀ w, IsRK w 9 cc.code k.val a.code b.code ty.t → decodeRaw w = .ok (.icmp cc ty k a b) := by
    intro w hf; unfold IsRK at hf
    rw [show decodeRaw w = decodeInt 9 w by simp only [decodeRaw, hf]; rfl]
    unfold decodeInt
    simp only [hf, vregOf_val, src_code, num8_val, num4_val, cond_code, intTy_code, codeOr_some, imm16]; rfl
  exact of_raw rfl (by simp) (key _ hf) hf.2.2.2.2.2.2.2.2.2

theorem Sys2Proof.Laws.WordRoundTrip.and (d : VReg) (a : Src) (b : Src) : Statement (.and d a b) := by
  have hf := encR_fields (show 10 < 128 by decide) (show d.val < 128 by omega) (src_lt a) (src_lt b) (show 0 < 4 by decide)
  have key : ∀ w, IsR w 10 d.val a.code b.code 0 → decodeRaw w = .ok (.and d a b) := by
    intro w hf; unfold IsR at hf
    rw [show decodeRaw w = decodeInt 10 w by simp only [decodeRaw, hf]; rfl]
    unfold decodeInt
    simp only [hf, vregOf_val, src_code, num8_val, num4_val, cond_code, intTy_code, codeOr_some, imm16]; rfl
  exact of_raw rfl (by simp) (key _ hf) hf.2.2.2.2.2.2.2.2.2.2.2

theorem Sys2Proof.Laws.WordRoundTrip.or (d : VReg) (a : Src) (b : Src) : Statement (.or d a b) := by
  have hf := encR_fields (show 10 < 128 by decide) (show d.val < 128 by omega) (src_lt a) (src_lt b) (show 1 < 4 by decide)
  have key : ∀ w, IsR w 10 d.val a.code b.code 1 → decodeRaw w = .ok (.or d a b) := by
    intro w hf; unfold IsR at hf
    rw [show decodeRaw w = decodeInt 10 w by simp only [decodeRaw, hf]; rfl]
    unfold decodeInt
    simp only [hf, vregOf_val, src_code, num8_val, num4_val, cond_code, intTy_code, codeOr_some, imm16]; rfl
  exact of_raw rfl (by simp) (key _ hf) hf.2.2.2.2.2.2.2.2.2.2.2

theorem Sys2Proof.Laws.WordRoundTrip.xor (d : VReg) (a : Src) (b : Src) : Statement (.xor d a b) := by
  have hf := encR_fields (show 10 < 128 by decide) (show d.val < 128 by omega) (src_lt a) (src_lt b) (show 2 < 4 by decide)
  have key : ∀ w, IsR w 10 d.val a.code b.code 2 → decodeRaw w = .ok (.xor d a b) := by
    intro w hf; unfold IsR at hf
    rw [show decodeRaw w = decodeInt 10 w by simp only [decodeRaw, hf]; rfl]
    unfold decodeInt
    simp only [hf, vregOf_val, src_code, num8_val, num4_val, cond_code, intTy_code, codeOr_some, imm16]; rfl
  exact of_raw rfl (by simp) (key _ hf) hf.2.2.2.2.2.2.2.2.2.2.2

theorem Sys2Proof.Laws.WordRoundTrip.andn (d : VReg) (a : Src) (b : Src) : Statement (.andn d a b) := by
  have hf := encR_fields (show 10 < 128 by decide) (show d.val < 128 by omega) (src_lt a) (src_lt b) (show 3 < 4 by decide)
  have key : ∀ w, IsR w 10 d.val a.code b.code 3 → decodeRaw w = .ok (.andn d a b) := by
    intro w hf; unfold IsR at hf
    rw [show decodeRaw w = decodeInt 10 w by simp only [decodeRaw, hf]; rfl]
    unfold decodeInt
    simp only [hf, vregOf_val, src_code, num8_val, num4_val, cond_code, intTy_code, codeOr_some, imm16]; rfl
  exact of_raw rfl (by simp) (key _ hf) hf.2.2.2.2.2.2.2.2.2.2.2

theorem Sys2Proof.Laws.WordRoundTrip.not (d : VReg) (a : Src) : Statement (.not d a) := by
  have hf := encR_fields (show 11 < 128 by decide) (show d.val < 128 by omega) (src_lt a) (show 0 < 128 by decide) (show 0 < 4 by decide)
  have key : ∀ w, IsR w 11 d.val a.code 0 0 → decodeRaw w = .ok (.not d a) := by
    intro w hf; unfold IsR at hf
    rw [show decodeRaw w = decodeInt 11 w by simp only [decodeRaw, hf]; rfl]
    unfold decodeInt
    simp only [hf, vregOf_val, src_code, num8_val, num4_val, cond_code, intTy_code, codeOr_some, imm16]; rfl
  exact of_raw rfl (by simp) (key _ hf) hf.2.2.2.2.2.2.2.2.2.2.2

theorem Sys2Proof.Laws.WordRoundTrip.popc (d : VReg) (a : Src) : Statement (.popc d a) := by
  have hf := encR_fields (show 11 < 128 by decide) (show d.val < 128 by omega) (src_lt a) (show 0 < 128 by decide) (show 1 < 4 by decide)
  have key : ∀ w, IsR w 11 d.val a.code 0 1 → decodeRaw w = .ok (.popc d a) := by
    intro w hf; unfold IsR at hf
    rw [show decodeRaw w = decodeInt 11 w by simp only [decodeRaw, hf]; rfl]
    unfold decodeInt
    simp only [hf, vregOf_val, src_code, num8_val, num4_val, cond_code, intTy_code, codeOr_some, imm16]; rfl
  exact of_raw rfl (by simp) (key _ hf) hf.2.2.2.2.2.2.2.2.2.2.2

theorem Sys2Proof.Laws.WordRoundTrip.clz (d : VReg) (a : Src) : Statement (.clz d a) := by
  have hf := encR_fields (show 11 < 128 by decide) (show d.val < 128 by omega) (src_lt a) (show 0 < 128 by decide) (show 2 < 4 by decide)
  have key : ∀ w, IsR w 11 d.val a.code 0 2 → decodeRaw w = .ok (.clz d a) := by
    intro w hf; unfold IsR at hf
    rw [show decodeRaw w = decodeInt 11 w by simp only [decodeRaw, hf]; rfl]
    unfold decodeInt
    simp only [hf, vregOf_val, src_code, num8_val, num4_val, cond_code, intTy_code, codeOr_some, imm16]; rfl
  exact of_raw rfl (by simp) (key _ hf) hf.2.2.2.2.2.2.2.2.2.2.2

theorem Sys2Proof.Laws.WordRoundTrip.ctz (d : VReg) (a : Src) : Statement (.ctz d a) := by
  have hf := encR_fields (show 11 < 128 by decide) (show d.val < 128 by omega) (src_lt a) (show 0 < 128 by decide) (show 3 < 4 by decide)
  have key : ∀ w, IsR w 11 d.val a.code 0 3 → decodeRaw w = .ok (.ctz d a) := by
    intro w hf; unfold IsR at hf
    rw [show decodeRaw w = decodeInt 11 w by simp only [decodeRaw, hf]; rfl]
    unfold decodeInt
    simp only [hf, vregOf_val, src_code, num8_val, num4_val, cond_code, intTy_code, codeOr_some, imm16]; rfl
  exact of_raw rfl (by simp) (key _ hf) hf.2.2.2.2.2.2.2.2.2.2.2

theorem Sys2Proof.Laws.WordRoundTrip.shl (d : VReg) (a : Src) (b : Src) : Statement (.shl d a b) := by
  have hf := encR_fields (show 12 < 128 by decide) (show d.val < 128 by omega) (src_lt a) (src_lt b) (show 0 < 4 by decide)
  have key : ∀ w, IsR w 12 d.val a.code b.code 0 → decodeRaw w = .ok (.shl d a b) := by
    intro w hf; unfold IsR at hf
    rw [show decodeRaw w = decodeInt 12 w by simp only [decodeRaw, hf]; rfl]
    unfold decodeInt
    simp only [hf, vregOf_val, src_code, num8_val, num4_val, cond_code, intTy_code, codeOr_some, imm16]; rfl
  exact of_raw rfl (by simp) (key _ hf) hf.2.2.2.2.2.2.2.2.2.2.2

theorem Sys2Proof.Laws.WordRoundTrip.shr (d : VReg) (a : Src) (b : Src) : Statement (.shr d a b) := by
  have hf := encR_fields (show 12 < 128 by decide) (show d.val < 128 by omega) (src_lt a) (src_lt b) (show 1 < 4 by decide)
  have key : ∀ w, IsR w 12 d.val a.code b.code 1 → decodeRaw w = .ok (.shr d a b) := by
    intro w hf; unfold IsR at hf
    rw [show decodeRaw w = decodeInt 12 w by simp only [decodeRaw, hf]; rfl]
    unfold decodeInt
    simp only [hf, vregOf_val, src_code, num8_val, num4_val, cond_code, intTy_code, codeOr_some, imm16]; rfl
  exact of_raw rfl (by simp) (key _ hf) hf.2.2.2.2.2.2.2.2.2.2.2

theorem Sys2Proof.Laws.WordRoundTrip.sar (d : VReg) (a : Src) (b : Src) : Statement (.sar d a b) := by
  have hf := encR_fields (show 12 < 128 by decide) (show d.val < 128 by omega) (src_lt a) (src_lt b) (show 2 < 4 by decide)
  have key : ∀ w, IsR w 12 d.val a.code b.code 2 → decodeRaw w = .ok (.sar d a b) := by
    intro w hf; unfold IsR at hf
    rw [show decodeRaw w = decodeInt 12 w by simp only [decodeRaw, hf]; rfl]
    unfold decodeInt
    simp only [hf, vregOf_val, src_code, num8_val, num4_val, cond_code, intTy_code, codeOr_some, imm16]; rfl
  exact of_raw rfl (by simp) (key _ hf) hf.2.2.2.2.2.2.2.2.2.2.2

theorem Sys2Proof.Laws.WordRoundTrip.rot (d : VReg) (a : Src) (b : Src) : Statement (.rot d a b) := by
  have hf := encR_fields (show 12 < 128 by decide) (show d.val < 128 by omega) (src_lt a) (src_lt b) (show 3 < 4 by decide)
  have key : ∀ w, IsR w 12 d.val a.code b.code 3 → decodeRaw w = .ok (.rot d a b) := by
    intro w hf; unfold IsR at hf
    rw [show decodeRaw w = decodeInt 12 w by simp only [decodeRaw, hf]; rfl]
    unfold decodeInt
    simp only [hf, vregOf_val, src_code, num8_val, num4_val, cond_code, intTy_code, codeOr_some, imm16]; rfl
  exact of_raw rfl (by simp) (key _ hf) hf.2.2.2.2.2.2.2.2.2.2.2

theorem Sys2Proof.Laws.WordRoundTrip.bfe (sgn : Bool) (d : VReg) (a : Src) (b : Src) : Statement (.bfe sgn d a b) := by
  cases sgn
  · have hf := encR_fields (show 13 < 128 by decide) (show d.val < 128 by omega) (src_lt a) (src_lt b) (show 0 < 4 by decide)
    have key : ∀ w, IsR w 13 d.val a.code b.code 0 → decodeRaw w = .ok (.bfe false d a b) := by
      intro w hf; unfold IsR at hf
      rw [show decodeRaw w = decodeInt 13 w by simp only [decodeRaw, hf]; rfl]
      unfold decodeInt
      simp only [hf, vregOf_val, src_code, num8_val, num4_val, cond_code, intTy_code, codeOr_some, imm16]; rfl
    exact of_raw rfl (by simp) (key _ hf) hf.2.2.2.2.2.2.2.2.2.2.2
  · have hf := encR_fields (show 13 < 128 by decide) (show d.val < 128 by omega) (src_lt a) (src_lt b) (show 1 < 4 by decide)
    have key : ∀ w, IsR w 13 d.val a.code b.code 1 → decodeRaw w = .ok (.bfe true d a b) := by
      intro w hf; unfold IsR at hf
      rw [show decodeRaw w = decodeInt 13 w by simp only [decodeRaw, hf]; rfl]
      unfold decodeInt
      simp only [hf, vregOf_val, src_code, num8_val, num4_val, cond_code, intTy_code, codeOr_some, imm16]; rfl
    exact of_raw rfl (by simp) (key _ hf) hf.2.2.2.2.2.2.2.2.2.2.2

theorem Sys2Proof.Laws.WordRoundTrip.bfi (d : VReg) (a : Src) (b : Src) : Statement (.bfi d a b) := by
  have hf := encR_fields (show 13 < 128 by decide) (show d.val < 128 by omega) (src_lt a) (src_lt b) (show 2 < 4 by decide)
  have key : ∀ w, IsR w 13 d.val a.code b.code 2 → decodeRaw w = .ok (.bfi d a b) := by
    intro w hf; unfold IsR at hf
    rw [show decodeRaw w = decodeInt 13 w by simp only [decodeRaw, hf]; rfl]
    unfold decodeInt
    simp only [hf, vregOf_val, src_code, num8_val, num4_val, cond_code, intTy_code, codeOr_some, imm16]; rfl
  exact of_raw rfl (by simp) (key _ hf) hf.2.2.2.2.2.2.2.2.2.2.2

theorem Sys2Proof.Laws.WordRoundTrip.sel (k : Fin 4) (d : VReg) (a : Src) (b : Src) : Statement (.sel k d a b) := by
  have hf := encR_fields (show 14 < 128 by decide) (show d.val < 128 by omega) (src_lt a) (src_lt b) (show k.val < 4 by omega)
  have key : ∀ w, IsR w 14 d.val a.code b.code k.val → decodeRaw w = .ok (.sel k d a b) := by
    intro w hf; unfold IsR at hf
    rw [show decodeRaw w = decodeInt 14 w by simp only [decodeRaw, hf]; rfl]
    unfold decodeInt
    simp only [hf, vregOf_val, src_code, num8_val, num4_val, cond_code, intTy_code, codeOr_some, imm16]; rfl
  exact of_raw rfl (by simp) (key _ hf) hf.2.2.2.2.2.2.2.2.2.2.2

theorem Sys2Proof.Laws.WordRoundTrip.mov (wide : Bool) (d : VReg) (a : Src) : Statement (.mov wide d a) := by
  cases wide
  · have hf := encR_fields (show 15 < 128 by decide) (show d.val < 128 by omega) (src_lt a) (show 0 < 128 by decide) (show 0 < 4 by decide)
    have key : ∀ w, IsR w 15 d.val a.code 0 0 → decodeRaw w = .ok (.mov false d a) := by
      intro w hf; unfold IsR at hf
      rw [show decodeRaw w = decodeInt 15 w by simp only [decodeRaw, hf]; rfl]
      unfold decodeInt
      simp only [hf, vregOf_val, src_code, num8_val, num4_val, cond_code, intTy_code, codeOr_some, imm16]; rfl
    exact of_raw rfl (by simp) (key _ hf) hf.2.2.2.2.2.2.2.2.2.2.2
  · have hf := encR_fields (show 15 < 128 by decide) (show d.val < 128 by omega) (src_lt a) (show 0 < 128 by decide) (show 1 < 4 by decide)
    have key : ∀ w, IsR w 15 d.val a.code 0 1 → decodeRaw w = .ok (.mov true d a) := by
      intro w hf; unfold IsR at hf
      rw [show decodeRaw w = decodeInt 15 w by simp only [decodeRaw, hf]; rfl]
      unfold decodeInt
      simp only [hf, vregOf_val, src_code, num8_val, num4_val, cond_code, intTy_code, codeOr_some, imm16]; rfl
    exact of_raw rfl (by simp) (key _ hf) hf.2.2.2.2.2.2.2.2.2.2.2

theorem Sys2Proof.Laws.WordRoundTrip.sadd (d : SReg) (a : Src) (b : Src) : Statement (.sadd d a b) := by
  have hf := encR_fields (show 16 < 128 by decide) (show 96 + d.val < 128 by omega) (src_lt a) (src_lt b) (show 0 < 4 by decide)
  have key : ∀ w, IsR w 16 (96 + d.val) a.code b.code 0 → decodeRaw w = .ok (.sadd d a b) := by
    intro w hf; unfold IsR at hf
    rw [show decodeRaw w = decodeScalar 16 w by simp only [decodeRaw, hf]; rfl]
    unfold decodeScalar
    simp only [hf, vregOf_val, sregOf_val, src_code, num8_val, num16_val]; rfl
  exact of_raw rfl (by simp) (key _ hf) hf.2.2.2.2.2.2.2.2.2.2.2

theorem Sys2Proof.Laws.WordRoundTrip.ssub (d : SReg) (a : Src) (b : Src) : Statement (.ssub d a b) := by
  have hf := encR_fields (show 16 < 128 by decide) (show 96 + d.val < 128 by omega) (src_lt a) (src_lt b) (show 1 < 4 by decide)
  have key : ∀ w, IsR w 16 (96 + d.val) a.code b.code 1 → decodeRaw w = .ok (.ssub d a b) := by
    intro w hf; unfold IsR at hf
    rw [show decodeRaw w = decodeScalar 16 w by simp only [decodeRaw, hf]; rfl]
    unfold decodeScalar
    simp only [hf, vregOf_val, sregOf_val, src_code, num8_val, num16_val]; rfl
  exact of_raw rfl (by simp) (key _ hf) hf.2.2.2.2.2.2.2.2.2.2.2

theorem Sys2Proof.Laws.WordRoundTrip.sand (d : SReg) (a : Src) (b : Src) : Statement (.sand d a b) := by
  have hf := encR_fields (show 16 < 128 by decide) (show 96 + d.val < 128 by omega) (src_lt a) (src_lt b) (show 2 < 4 by decide)
  have key : ∀ w, IsR w 16 (96 + d.val) a.code b.code 2 → decodeRaw w = .ok (.sand d a b) := by
    intro w hf; unfold IsR at hf
    rw [show decodeRaw w = decodeScalar 16 w by simp only [decodeRaw, hf]; rfl]
    unfold decodeScalar
    simp only [hf, vregOf_val, sregOf_val, src_code, num8_val, num16_val]; rfl
  exact of_raw rfl (by simp) (key _ hf) hf.2.2.2.2.2.2.2.2.2.2.2

theorem Sys2Proof.Laws.WordRoundTrip.sor (d : SReg) (a : Src) (b : Src) : Statement (.sor d a b) := by
  have hf := encR_fields (show 16 < 128 by decide) (show 96 + d.val < 128 by omega) (src_lt a) (src_lt b) (show 3 < 4 by decide)
  have key : ∀ w, IsR w 16 (96 + d.val) a.code b.code 3 → decodeRaw w = .ok (.sor d a b) := by
    intro w hf; unfold IsR at hf
    rw [show decodeRaw w = decodeScalar 16 w by simp only [decodeRaw, hf]; rfl]
    unfold decodeScalar
    simp only [hf, vregOf_val, sregOf_val, src_code, num8_val, num16_val]; rfl
  exact of_raw rfl (by simp) (key _ hf) hf.2.2.2.2.2.2.2.2.2.2.2

theorem Sys2Proof.Laws.WordRoundTrip.sshl (d : SReg) (a : Src) (b : Src) : Statement (.sshl d a b) := by
  have hf := encR_fields (show 17 < 128 by decide) (show 96 + d.val < 128 by omega) (src_lt a) (src_lt b) (show 0 < 4 by decide)
  have key : ∀ w, IsR w 17 (96 + d.val) a.code b.code 0 → decodeRaw w = .ok (.sshl d a b) := by
    intro w hf; unfold IsR at hf
    rw [show decodeRaw w = decodeScalar 17 w by simp only [decodeRaw, hf]; rfl]
    unfold decodeScalar
    simp only [hf, vregOf_val, sregOf_val, src_code, num8_val, num16_val]; rfl
  exact of_raw rfl (by simp) (key _ hf) hf.2.2.2.2.2.2.2.2.2.2.2

theorem Sys2Proof.Laws.WordRoundTrip.sshr (d : SReg) (a : Src) (b : Src) : Statement (.sshr d a b) := by
  have hf := encR_fields (show 17 < 128 by decide) (show 96 + d.val < 128 by omega) (src_lt a) (src_lt b) (show 1 < 4 by decide)
  have key : ∀ w, IsR w 17 (96 + d.val) a.code b.code 1 → decodeRaw w = .ok (.sshr d a b) := by
    intro w hf; unfold IsR at hf
    rw [show decodeRaw w = decodeScalar 17 w by simp only [decodeRaw, hf]; rfl]
    unfold decodeScalar
    simp only [hf, vregOf_val, sregOf_val, src_code, num8_val, num16_val]; rfl
  exact of_raw rfl (by simp) (key _ hf) hf.2.2.2.2.2.2.2.2.2.2.2

theorem Sys2Proof.Laws.WordRoundTrip.smul (d : SReg) (a : Src) (b : Src) : Statement (.smul d a b) := by
  have hf := encR_fields (show 17 < 128 by decide) (show 96 + d.val < 128 by omega) (src_lt a) (src_lt b) (show 2 < 4 by decide)
  have key : ∀ w, IsR w 17 (96 + d.val) a.code b.code 2 → decodeRaw w = .ok (.smul d a b) := by
    intro w hf; unfold IsR at hf
    rw [show decodeRaw w = decodeScalar 17 w by simp only [decodeRaw, hf]; rfl]
    unfold decodeScalar
    simp only [hf, vregOf_val, sregOf_val, src_code, num8_val, num16_val]; rfl
  exact of_raw rfl (by simp) (key _ hf) hf.2.2.2.2.2.2.2.2.2.2.2

theorem Sys2Proof.Laws.WordRoundTrip.scmp (cc : SCond) (d : SReg) (a : Src) (b : Src) : Statement (.scmp cc d a b) := by
  cases cc
  · have hf := encR_fields (show 18 < 128 by decide) (show 96 + d.val < 128 by omega) (src_lt a) (src_lt b) (show 0 < 4 by decide)
    have key : ∀ w, IsR w 18 (96 + d.val) a.code b.code 0 → decodeRaw w = .ok (.scmp .eq d a b) := by
      intro w hf; unfold IsR at hf
      rw [show decodeRaw w = decodeScalar 18 w by simp only [decodeRaw, hf]; rfl]
      unfold decodeScalar
      simp only [hf, vregOf_val, sregOf_val, src_code, num8_val, num16_val]; rfl
    exact of_raw rfl (by simp) (key _ hf) hf.2.2.2.2.2.2.2.2.2.2.2
  · have hf := encR_fields (show 18 < 128 by decide) (show 96 + d.val < 128 by omega) (src_lt a) (src_lt b) (show 1 < 4 by decide)
    have key : ∀ w, IsR w 18 (96 + d.val) a.code b.code 1 → decodeRaw w = .ok (.scmp .ne d a b) := by
      intro w hf; unfold IsR at hf
      rw [show decodeRaw w = decodeScalar 18 w by simp only [decodeRaw, hf]; rfl]
      unfold decodeScalar
      simp only [hf, vregOf_val, sregOf_val, src_code, num8_val, num16_val]; rfl
    exact of_raw rfl (by simp) (key _ hf) hf.2.2.2.2.2.2.2.2.2.2.2
  · have hf := encR_fields (show 18 < 128 by decide) (show 96 + d.val < 128 by omega) (src_lt a) (src_lt b) (show 2 < 4 by decide)
    have key : ∀ w, IsR w 18 (96 + d.val) a.code b.code 2 → decodeRaw w = .ok (.scmp .ltS d a b) := by
      intro w hf; unfold IsR at hf
      rw [show decodeRaw w = decodeScalar 18 w by simp only [decodeRaw, hf]; rfl]
      unfold decodeScalar
      simp only [hf, vregOf_val, sregOf_val, src_code, num8_val, num16_val]; rfl
    exact of_raw rfl (by simp) (key _ hf) hf.2.2.2.2.2.2.2.2.2.2.2
  · have hf := encR_fields (show 18 < 128 by decide) (show 96 + d.val < 128 by omega) (src_lt a) (src_lt b) (show 3 < 4 by decide)
    have key : ∀ w, IsR w 18 (96 + d.val) a.code b.code 3 → decodeRaw w = .ok (.scmp .ltU d a b) := by
      intro w hf; unfold IsR at hf
      rw [show decodeRaw w = decodeScalar 18 w by simp only [decodeRaw, hf]; rfl]
      unfold decodeScalar
      simp only [hf, vregOf_val, sregOf_val, src_code, num8_val, num16_val]; rfl
    exact of_raw rfl (by simp) (key _ hf) hf.2.2.2.2.2.2.2.2.2.2.2

theorem Sys2Proof.Laws.WordRoundTrip.adda (d : AReg) (a : AReg) (b : Src) : Statement (.adda d a b) := by
  have hf := encR_fields (show 20 < 128 by decide) (show d.val < 128 by omega) (show a.val < 128 by omega) (src_lt b) (show 0 < 4 by decide)
  have key : ∀ w, IsR w 20 d.val a.val b.code 0 → decodeRaw w = .ok (.adda d a b) := by
    intro w hf; unfold IsR at hf
    rw [show decodeRaw w = decodeScalar 20 w by simp only [decodeRaw, hf]; rfl]
    unfold decodeScalar
    simp only [hf, vregOf_val, sregOf_val, src_code, num8_val, num16_val]; rfl
  exact of_raw rfl (by simp) (key _ hf) hf.2.2.2.2.2.2.2.2.2.2.2

theorem Sys2Proof.Laws.WordRoundTrip.kand (d : KReg) (a : KReg) (b : KReg) : Statement (.kand d a b) := by
  have hf := encR_fields (show 21 < 128 by decide) (show d.val < 128 by omega) (show a.val < 128 by omega) (show b.val < 128 by omega) (show 0 < 4 by decide)
  have key : ∀ w, IsR w 21 d.val a.val b.val 0 → decodeRaw w = .ok (.kand d a b) := by
    intro w hf; unfold IsR at hf
    rw [show decodeRaw w = decodeScalar 21 w by simp only [decodeRaw, hf]; rfl]
    unfold decodeScalar
    simp only [hf, vregOf_val, sregOf_val, src_code, num8_val, num16_val]; rfl
  exact of_raw rfl (by simp) (key _ hf) hf.2.2.2.2.2.2.2.2.2.2.2

theorem Sys2Proof.Laws.WordRoundTrip.kor (d : KReg) (a : KReg) (b : KReg) : Statement (.kor d a b) := by
  have hf := encR_fields (show 21 < 128 by decide) (show d.val < 128 by omega) (show a.val < 128 by omega) (show b.val < 128 by omega) (show 1 < 4 by decide)
  have key : ∀ w, IsR w 21 d.val a.val b.val 1 → decodeRaw w = .ok (.kor d a b) := by
    intro w hf; unfold IsR at hf
    rw [show decodeRaw w = decodeScalar 21 w by simp only [decodeRaw, hf]; rfl]
    unfold decodeScalar
    simp only [hf, vregOf_val, sregOf_val, src_code, num8_val, num16_val]; rfl
  exact of_raw rfl (by simp) (key _ hf) hf.2.2.2.2.2.2.2.2.2.2.2

theorem Sys2Proof.Laws.WordRoundTrip.knot (d : KReg) (a : KReg) : Statement (.knot d a) := by
  have hf := encR_fields (show 21 < 128 by decide) (show d.val < 128 by omega) (show a.val < 128 by omega) (show 0 < 128 by decide) (show 2 < 4 by decide)
  have key : ∀ w, IsR w 21 d.val a.val 0 2 → decodeRaw w = .ok (.knot d a) := by
    intro w hf; unfold IsR at hf
    rw [show decodeRaw w = decodeScalar 21 w by simp only [decodeRaw, hf]; rfl]
    unfold decodeScalar
    simp only [hf, vregOf_val, sregOf_val, src_code, num8_val, num16_val]; rfl
  exact of_raw rfl (by simp) (key _ hf) hf.2.2.2.2.2.2.2.2.2.2.2

theorem Sys2Proof.Laws.WordRoundTrip.kpop (d : SReg) (a : KReg) : Statement (.kpop d a) := by
  have hf := encR_fields (show 21 < 128 by decide) (show 96 + d.val < 128 by omega) (show a.val < 128 by omega) (show 0 < 128 by decide) (show 3 < 4 by decide)
  have key : ∀ w, IsR w 21 (96 + d.val) a.val 0 3 → decodeRaw w = .ok (.kpop d a) := by
    intro w hf; unfold IsR at hf
    rw [show decodeRaw w = decodeScalar 21 w by simp only [decodeRaw, hf]; rfl]
    unfold decodeScalar
    simp only [hf, vregOf_val, sregOf_val, src_code, num8_val, num16_val]; rfl
  exact of_raw rfl (by simp) (key _ hf) hf.2.2.2.2.2.2.2.2.2.2.2

theorem Sys2Proof.Laws.WordRoundTrip.setx (a : KReg) : Statement (.setx a) := by
  have hf := encR_fields (show 22 < 128 by decide) (show 0 < 128 by decide) (show a.val < 128 by omega) (show 0 < 128 by decide) (show 0 < 4 by decide)
  have key : ∀ w, IsR w 22 0 a.val 0 0 → decodeRaw w = .ok (.setx a) := by
    intro w hf; unfold IsR at hf
    rw [show decodeRaw w = decodeScalar 22 w by simp only [decodeRaw, hf]; rfl]
    unfold decodeScalar
    simp only [hf, vregOf_val, sregOf_val, src_code, num8_val, num16_val]; rfl
  exact of_raw rfl (by simp) (key _ hf) hf.2.2.2.2.2.2.2.2.2.2.2

theorem Sys2Proof.Laws.WordRoundTrip.getx (d : KReg) : Statement (.getx d) := by
  have hf := encR_fields (show 22 < 128 by decide) (show d.val < 128 by omega) (show 0 < 128 by decide) (show 0 < 128 by decide) (show 1 < 4 by decide)
  have key : ∀ w, IsR w 22 d.val 0 0 1 → decodeRaw w = .ok (.getx d) := by
    intro w hf; unfold IsR at hf
    rw [show decodeRaw w = decodeScalar 22 w by simp only [decodeRaw, hf]; rfl]
    unfold decodeScalar
    simp only [hf, vregOf_val, sregOf_val, src_code, num8_val, num16_val]; rfl
  exact of_raw rfl (by simp) (key _ hf) hf.2.2.2.2.2.2.2.2.2.2.2

theorem Sys2Proof.Laws.WordRoundTrip.br (off : BitVec 20) : Statement (.br off) := by
  have hf := encB20_fields (show 24 < 128 by decide) (show 0 < 8 by decide) (show off.toNat < 1048576 by omega)
  have key : ∀ w, IsB20 w 24 0 off.toNat → decodeRaw w = .ok (.br off) := by
    intro w hf; unfold IsB20 at hf
    rw [show decodeRaw w = decodeCtl 24 w by simp only [decodeRaw, hf]; rfl]
    unfold decodeCtl
    simp only [hf, num8_val, num16_val, BitVec.ofNat_toNat, BitVec.setWidth_eq]; rfl
  exact of_raw rfl (by simp) (key _ hf) hf.2.2.2

theorem Sys2Proof.Laws.WordRoundTrip.brk (cc : BrkTest) (k : KReg) (off : BitVec 16) : Statement (.brk cc k off) := by
  cases cc
  · have hf := encB16_fields (show 25 < 128 by decide) (show 0 < 8 by decide) (show k.val < 16 by omega) (show off.toNat < 65536 by omega)
    have key : ∀ w, IsB16 w 25 0 k.val off.toNat → decodeRaw w = .ok (.brk .nz k off) := by
      intro w hf; unfold IsB16 at hf
      rw [show decodeRaw w = decodeCtl 25 w by simp only [decodeRaw, hf]; rfl]
      unfold decodeCtl
      simp only [hf, num8_val, num16_val, BitVec.ofNat_toNat, BitVec.setWidth_eq]; rfl
    exact of_raw rfl (by simp) (key _ hf) hf.2.2.2.2
  · have hf := encB16_fields (show 25 < 128 by decide) (show 1 < 8 by decide) (show k.val < 16 by omega) (show off.toNat < 65536 by omega)
    have key : ∀ w, IsB16 w 25 1 k.val off.toNat → decodeRaw w = .ok (.brk .z k off) := by
      intro w hf; unfold IsB16 at hf
      rw [show decodeRaw w = decodeCtl 25 w by simp only [decodeRaw, hf]; rfl]
      unfold decodeCtl
      simp only [hf, num8_val, num16_val, BitVec.ofNat_toNat, BitVec.setWidth_eq]; rfl
    exact of_raw rfl (by simp) (key _ hf) hf.2.2.2.2
  · have hf := encB16_fields (show 25 < 128 by decide) (show 2 < 8 by decide) (show k.val < 16 by omega) (show off.toNat < 65536 by omega)
    have key : ∀ w, IsB16 w 25 2 k.val off.toNat → decodeRaw w = .ok (.brk .any k off) := by
      intro w hf; unfold IsB16 at hf
      rw [show decodeRaw w = decodeCtl 25 w by simp only [decodeRaw, hf]; rfl]
      unfold decodeCtl
      simp only [hf, num8_val, num16_val, BitVec.ofNat_toNat, BitVec.setWidth_eq]; rfl
    exact of_raw rfl (by simp) (key _ hf) hf.2.2.2.2
  · have hf := encB16_fields (show 25 < 128 by decide) (show 3 < 8 by decide) (show k.val < 16 by omega) (show off.toNat < 65536 by omega)
    have key : ∀ w, IsB16 w 25 3 k.val off.toNat → decodeRaw w = .ok (.brk .all k off) := by
      intro w hf; unfold IsB16 at hf
      rw [show decodeRaw w = decodeCtl 25 w by simp only [decodeRaw, hf]; rfl]
      unfold decodeCtl
      simp only [hf, num8_val, num16_val, BitVec.ofNat_toNat, BitVec.setWidth_eq]; rfl
    exact of_raw rfl (by simp) (key _ hf) hf.2.2.2.2

theorem Sys2Proof.Laws.WordRoundTrip.brs (cc : BrsTest) (a : SReg) (off : BitVec 16) : Statement (.brs cc a off) := by
  cases cc
  · have hf := encB16_fields (show 26 < 128 by decide) (show 0 < 8 by decide) (show a.val < 16 by omega) (show off.toNat < 65536 by omega)
    have key : ∀ w, IsB16 w 26 0 a.val off.toNat → decodeRaw w = .ok (.brs .z a off) := by
      intro w hf; unfold IsB16 at hf
      rw [show decodeRaw w = decodeCtl 26 w by simp only [decodeRaw, hf]; rfl]
      unfold decodeCtl
      simp only [hf, num8_val, num16_val, BitVec.ofNat_toNat, BitVec.setWidth_eq]; rfl
    exact of_raw rfl (by simp) (key _ hf) hf.2.2.2.2
  · have hf := encB16_fields (show 26 < 128 by decide) (show 1 < 8 by decide) (show a.val < 16 by omega) (show off.toNat < 65536 by omega)
    have key : ∀ w, IsB16 w 26 1 a.val off.toNat → decodeRaw w = .ok (.brs .nz a off) := by
      intro w hf; unfold IsB16 at hf
      rw [show decodeRaw w = decodeCtl 26 w by simp only [decodeRaw, hf]; rfl]
      unfold decodeCtl
      simp only [hf, num8_val, num16_val, BitVec.ofNat_toNat, BitVec.setWidth_eq]; rfl
    exact of_raw rfl (by simp) (key _ hf) hf.2.2.2.2
  · have hf := encB16_fields (show 26 < 128 by decide) (show 2 < 8 by decide) (show a.val < 16 by omega) (show off.toNat < 65536 by omega)
    have key : ∀ w, IsB16 w 26 2 a.val off.toNat → decodeRaw w = .ok (.brs .ltz a off) := by
      intro w hf; unfold IsB16 at hf
      rw [show decodeRaw w = decodeCtl 26 w by simp only [decodeRaw, hf]; rfl]
      unfold decodeCtl
      simp only [hf, num8_val, num16_val, BitVec.ofNat_toNat, BitVec.setWidth_eq]; rfl
    exact of_raw rfl (by simp) (key _ hf) hf.2.2.2.2
  · have hf := encB16_fields (show 26 < 128 by decide) (show 3 < 8 by decide) (show a.val < 16 by omega) (show off.toNat < 65536 by omega)
    have key : ∀ w, IsB16 w 26 3 a.val off.toNat → decodeRaw w = .ok (.brs .gez a off) := by
      intro w hf; unfold IsB16 at hf
      rw [show decodeRaw w = decodeCtl 26 w by simp only [decodeRaw, hf]; rfl]
      unfold decodeCtl
      simp only [hf, num8_val, num16_val, BitVec.ofNat_toNat, BitVec.setWidth_eq]; rfl
    exact of_raw rfl (by simp) (key _ hf) hf.2.2.2.2
  · have hf := encB16_fields (show 26 < 128 by decide) (show 4 < 8 by decide) (show a.val < 16 by omega) (show off.toNat < 65536 by omega)
    have key : ∀ w, IsB16 w 26 4 a.val off.toNat → decodeRaw w = .ok (.brs .gtz a off) := by
      intro w hf; unfold IsB16 at hf
      rw [show decodeRaw w = decodeCtl 26 w by simp only [decodeRaw, hf]; rfl]
      unfold decodeCtl
      simp only [hf, num8_val, num16_val, BitVec.ofNat_toNat, BitVec.setWidth_eq]; rfl
    exact of_raw rfl (by simp) (key _ hf) hf.2.2.2.2
  · have hf := encB16_fields (show 26 < 128 by decide) (show 5 < 8 by decide) (show a.val < 16 by omega) (show off.toNat < 65536 by omega)
    have key : ∀ w, IsB16 w 26 5 a.val off.toNat → decodeRaw w = .ok (.brs .lez a off) := by
      intro w hf; unfold IsB16 at hf
      rw [show decodeRaw w = decodeCtl 26 w by simp only [decodeRaw, hf]; rfl]
      unfold decodeCtl
      simp only [hf, num8_val, num16_val, BitVec.ofNat_toNat, BitVec.setWidth_eq]; rfl
    exact of_raw rfl (by simp) (key _ hf) hf.2.2.2.2

theorem Sys2Proof.Laws.WordRoundTrip.jmp (a : AReg) : Statement (.jmp a) := by
  have hf := encR_fields (show 27 < 128 by decide) (show 0 < 128 by decide) (show a.val < 128 by omega) (show 0 < 128 by decide) (show 0 < 4 by decide)
  have key : ∀ w, IsR w 27 0 a.val 0 0 → decodeRaw w = .ok (.jmp a) := by
    intro w hf; unfold IsR at hf
    rw [show decodeRaw w = decodeCtl 27 w by simp only [decodeRaw, hf]; rfl]
    unfold decodeCtl
    simp only [hf, num8_val, num16_val, BitVec.ofNat_toNat, BitVec.setWidth_eq]; rfl
  exact of_raw rfl (by simp) (key _ hf) hf.2.2.2.2.2.2.2.2.2.2.2

theorem Sys2Proof.Laws.WordRoundTrip.callIndirect (d : AReg) (a : AReg) : Statement (.callIndirect d a) := by
  have hf := encR_fields (show 27 < 128 by decide) (show d.val < 128 by omega) (show a.val < 128 by omega) (show 0 < 128 by decide) (show 1 < 4 by decide)
  have key : ∀ w, IsR w 27 d.val a.val 0 1 → decodeRaw w = .ok (.callIndirect d a) := by
    intro w hf; unfold IsR at hf
    rw [show decodeRaw w = decodeCtl 27 w by simp only [decodeRaw, hf]; rfl]
    unfold decodeCtl
    simp only [hf, num8_val, num16_val, BitVec.ofNat_toNat, BitVec.setWidth_eq]; rfl
  exact of_raw rfl (by simp) (key _ hf) hf.2.2.2.2.2.2.2.2.2.2.2

theorem Sys2Proof.Laws.WordRoundTrip.ret (a : AReg) : Statement (.ret a) := by
  have hf := encR_fields (show 27 < 128 by decide) (show 0 < 128 by decide) (show a.val < 128 by omega) (show 0 < 128 by decide) (show 2 < 4 by decide)
  have key : ∀ w, IsR w 27 0 a.val 0 2 → decodeRaw w = .ok (.ret a) := by
    intro w hf; unfold IsR at hf
    rw [show decodeRaw w = decodeCtl 27 w by simp only [decodeRaw, hf]; rfl]
    unfold decodeCtl
    simp only [hf, num8_val, num16_val, BitVec.ofNat_toNat, BitVec.setWidth_eq]; rfl
  exact of_raw rfl (by simp) (key _ hf) hf.2.2.2.2.2.2.2.2.2.2.2

theorem Sys2Proof.Laws.WordRoundTrip.call (off : BitVec 20) : Statement (.call off) := by
  have hf := encB20_fields (show 28 < 128 by decide) (show 0 < 8 by decide) (show off.toNat < 1048576 by omega)
  have key : ∀ w, IsB20 w 28 0 off.toNat → decodeRaw w = .ok (.call off) := by
    intro w hf; unfold IsB20 at hf
    rw [show decodeRaw w = decodeCtl 28 w by simp only [decodeRaw, hf]; rfl]
    unfold decodeCtl
    simp only [hf, num8_val, num16_val, BitVec.ofNat_toNat, BitVec.setWidth_eq]; rfl
  exact of_raw rfl (by simp) (key _ hf) hf.2.2.2

theorem Sys2Proof.Laws.WordRoundTrip.loop (a : SReg) (off : BitVec 16) : Statement (.loop a off) := by
  have hf := encB16_fields (show 29 < 128 by decide) (show 0 < 8 by decide) (show a.val < 16 by omega) (show off.toNat < 65536 by omega)
  have key : ∀ w, IsB16 w 29 0 a.val off.toNat → decodeRaw w = .ok (.loop a off) := by
    intro w hf; unfold IsB16 at hf
    rw [show decodeRaw w = decodeCtl 29 w by simp only [decodeRaw, hf]; rfl]
    unfold decodeCtl
    simp only [hf, num8_val, num16_val, BitVec.ofNat_toNat, BitVec.setWidth_eq]; rfl
  exact of_raw rfl (by simp) (key _ hf) hf.2.2.2.2

theorem Sys2Proof.Laws.WordRoundTrip.fadd (x : Bool) (d : VReg) (a : Src) (b : Src) : Statement (.fadd x d a b) := by
  cases x
  · have hf := encR_fields (show 32 < 128 by decide) (show d.val < 128 by omega) (src_lt a) (src_lt b) (show 0 < 4 by decide)
    have key : ∀ w, IsR w 32 d.val a.code b.code 0 → decodeRaw w = .ok (.fadd false d a b) := by
      intro w hf; unfold IsR at hf
      rw [show decodeRaw w = decodeFloat 32 w by simp only [decodeRaw, hf]; rfl]
      unfold decodeFloat
      simp only [hf, vregOf_val, src_code, num8_val, cond_code, codeOr_some, fp8_code]; rfl
    exact of_raw rfl (by simp) (key _ hf) hf.2.2.2.2.2.2.2.2.2.2.2
  · have hf := encR_fields (show 32 < 128 by decide) (show d.val < 128 by omega) (src_lt a) (src_lt b) (show 2 < 4 by decide)
    have key : ∀ w, IsR w 32 d.val a.code b.code 2 → decodeRaw w = .ok (.fadd true d a b) := by
      intro w hf; unfold IsR at hf
      rw [show decodeRaw w = decodeFloat 32 w by simp only [decodeRaw, hf]; rfl]
      unfold decodeFloat
      simp only [hf, vregOf_val, src_code, num8_val, cond_code, codeOr_some, fp8_code]; rfl
    exact of_raw rfl (by simp) (key _ hf) hf.2.2.2.2.2.2.2.2.2.2.2

theorem Sys2Proof.Laws.WordRoundTrip.fsub (x : Bool) (d : VReg) (a : Src) (b : Src) : Statement (.fsub x d a b) := by
  cases x
  · have hf := encR_fields (show 32 < 128 by decide) (show d.val < 128 by omega) (src_lt a) (src_lt b) (show 1 < 4 by decide)
    have key : ∀ w, IsR w 32 d.val a.code b.code 1 → decodeRaw w = .ok (.fsub false d a b) := by
      intro w hf; unfold IsR at hf
      rw [show decodeRaw w = decodeFloat 32 w by simp only [decodeRaw, hf]; rfl]
      unfold decodeFloat
      simp only [hf, vregOf_val, src_code, num8_val, cond_code, codeOr_some, fp8_code]; rfl
    exact of_raw rfl (by simp) (key _ hf) hf.2.2.2.2.2.2.2.2.2.2.2
  · have hf := encR_fields (show 32 < 128 by decide) (show d.val < 128 by omega) (src_lt a) (src_lt b) (show 3 < 4 by decide)
    have key : ∀ w, IsR w 32 d.val a.code b.code 3 → decodeRaw w = .ok (.fsub true d a b) := by
      intro w hf; unfold IsR at hf
      rw [show decodeRaw w = decodeFloat 32 w by simp only [decodeRaw, hf]; rfl]
      unfold decodeFloat
      simp only [hf, vregOf_val, src_code, num8_val, cond_code, codeOr_some, fp8_code]; rfl
    exact of_raw rfl (by simp) (key _ hf) hf.2.2.2.2.2.2.2.2.2.2.2

theorem Sys2Proof.Laws.WordRoundTrip.fmul (x : Bool) (d : VReg) (a : Src) (b : Src) : Statement (.fmul x d a b) := by
  cases x
  · have hf := encR_fields (show 33 < 128 by decide) (show d.val < 128 by omega) (src_lt a) (src_lt b) (show 0 < 4 by decide)
    have key : ∀ w, IsR w 33 d.val a.code b.code 0 → decodeRaw w = .ok (.fmul false d a b) := by
      intro w hf; unfold IsR at hf
      rw [show decodeRaw w = decodeFloat 33 w by simp only [decodeRaw, hf]; rfl]
      unfold decodeFloat
      simp only [hf, vregOf_val, src_code, num8_val, cond_code, codeOr_some, fp8_code]; rfl
    exact of_raw rfl (by simp) (key _ hf) hf.2.2.2.2.2.2.2.2.2.2.2
  · have hf := encR_fields (show 33 < 128 by decide) (show d.val < 128 by omega) (src_lt a) (src_lt b) (show 2 < 4 by decide)
    have key : ∀ w, IsR w 33 d.val a.code b.code 2 → decodeRaw w = .ok (.fmul true d a b) := by
      intro w hf; unfold IsR at hf
      rw [show decodeRaw w = decodeFloat 33 w by simp only [decodeRaw, hf]; rfl]
      unfold decodeFloat
      simp only [hf, vregOf_val, src_code, num8_val, cond_code, codeOr_some, fp8_code]; rfl
    exact of_raw rfl (by simp) (key _ hf) hf.2.2.2.2.2.2.2.2.2.2.2

theorem Sys2Proof.Laws.WordRoundTrip.ffma (x : Bool) (d : VReg) (a : Src) (b : Src) : Statement (.ffma x d a b) := by
  cases x
  · have hf := encR_fields (show 34 < 128 by decide) (show d.val < 128 by omega) (src_lt a) (src_lt b) (show 0 < 4 by decide)
    have key : ∀ w, IsR w 34 d.val a.code b.code 0 → decodeRaw w = .ok (.ffma false d a b) := by
      intro w hf; unfold IsR at hf
      rw [show decodeRaw w = decodeFloat 34 w by simp only [decodeRaw, hf]; rfl]
      unfold decodeFloat
      simp only [hf, vregOf_val, src_code, num8_val, cond_code, codeOr_some, fp8_code]; rfl
    exact of_raw rfl (by simp) (key _ hf) hf.2.2.2.2.2.2.2.2.2.2.2
  · have hf := encR_fields (show 34 < 128 by decide) (show d.val < 128 by omega) (src_lt a) (src_lt b) (show 2 < 4 by decide)
    have key : ∀ w, IsR w 34 d.val a.code b.code 2 → decodeRaw w = .ok (.ffma true d a b) := by
      intro w hf; unfold IsR at hf
      rw [show decodeRaw w = decodeFloat 34 w by simp only [decodeRaw, hf]; rfl]
      unfold decodeFloat
      simp only [hf, vregOf_val, src_code, num8_val, cond_code, codeOr_some, fp8_code]; rfl
    exact of_raw rfl (by simp) (key _ hf) hf.2.2.2.2.2.2.2.2.2.2.2

theorem Sys2Proof.Laws.WordRoundTrip.fmin (x : Bool) (d : VReg) (a : Src) (b : Src) : Statement (.fmin x d a b) := by
  cases x
  · have hf := encR_fields (show 35 < 128 by decide) (show d.val < 128 by omega) (src_lt a) (src_lt b) (show 0 < 4 by decide)
    have key : ∀ w, IsR w 35 d.val a.code b.code 0 → decodeRaw w = .ok (.fmin false d a b) := by
      intro w hf; unfold IsR at hf
      rw [show decodeRaw w = decodeFloat 35 w by simp only [decodeRaw, hf]; rfl]
      unfold decodeFloat
      simp only [hf, vregOf_val, src_code, num8_val, cond_code, codeOr_some, fp8_code]; rfl
    exact of_raw rfl (by simp) (key _ hf) hf.2.2.2.2.2.2.2.2.2.2.2
  · have hf := encR_fields (show 35 < 128 by decide) (show d.val < 128 by omega) (src_lt a) (src_lt b) (show 2 < 4 by decide)
    have key : ∀ w, IsR w 35 d.val a.code b.code 2 → decodeRaw w = .ok (.fmin true d a b) := by
      intro w hf; unfold IsR at hf
      rw [show decodeRaw w = decodeFloat 35 w by simp only [decodeRaw, hf]; rfl]
      unfold decodeFloat
      simp only [hf, vregOf_val, src_code, num8_val, cond_code, codeOr_some, fp8_code]; rfl
    exact of_raw rfl (by simp) (key _ hf) hf.2.2.2.2.2.2.2.2.2.2.2

theorem Sys2Proof.Laws.WordRoundTrip.fmax (x : Bool) (d : VReg) (a : Src) (b : Src) : Statement (.fmax x d a b) := by
  cases x
  · have hf := encR_fields (show 35 < 128 by decide) (show d.val < 128 by omega) (src_lt a) (src_lt b) (show 1 < 4 by decide)
    have key : ∀ w, IsR w 35 d.val a.code b.code 1 → decodeRaw w = .ok (.fmax false d a b) := by
      intro w hf; unfold IsR at hf
      rw [show decodeRaw w = decodeFloat 35 w by simp only [decodeRaw, hf]; rfl]
      unfold decodeFloat
      simp only [hf, vregOf_val, src_code, num8_val, cond_code, codeOr_some, fp8_code]; rfl
    exact of_raw rfl (by simp) (key _ hf) hf.2.2.2.2.2.2.2.2.2.2.2
  · have hf := encR_fields (show 35 < 128 by decide) (show d.val < 128 by omega) (src_lt a) (src_lt b) (show 3 < 4 by decide)
    have key : ∀ w, IsR w 35 d.val a.code b.code 3 → decodeRaw w = .ok (.fmax true d a b) := by
      intro w hf; unfold IsR at hf
      rw [show decodeRaw w = decodeFloat 35 w by simp only [decodeRaw, hf]; rfl]
      unfold decodeFloat
      simp only [hf, vregOf_val, src_code, num8_val, cond_code, codeOr_some, fp8_code]; rfl
    exact of_raw rfl (by simp) (key _ hf) hf.2.2.2.2.2.2.2.2.2.2.2

theorem Sys2Proof.Laws.WordRoundTrip.fcmp (x : Bool) (cc : Cond) (k : KReg) (a : Src) (b : Src) : Statement (.fcmp x cc k a b) := by
  cases x
  · have hf := encRK_fields (show 36 < 128 by decide) (cond_lt cc) (show k.val < 8 by omega) (src_lt a) (src_lt b) (show 0 < 4 by decide)
    have key : ∀ w, IsRK w 36 cc.code k.val a.code b.code 0 → decodeRaw w = .ok (.fcmp false cc k a b) := by
      intro w hf; unfold IsRK at hf
      rw [show decodeRaw w = decodeFloat 36 w by simp only [decodeRaw, hf]; rfl]
      unfold decodeFloat
      simp only [hf, vregOf_val, src_code, num8_val, cond_code, codeOr_some, fp8_code]; rfl
    exact of_raw rfl (by simp) (key _ hf) hf.2.2.2.2.2.2.2.2.2
  · have hf := encRK_fields (show 36 < 128 by decide) (cond_lt cc) (show k.val < 8 by omega) (src_lt a) (src_lt b) (show 2 < 4 by decide)
    have key : ∀ w, IsRK w 36 cc.code k.val a.code b.code 2 → decodeRaw w = .ok (.fcmp true cc k a b) := by
      intro w hf; unfold IsRK at hf
      rw [show decodeRaw w = decodeFloat 36 w by simp only [decodeRaw, hf]; rfl]
      unfold decodeFloat
      simp only [hf, vregOf_val, src_code, num8_val, cond_code, codeOr_some, fp8_code]; rfl
    exact of_raw rfl (by simp) (key _ hf) hf.2.2.2.2.2.2.2.2.2

theorem Sys2Proof.Laws.WordRoundTrip.fclass (x : Bool) (d : VReg) (a : Src) : Statement (.fclass x d a) := by
  cases x
  · have hf := encR_fields (show 37 < 128 by decide) (show d.val < 128 by omega) (src_lt a) (show 0 < 128 by decide) (show 0 < 4 by decide)
    have key : ∀ w, IsR w 37 d.val a.code 0 0 → decodeRaw w = .ok (.fclass false d a) := by
      intro w hf; unfold IsR at hf
      rw [show decodeRaw w = decodeFloat 37 w by simp only [decodeRaw, hf]; rfl]
      unfold decodeFloat
      simp only [hf, vregOf_val, src_code, num8_val, cond_code, codeOr_some, fp8_code]; rfl
    exact of_raw rfl (by simp) (key _ hf) hf.2.2.2.2.2.2.2.2.2.2.2
  · have hf := encR_fields (show 37 < 128 by decide) (show d.val < 128 by omega) (src_lt a) (show 0 < 128 by decide) (show 2 < 4 by decide)
    have key : ∀ w, IsR w 37 d.val a.code 0 2 → decodeRaw w = .ok (.fclass true d a) := by
      intro w hf; unfold IsR at hf
      rw [show decodeRaw w = decodeFloat 37 w by simp only [decodeRaw, hf]; rfl]
      unfold decodeFloat
      simp only [hf, vregOf_val, src_code, num8_val, cond_code, codeOr_some, fp8_code]; rfl
    exact of_raw rfl (by simp) (key _ hf) hf.2.2.2.2.2.2.2.2.2.2.2

theorem Sys2Proof.Laws.WordRoundTrip.frnd (x : Bool) (d : VReg) (a : Src) : Statement (.frnd x d a) := by
  cases x
  · have hf := encR_fields (show 37 < 128 by decide) (show d.val < 128 by omega) (src_lt a) (show 0 < 128 by decide) (show 1 < 4 by decide)
    have key : ∀ w, IsR w 37 d.val a.code 0 1 → decodeRaw w = .ok (.frnd false d a) := by
      intro w hf; unfold IsR at hf
      rw [show decodeRaw w = decodeFloat 37 w by simp only [decodeRaw, hf]; rfl]
      unfold decodeFloat
      simp only [hf, vregOf_val, src_code, num8_val, cond_code, codeOr_some, fp8_code]; rfl
    exact of_raw rfl (by simp) (key _ hf) hf.2.2.2.2.2.2.2.2.2.2.2
  · have hf := encR_fields (show 37 < 128 by decide) (show d.val < 128 by omega) (src_lt a) (show 0 < 128 by decide) (show 3 < 4 by decide)
    have key : ∀ w, IsR w 37 d.val a.code 0 3 → decodeRaw w = .ok (.frnd true d a) := by
      intro w hf; unfold IsR at hf
      rw [show decodeRaw w = decodeFloat 37 w by simp only [decodeRaw, hf]; rfl]
      unfold decodeFloat
      simp only [hf, vregOf_val, src_code, num8_val, cond_code, codeOr_some, fp8_code]; rfl
    exact of_raw rfl (by simp) (key _ hf) hf.2.2.2.2.2.2.2.2.2.2.2

theorem Sys2Proof.Laws.WordRoundTrip.hadd2 (x : Bool) (bf : Bool) (d : VReg) (a : Src) (b : Src) : Statement (.hadd2 x bf d a b) := by
  cases x <;> cases bf
  · have hf := encR_fields (show 38 < 128 by decide) (show d.val < 128 by omega) (src_lt a) (src_lt b) (show 0 < 4 by decide)
    have key : ∀ w, IsR w 38 d.val a.code b.code 0 → decodeRaw w = .ok (.hadd2 false false d a b) := by
      intro w hf; unfold IsR at hf
      rw [show decodeRaw w = decodeFloat 38 w by simp only [decodeRaw, hf]; rfl]
      unfold decodeFloat
      simp only [hf, vregOf_val, src_code, num8_val, cond_code, codeOr_some, fp8_code]; rfl
    exact of_raw rfl (by simp) (key _ hf) hf.2.2.2.2.2.2.2.2.2.2.2
  · have hf := encR_fields (show 38 < 128 by decide) (show d.val < 128 by omega) (src_lt a) (src_lt b) (show 1 < 4 by decide)
    have key : ∀ w, IsR w 38 d.val a.code b.code 1 → decodeRaw w = .ok (.hadd2 false true d a b) := by
      intro w hf; unfold IsR at hf
      rw [show decodeRaw w = decodeFloat 38 w by simp only [decodeRaw, hf]; rfl]
      unfold decodeFloat
      simp only [hf, vregOf_val, src_code, num8_val, cond_code, codeOr_some, fp8_code]; rfl
    exact of_raw rfl (by simp) (key _ hf) hf.2.2.2.2.2.2.2.2.2.2.2
  · have hf := encR_fields (show 38 < 128 by decide) (show d.val < 128 by omega) (src_lt a) (src_lt b) (show 2 < 4 by decide)
    have key : ∀ w, IsR w 38 d.val a.code b.code 2 → decodeRaw w = .ok (.hadd2 true false d a b) := by
      intro w hf; unfold IsR at hf
      rw [show decodeRaw w = decodeFloat 38 w by simp only [decodeRaw, hf]; rfl]
      unfold decodeFloat
      simp only [hf, vregOf_val, src_code, num8_val, cond_code, codeOr_some, fp8_code]; rfl
    exact of_raw rfl (by simp) (key _ hf) hf.2.2.2.2.2.2.2.2.2.2.2
  · have hf := encR_fields (show 38 < 128 by decide) (show d.val < 128 by omega) (src_lt a) (src_lt b) (show 3 < 4 by decide)
    have key : ∀ w, IsR w 38 d.val a.code b.code 3 → decodeRaw w = .ok (.hadd2 true true d a b) := by
      intro w hf; unfold IsR at hf
      rw [show decodeRaw w = decodeFloat 38 w by simp only [decodeRaw, hf]; rfl]
      unfold decodeFloat
      simp only [hf, vregOf_val, src_code, num8_val, cond_code, codeOr_some, fp8_code]; rfl
    exact of_raw rfl (by simp) (key _ hf) hf.2.2.2.2.2.2.2.2.2.2.2

theorem Sys2Proof.Laws.WordRoundTrip.hmul2 (x : Bool) (bf : Bool) (d : VReg) (a : Src) (b : Src) : Statement (.hmul2 x bf d a b) := by
  cases x <;> cases bf
  · have hf := encR_fields (show 39 < 128 by decide) (show d.val < 128 by omega) (src_lt a) (src_lt b) (show 0 < 4 by decide)
    have key : ∀ w, IsR w 39 d.val a.code b.code 0 → decodeRaw w = .ok (.hmul2 false false d a b) := by
      intro w hf; unfold IsR at hf
      rw [show decodeRaw w = decodeFloat 39 w by simp only [decodeRaw, hf]; rfl]
      unfold decodeFloat
      simp only [hf, vregOf_val, src_code, num8_val, cond_code, codeOr_some, fp8_code]; rfl
    exact of_raw rfl (by simp) (key _ hf) hf.2.2.2.2.2.2.2.2.2.2.2
  · have hf := encR_fields (show 39 < 128 by decide) (show d.val < 128 by omega) (src_lt a) (src_lt b) (show 1 < 4 by decide)
    have key : ∀ w, IsR w 39 d.val a.code b.code 1 → decodeRaw w = .ok (.hmul2 false true d a b) := by
      intro w hf; unfold IsR at hf
      rw [show decodeRaw w = decodeFloat 39 w by simp only [decodeRaw, hf]; rfl]
      unfold decodeFloat
      simp only [hf, vregOf_val, src_code, num8_val, cond_code, codeOr_some, fp8_code]; rfl
    exact of_raw rfl (by simp) (key _ hf) hf.2.2.2.2.2.2.2.2.2.2.2
  · have hf := encR_fields (show 39 < 128 by decide) (show d.val < 128 by omega) (src_lt a) (src_lt b) (show 2 < 4 by decide)
    have key : ∀ w, IsR w 39 d.val a.code b.code 2 → decodeRaw w = .ok (.hmul2 true false d a b) := by
      intro w hf; unfold IsR at hf
      rw [show decodeRaw w = decodeFloat 39 w by simp only [decodeRaw, hf]; rfl]
      unfold decodeFloat
      simp only [hf, vregOf_val, src_code, num8_val, cond_code, codeOr_some, fp8_code]; rfl
    exact of_raw rfl (by simp) (key _ hf) hf.2.2.2.2.2.2.2.2.2.2.2
  · have hf := encR_fields (show 39 < 128 by decide) (show d.val < 128 by omega) (src_lt a) (src_lt b) (show 3 < 4 by decide)
    have key : ∀ w, IsR w 39 d.val a.code b.code 3 → decodeRaw w = .ok (.hmul2 true true d a b) := by
      intro w hf; unfold IsR at hf
      rw [show decodeRaw w = decodeFloat 39 w by simp only [decodeRaw, hf]; rfl]
      unfold decodeFloat
      simp only [hf, vregOf_val, src_code, num8_val, cond_code, codeOr_some, fp8_code]; rfl
    exact of_raw rfl (by simp) (key _ hf) hf.2.2.2.2.2.2.2.2.2.2.2

theorem Sys2Proof.Laws.WordRoundTrip.hfma2 (x : Bool) (bf : Bool) (d : VReg) (a : Src) (b : Src) : Statement (.hfma2 x bf d a b) := by
  cases x <;> cases bf
  · have hf := encR_fields (show 40 < 128 by decide) (show d.val < 128 by omega) (src_lt a) (src_lt b) (show 0 < 4 by decide)
    have key : ∀ w, IsR w 40 d.val a.code b.code 0 → decodeRaw w = .ok (.hfma2 false false d a b) := by
      intro w hf; unfold IsR at hf
      rw [show decodeRaw w = decodeFloat 40 w by simp only [decodeRaw, hf]; rfl]
      unfold decodeFloat
      simp only [hf, vregOf_val, src_code, num8_val, cond_code, codeOr_some, fp8_code]; rfl
    exact of_raw rfl (by simp) (key _ hf) hf.2.2.2.2.2.2.2.2.2.2.2
  · have hf := encR_fields (show 40 < 128 by decide) (show d.val < 128 by omega) (src_lt a) (src_lt b) (show 1 < 4 by decide)
    have key : ∀ w, IsR w 40 d.val a.code b.code 1 → decodeRaw w = .ok (.hfma2 false true d a b) := by
      intro w hf; unfold IsR at hf
      rw [show decodeRaw w = decodeFloat 40 w by simp only [decodeRaw, hf]; rfl]
      unfold decodeFloat
      simp only [hf, vregOf_val, src_code, num8_val, cond_code, codeOr_some, fp8_code]; rfl
    exact of_raw rfl (by simp) (key _ hf) hf.2.2.2.2.2.2.2.2.2.2.2
  · have hf := encR_fields (show 40 < 128 by decide) (show d.val < 128 by omega) (src_lt a) (src_lt b) (show 2 < 4 by decide)
    have key : ∀ w, IsR w 40 d.val a.code b.code 2 → decodeRaw w = .ok (.hfma2 true false d a b) := by
      intro w hf; unfold IsR at hf
      rw [show decodeRaw w = decodeFloat 40 w by simp only [decodeRaw, hf]; rfl]
      unfold decodeFloat
      simp only [hf, vregOf_val, src_code, num8_val, cond_code, codeOr_some, fp8_code]; rfl
    exact of_raw rfl (by simp) (key _ hf) hf.2.2.2.2.2.2.2.2.2.2.2
  · have hf := encR_fields (show 40 < 128 by decide) (show d.val < 128 by omega) (src_lt a) (src_lt b) (show 3 < 4 by decide)
    have key : ∀ w, IsR w 40 d.val a.code b.code 3 → decodeRaw w = .ok (.hfma2 true true d a b) := by
      intro w hf; unfold IsR at hf
      rw [show decodeRaw w = decodeFloat 40 w by simp only [decodeRaw, hf]; rfl]
      unfold decodeFloat
      simp only [hf, vregOf_val, src_code, num8_val, cond_code, codeOr_some, fp8_code]; rfl
    exact of_raw rfl (by simp) (key _ hf) hf.2.2.2.2.2.2.2.2.2.2.2

theorem Sys2Proof.Laws.WordRoundTrip.dot4F8 (fa : Fp8) (fb : Fp8) (d : VReg) (a : Src) (b : Src) : Statement (.dot4F8 fa fb d a b) := by
  cases fa <;> cases fb
  · have hf := encR_fields (show 41 < 128 by decide) (show d.val < 128 by omega) (src_lt a) (src_lt b) (show 0 < 4 by decide)
    have key : ∀ w, IsR w 41 d.val a.code b.code 0 → decodeRaw w = .ok (.dot4F8 .e4m3 .e4m3 d a b) := by
      intro w hf; unfold IsR at hf
      rw [show decodeRaw w = decodeFloat 41 w by simp only [decodeRaw, hf]; rfl]
      unfold decodeFloat
      simp only [hf, vregOf_val, src_code, num8_val, cond_code, codeOr_some, fp8_code, Fp8.ofBit]; rfl
    exact of_raw rfl (by simp) (key _ hf) hf.2.2.2.2.2.2.2.2.2.2.2
  · have hf := encR_fields (show 41 < 128 by decide) (show d.val < 128 by omega) (src_lt a) (src_lt b) (show 1 < 4 by decide)
    have key : ∀ w, IsR w 41 d.val a.code b.code 1 → decodeRaw w = .ok (.dot4F8 .e4m3 .e5m2 d a b) := by
      intro w hf; unfold IsR at hf
      rw [show decodeRaw w = decodeFloat 41 w by simp only [decodeRaw, hf]; rfl]
      unfold decodeFloat
      simp only [hf, vregOf_val, src_code, num8_val, cond_code, codeOr_some, fp8_code, Fp8.ofBit]; rfl
    exact of_raw rfl (by simp) (key _ hf) hf.2.2.2.2.2.2.2.2.2.2.2
  · have hf := encR_fields (show 41 < 128 by decide) (show d.val < 128 by omega) (src_lt a) (src_lt b) (show 2 < 4 by decide)
    have key : ∀ w, IsR w 41 d.val a.code b.code 2 → decodeRaw w = .ok (.dot4F8 .e5m2 .e4m3 d a b) := by
      intro w hf; unfold IsR at hf
      rw [show decodeRaw w = decodeFloat 41 w by simp only [decodeRaw, hf]; rfl]
      unfold decodeFloat
      simp only [hf, vregOf_val, src_code, num8_val, cond_code, codeOr_some, fp8_code, Fp8.ofBit]; rfl
    exact of_raw rfl (by simp) (key _ hf) hf.2.2.2.2.2.2.2.2.2.2.2
  · have hf := encR_fields (show 41 < 128 by decide) (show d.val < 128 by omega) (src_lt a) (src_lt b) (show 3 < 4 by decide)
    have key : ∀ w, IsR w 41 d.val a.code b.code 3 → decodeRaw w = .ok (.dot4F8 .e5m2 .e5m2 d a b) := by
      intro w hf; unfold IsR at hf
      rw [show decodeRaw w = decodeFloat 41 w by simp only [decodeRaw, hf]; rfl]
      unfold decodeFloat
      simp only [hf, vregOf_val, src_code, num8_val, cond_code, codeOr_some, fp8_code, Fp8.ofBit]; rfl
    exact of_raw rfl (by simp) (key _ hf) hf.2.2.2.2.2.2.2.2.2.2.2

theorem Sys2Proof.Laws.WordRoundTrip.dot4I8 (ua : Bool) (ub : Bool) (d : VReg) (a : Src) (b : Src) : Statement (.dot4I8 ua ub d a b) := by
  cases ua <;> cases ub
  · have hf := encR_fields (show 42 < 128 by decide) (show d.val < 128 by omega) (src_lt a) (src_lt b) (show 0 < 4 by decide)
    have key : ∀ w, IsR w 42 d.val a.code b.code 0 → decodeRaw w = .ok (.dot4I8 false false d a b) := by
      intro w hf; unfold IsR at hf
      rw [show decodeRaw w = decodeFloat 42 w by simp only [decodeRaw, hf]; rfl]
      unfold decodeFloat
      simp only [hf, vregOf_val, src_code, num8_val, cond_code, codeOr_some, fp8_code]; rfl
    exact of_raw rfl (by simp) (key _ hf) hf.2.2.2.2.2.2.2.2.2.2.2
  · have hf := encR_fields (show 42 < 128 by decide) (show d.val < 128 by omega) (src_lt a) (src_lt b) (show 1 < 4 by decide)
    have key : ∀ w, IsR w 42 d.val a.code b.code 1 → decodeRaw w = .ok (.dot4I8 false true d a b) := by
      intro w hf; unfold IsR at hf
      rw [show decodeRaw w = decodeFloat 42 w by simp only [decodeRaw, hf]; rfl]
      unfold decodeFloat
      simp only [hf, vregOf_val, src_code, num8_val, cond_code, codeOr_some, fp8_code]; rfl
    exact of_raw rfl (by simp) (key _ hf) hf.2.2.2.2.2.2.2.2.2.2.2
  · have hf := encR_fields (show 42 < 128 by decide) (show d.val < 128 by omega) (src_lt a) (src_lt b) (show 2 < 4 by decide)
    have key : ∀ w, IsR w 42 d.val a.code b.code 2 → decodeRaw w = .ok (.dot4I8 true false d a b) := by
      intro w hf; unfold IsR at hf
      rw [show decodeRaw w = decodeFloat 42 w by simp only [decodeRaw, hf]; rfl]
      unfold decodeFloat
      simp only [hf, vregOf_val, src_code, num8_val, cond_code, codeOr_some, fp8_code]; rfl
    exact of_raw rfl (by simp) (key _ hf) hf.2.2.2.2.2.2.2.2.2.2.2
  · have hf := encR_fields (show 42 < 128 by decide) (show d.val < 128 by omega) (src_lt a) (src_lt b) (show 3 < 4 by decide)
    have key : ∀ w, IsR w 42 d.val a.code b.code 3 → decodeRaw w = .ok (.dot4I8 true true d a b) := by
      intro w hf; unfold IsR at hf
      rw [show decodeRaw w = decodeFloat 42 w by simp only [decodeRaw, hf]; rfl]
      unfold decodeFloat
      simp only [hf, vregOf_val, src_code, num8_val, cond_code, codeOr_some, fp8_code]; rfl
    exact of_raw rfl (by simp) (key _ hf) hf.2.2.2.2.2.2.2.2.2.2.2

theorem Sys2Proof.Laws.WordRoundTrip.rcp (x : Bool) (d : VReg) (a : Src) : Statement (.rcp x d a) := by
  cases x
  · have hf := encR_fields (show 50 < 128 by decide) (show d.val < 128 by omega) (src_lt a) (show 0 < 128 by decide) (show 0 < 4 by decide)
    have key : ∀ w, IsR w 50 d.val a.code 0 0 → decodeRaw w = .ok (.rcp false d a) := by
      intro w hf; unfold IsR at hf
      rw [show decodeRaw w = decodeFloat 50 w by simp only [decodeRaw, hf]; rfl]
      unfold decodeFloat
      simp only [hf, vregOf_val, src_code, num8_val, cond_code, codeOr_some, fp8_code]; rfl
    exact of_raw rfl (by simp) (key _ hf) hf.2.2.2.2.2.2.2.2.2.2.2
  · have hf := encR_fields (show 50 < 128 by decide) (show d.val < 128 by omega) (src_lt a) (show 0 < 128 by decide) (show 2 < 4 by decide)
    have key : ∀ w, IsR w 50 d.val a.code 0 2 → decodeRaw w = .ok (.rcp true d a) := by
      intro w hf; unfold IsR at hf
      rw [show decodeRaw w = decodeFloat 50 w by simp only [decodeRaw, hf]; rfl]
      unfold decodeFloat
      simp only [hf, vregOf_val, src_code, num8_val, cond_code, codeOr_some, fp8_code]; rfl
    exact of_raw rfl (by simp) (key _ hf) hf.2.2.2.2.2.2.2.2.2.2.2

theorem Sys2Proof.Laws.WordRoundTrip.rsq (x : Bool) (d : VReg) (a : Src) : Statement (.rsq x d a) := by
  cases x
  · have hf := encR_fields (show 50 < 128 by decide) (show d.val < 128 by omega) (src_lt a) (show 0 < 128 by decide) (show 1 < 4 by decide)
    have key : ∀ w, IsR w 50 d.val a.code 0 1 → decodeRaw w = .ok (.rsq false d a) := by
      intro w hf; unfold IsR at hf
      rw [show decodeRaw w = decodeFloat 50 w by simp only [decodeRaw, hf]; rfl]
      unfold decodeFloat
      simp only [hf, vregOf_val, src_code, num8_val, cond_code, codeOr_some, fp8_code]; rfl
    exact of_raw rfl (by simp) (key _ hf) hf.2.2.2.2.2.2.2.2.2.2.2
  · have hf := encR_fields (show 50 < 128 by decide) (show d.val < 128 by omega) (src_lt a) (show 0 < 128 by decide) (show 3 < 4 by decide)
    have key : ∀ w, IsR w 50 d.val a.code 0 3 → decodeRaw w = .ok (.rsq true d a) := by
      intro w hf; unfold IsR at hf
      rw [show decodeRaw w = decodeFloat 50 w by simp only [decodeRaw, hf]; rfl]
      unfold decodeFloat
      simp only [hf, vregOf_val, src_code, num8_val, cond_code, codeOr_some, fp8_code]; rfl
    exact of_raw rfl (by simp) (key _ hf) hf.2.2.2.2.2.2.2.2.2.2.2

theorem Sys2Proof.Laws.WordRoundTrip.sqrt (x : Bool) (d : VReg) (a : Src) : Statement (.sqrt x d a) := by
  cases x
  · have hf := encR_fields (show 51 < 128 by decide) (show d.val < 128 by omega) (src_lt a) (show 0 < 128 by decide) (show 0 < 4 by decide)
    have key : ∀ w, IsR w 51 d.val a.code 0 0 → decodeRaw w = .ok (.sqrt false d a) := by
      intro w hf; unfold IsR at hf
      rw [show decodeRaw w = decodeFloat 51 w by simp only [decodeRaw, hf]; rfl]
      unfold decodeFloat
      simp only [hf, vregOf_val, src_code, num8_val, cond_code, codeOr_some, fp8_code]; rfl
    exact of_raw rfl (by simp) (key _ hf) hf.2.2.2.2.2.2.2.2.2.2.2
  · have hf := encR_fields (show 51 < 128 by decide) (show d.val < 128 by omega) (src_lt a) (show 0 < 128 by decide) (show 2 < 4 by decide)
    have key : ∀ w, IsR w 51 d.val a.code 0 2 → decodeRaw w = .ok (.sqrt true d a) := by
      intro w hf; unfold IsR at hf
      rw [show decodeRaw w = decodeFloat 51 w by simp only [decodeRaw, hf]; rfl]
      unfold decodeFloat
      simp only [hf, vregOf_val, src_code, num8_val, cond_code, codeOr_some, fp8_code]; rfl
    exact of_raw rfl (by simp) (key _ hf) hf.2.2.2.2.2.2.2.2.2.2.2

theorem Sys2Proof.Laws.WordRoundTrip.log2 (x : Bool) (d : VReg) (a : Src) : Statement (.log2 x d a) := by
  cases x
  · have hf := encR_fields (show 51 < 128 by decide) (show d.val < 128 by omega) (src_lt a) (show 0 < 128 by decide) (show 1 < 4 by decide)
    have key : ∀ w, IsR w 51 d.val a.code 0 1 → decodeRaw w = .ok (.log2 false d a) := by
      intro w hf; unfold IsR at hf
      rw [show decodeRaw w = decodeFloat 51 w by simp only [decodeRaw, hf]; rfl]
      unfold decodeFloat
      simp only [hf, vregOf_val, src_code, num8_val, cond_code, codeOr_some, fp8_code]; rfl
    exact of_raw rfl (by simp) (key _ hf) hf.2.2.2.2.2.2.2.2.2.2.2
  · have hf := encR_fields (show 51 < 128 by decide) (show d.val < 128 by omega) (src_lt a) (show 0 < 128 by decide) (show 3 < 4 by decide)
    have key : ∀ w, IsR w 51 d.val a.code 0 3 → decodeRaw w = .ok (.log2 true d a) := by
      intro w hf; unfold IsR at hf
      rw [show decodeRaw w = decodeFloat 51 w by simp only [decodeRaw, hf]; rfl]
      unfold decodeFloat
      simp only [hf, vregOf_val, src_code, num8_val, cond_code, codeOr_some, fp8_code]; rfl
    exact of_raw rfl (by simp) (key _ hf) hf.2.2.2.2.2.2.2.2.2.2.2

theorem Sys2Proof.Laws.WordRoundTrip.exp2 (x : Bool) (d : VReg) (a : Src) : Statement (.exp2 x d a) := by
  cases x
  · have hf := encR_fields (show 52 < 128 by decide) (show d.val < 128 by omega) (src_lt a) (show 0 < 128 by decide) (show 0 < 4 by decide)
    have key : ∀ w, IsR w 52 d.val a.code 0 0 → decodeRaw w = .ok (.exp2 false d a) := by
      intro w hf; unfold IsR at hf
      rw [show decodeRaw w = decodeFloat 52 w by simp only [decodeRaw, hf]; rfl]
      unfold decodeFloat
      simp only [hf, vregOf_val, src_code, num8_val, cond_code, codeOr_some, fp8_code]; rfl
    exact of_raw rfl (by simp) (key _ hf) hf.2.2.2.2.2.2.2.2.2.2.2
  · have hf := encR_fields (show 52 < 128 by decide) (show d.val < 128 by omega) (src_lt a) (show 0 < 128 by decide) (show 2 < 4 by decide)
    have key : ∀ w, IsR w 52 d.val a.code 0 2 → decodeRaw w = .ok (.exp2 true d a) := by
      intro w hf; unfold IsR at hf
      rw [show decodeRaw w = decodeFloat 52 w by simp only [decodeRaw, hf]; rfl]
      unfold decodeFloat
      simp only [hf, vregOf_val, src_code, num8_val, cond_code, codeOr_some, fp8_code]; rfl
    exact of_raw rfl (by simp) (key _ hf) hf.2.2.2.2.2.2.2.2.2.2.2

theorem Sys2Proof.Laws.WordRoundTrip.sin (x : Bool) (d : VReg) (a : Src) : Statement (.sin x d a) := by
  cases x
  · have hf := encR_fields (show 53 < 128 by decide) (show d.val < 128 by omega) (src_lt a) (show 0 < 128 by decide) (show 0 < 4 by decide)
    have key : ∀ w, IsR w 53 d.val a.code 0 0 → decodeRaw w = .ok (.sin false d a) := by
      intro w hf; unfold IsR at hf
      rw [show decodeRaw w = decodeFloat 53 w by simp only [decodeRaw, hf]; rfl]
      unfold decodeFloat
      simp only [hf, vregOf_val, src_code, num8_val, cond_code, codeOr_some, fp8_code]; rfl
    exact of_raw rfl (by simp) (key _ hf) hf.2.2.2.2.2.2.2.2.2.2.2
  · have hf := encR_fields (show 53 < 128 by decide) (show d.val < 128 by omega) (src_lt a) (show 0 < 128 by decide) (show 2 < 4 by decide)
    have key : ∀ w, IsR w 53 d.val a.code 0 2 → decodeRaw w = .ok (.sin true d a) := by
      intro w hf; unfold IsR at hf
      rw [show decodeRaw w = decodeFloat 53 w by simp only [decodeRaw, hf]; rfl]
      unfold decodeFloat
      simp only [hf, vregOf_val, src_code, num8_val, cond_code, codeOr_some, fp8_code]; rfl
    exact of_raw rfl (by simp) (key _ hf) hf.2.2.2.2.2.2.2.2.2.2.2

theorem Sys2Proof.Laws.WordRoundTrip.cos (x : Bool) (d : VReg) (a : Src) : Statement (.cos x d a) := by
  cases x
  · have hf := encR_fields (show 53 < 128 by decide) (show d.val < 128 by omega) (src_lt a) (show 0 < 128 by decide) (show 1 < 4 by decide)
    have key : ∀ w, IsR w 53 d.val a.code 0 1 → decodeRaw w = .ok (.cos false d a) := by
      intro w hf; unfold IsR at hf
      rw [show decodeRaw w = decodeFloat 53 w by simp only [decodeRaw, hf]; rfl]
      unfold decodeFloat
      simp only [hf, vregOf_val, src_code, num8_val, cond_code, codeOr_some, fp8_code]; rfl
    exact of_raw rfl (by simp) (key _ hf) hf.2.2.2.2.2.2.2.2.2.2.2
  · have hf := encR_fields (show 53 < 128 by decide) (show d.val < 128 by omega) (src_lt a) (show 0 < 128 by decide) (show 3 < 4 by decide)
    have key : ∀ w, IsR w 53 d.val a.code 0 3 → decodeRaw w = .ok (.cos true d a) := by
      intro w hf; unfold IsR at hf
      rw [show decodeRaw w = decodeFloat 53 w by simp only [decodeRaw, hf]; rfl]
      unfold decodeFloat
      simp only [hf, vregOf_val, src_code, num8_val, cond_code, codeOr_some, fp8_code]; rfl
    exact of_raw rfl (by simp) (key _ hf) hf.2.2.2.2.2.2.2.2.2.2.2

theorem Sys2Proof.Laws.WordRoundTrip.shfl (m : ShflMode) (d : VReg) (a : VReg) (b : Src) : Statement (.shfl m d a b) := by
  have hf := encR_fields (show 56 < 128 by decide) (show d.val < 128 by omega) (show a.val < 128 by omega) (src_lt b) (shflMode_lt m)
  have key : ∀ w, IsR w 56 d.val a.val b.code m.t → decodeRaw w = .ok (.shfl m d a b) := by
    intro w hf; unfold IsR at hf
    rw [show decodeRaw w = decodeCross 56 w by simp only [decodeRaw, hf]; rfl]
    unfold decodeCross
    simp only [hf, vregOf_val, sregOf_val, src_code, num8_val, num8_low, shflMode_code, codeOr_some]; rfl
  exact of_raw rfl (by simp) (key _ hf) hf.2.2.2.2.2.2.2.2.2.2.2

theorem Sys2Proof.Laws.WordRoundTrip.bcast (d : VReg) (a : VReg) (b : Src) : Statement (.bcast d a b) := by
  have hf := encR_fields (show 57 < 128 by decide) (show d.val < 128 by omega) (show a.val < 128 by omega) (src_lt b) (show 0 < 4 by decide)
  have key : ∀ w, IsR w 57 d.val a.val b.code 0 → decodeRaw w = .ok (.bcast d a b) := by
    intro w hf; unfold IsR at hf
    rw [show decodeRaw w = decodeCross 57 w by simp only [decodeRaw, hf]; rfl]
    unfold decodeCross
    simp only [hf, vregOf_val, sregOf_val, src_code, num8_val, num8_low, shflMode_code, codeOr_some]; rfl
  exact of_raw rfl (by simp) (key _ hf) hf.2.2.2.2.2.2.2.2.2.2.2

theorem Sys2Proof.Laws.WordRoundTrip.perm (d : VReg) (a : VReg) (b : Src) : Statement (.perm d a b) := by
  have hf := encR_fields (show 57 < 128 by decide) (show d.val < 128 by omega) (show a.val < 128 by omega) (src_lt b) (show 1 < 4 by decide)
  have key : ∀ w, IsR w 57 d.val a.val b.code 1 → decodeRaw w = .ok (.perm d a b) := by
    intro w hf; unfold IsR at hf
    rw [show decodeRaw w = decodeCross 57 w by simp only [decodeRaw, hf]; rfl]
    unfold decodeCross
    simp only [hf, vregOf_val, sregOf_val, src_code, num8_val, num8_low, shflMode_code, codeOr_some]; rfl
  exact of_raw rfl (by simp) (key _ hf) hf.2.2.2.2.2.2.2.2.2.2.2

theorem Sys2Proof.Laws.WordRoundTrip.ballot (k : KReg) (a : VReg) : Statement (.ballot k a) := by
  have hf := encRK_fields (show 58 < 128 by decide) (show 0 < 16 by decide) (show k.val < 8 by omega) (show a.val < 128 by omega) (show 0 < 128 by decide) (show 0 < 4 by decide)
  have key : ∀ w, IsRK w 58 0 k.val a.val 0 0 → decodeRaw w = .ok (.ballot k a) := by
    intro w hf; unfold IsRK at hf
    rw [show decodeRaw w = decodeCross 58 w by simp only [decodeRaw, hf]; rfl]
    unfold decodeCross
    simp only [hf, vregOf_val, sregOf_val, src_code, num8_val, num8_low, shflMode_code, codeOr_some]; rfl
  exact of_raw rfl (by simp) (key _ hf) hf.2.2.2.2.2.2.2.2.2

theorem Sys2Proof.Laws.WordRoundTrip.vote (m : VoteMode) (k : KReg) (a : VReg) : Statement (.vote m k a) := by
  cases m
  · have hf := encRK_fields (show 59 < 128 by decide) (show 0 < 16 by decide) (show k.val < 8 by omega) (show a.val < 128 by omega) (show 0 < 128 by decide) (show 0 < 4 by decide)
    have key : ∀ w, IsRK w 59 0 k.val a.val 0 0 → decodeRaw w = .ok (.vote .any k a) := by
      intro w hf; unfold IsRK at hf
      rw [show decodeRaw w = decodeCross 59 w by simp only [decodeRaw, hf]; rfl]
      unfold decodeCross
      simp only [hf, vregOf_val, sregOf_val, src_code, num8_val, num8_low, shflMode_code, codeOr_some]; rfl
    exact of_raw rfl (by simp) (key _ hf) hf.2.2.2.2.2.2.2.2.2
  · have hf := encRK_fields (show 59 < 128 by decide) (show 1 < 16 by decide) (show k.val < 8 by omega) (show a.val < 128 by omega) (show 0 < 128 by decide) (show 0 < 4 by decide)
    have key : ∀ w, IsRK w 59 1 k.val a.val 0 0 → decodeRaw w = .ok (.vote .all k a) := by
      intro w hf; unfold IsRK at hf
      rw [show decodeRaw w = decodeCross 59 w by simp only [decodeRaw, hf]; rfl]
      unfold decodeCross
      simp only [hf, vregOf_val, sregOf_val, src_code, num8_val, num8_low, shflMode_code, codeOr_some]; rfl
    exact of_raw rfl (by simp) (key _ hf) hf.2.2.2.2.2.2.2.2.2
  · have hf := encRK_fields (show 59 < 128 by decide) (show 2 < 16 by decide) (show k.val < 8 by omega) (show a.val < 128 by omega) (show 0 < 128 by decide) (show 0 < 4 by decide)
    have key : ∀ w, IsRK w 59 2 k.val a.val 0 0 → decodeRaw w = .ok (.vote .eq k a) := by
      intro w hf; unfold IsRK at hf
      rw [show decodeRaw w = decodeCross 59 w by simp only [decodeRaw, hf]; rfl]
      unfold decodeCross
      simp only [hf, vregOf_val, sregOf_val, src_code, num8_val, num8_low, shflMode_code, codeOr_some]; rfl
    exact of_raw rfl (by simp) (key _ hf) hf.2.2.2.2.2.2.2.2.2

theorem Sys2Proof.Laws.WordRoundTrip.scan (op : ScanOp) (excl : Bool) (ty : ScanTy) (d : VReg) (a : VReg) : Statement (.scan op excl ty d a) := by
  cases op <;> cases excl <;> cases ty
  · have hf := encR_fields (show 60 < 128 by decide) (show d.val < 128 by omega) (show a.val < 128 by omega) (show 0 < 128 by decide) (show 0 < 4 by decide)
    have key : ∀ w, IsR w 60 d.val a.val 0 0 → decodeRaw w = .ok (.scan .add false .s32 d a) := by
      intro w hf; unfold IsR at hf
      rw [show decodeRaw w = decodeCross 60 w by simp only [decodeRaw, hf]; rfl]
      unfold decodeCross
      simp only [hf, vregOf_val, sregOf_val, src_code, num8_val, num8_low, shflMode_code, codeOr_some, ScanOp.ofT, ScanTy.ofCode]; rfl
    exact of_raw rfl (by simp) (key _ hf) hf.2.2.2.2.2.2.2.2.2.2.2
  · have hf := encR_fields (show 60 < 128 by decide) (show d.val < 128 by omega) (show a.val < 128 by omega) (show 8 < 128 by decide) (show 0 < 4 by decide)
    have key : ∀ w, IsR w 60 d.val a.val 8 0 → decodeRaw w = .ok (.scan .add false .u32 d a) := by
      intro w hf; unfold IsR at hf
      rw [show decodeRaw w = decodeCross 60 w by simp only [decodeRaw, hf]; rfl]
      unfold decodeCross
      simp only [hf, vregOf_val, sregOf_val, src_code, num8_val, num8_low, shflMode_code, codeOr_some, ScanOp.ofT, ScanTy.ofCode]; rfl
    exact of_raw rfl (by simp) (key _ hf) hf.2.2.2.2.2.2.2.2.2.2.2
  · have hf := encR_fields (show 60 < 128 by decide) (show d.val < 128 by omega) (show a.val < 128 by omega) (show 16 < 128 by decide) (show 0 < 4 by decide)
    have key : ∀ w, IsR w 60 d.val a.val 16 0 → decodeRaw w = .ok (.scan .add false .f32 d a) := by
      intro w hf; unfold IsR at hf
      rw [show decodeRaw w = decodeCross 60 w by simp only [decodeRaw, hf]; rfl]
      unfold decodeCross
      simp only [hf, vregOf_val, sregOf_val, src_code, num8_val, num8_low, shflMode_code, codeOr_some, ScanOp.ofT, ScanTy.ofCode]; rfl
    exact of_raw rfl (by simp) (key _ hf) hf.2.2.2.2.2.2.2.2.2.2.2
  · have hf := encR_fields (show 60 < 128 by decide) (show d.val < 128 by omega) (show a.val < 128 by omega) (show 64 < 128 by decide) (show 0 < 4 by decide)
    have key : ∀ w, IsR w 60 d.val a.val 64 0 → decodeRaw w = .ok (.scan .add true .s32 d a) := by
      intro w hf; unfold IsR at hf
      rw [show decodeRaw w = decodeCross 60 w by simp only [decodeRaw, hf]; rfl]
      unfold decodeCross
      simp only [hf, vregOf_val, sregOf_val, src_code, num8_val, num8_low, shflMode_code, codeOr_some, ScanOp.ofT, ScanTy.ofCode]; rfl
    exact of_raw rfl (by simp) (key _ hf) hf.2.2.2.2.2.2.2.2.2.2.2
  · have hf := encR_fields (show 60 < 128 by decide) (show d.val < 128 by omega) (show a.val < 128 by omega) (show 72 < 128 by decide) (show 0 < 4 by decide)
    have key : ∀ w, IsR w 60 d.val a.val 72 0 → decodeRaw w = .ok (.scan .add true .u32 d a) := by
      intro w hf; unfold IsR at hf
      rw [show decodeRaw w = decodeCross 60 w by simp only [decodeRaw, hf]; rfl]
      unfold decodeCross
      simp only [hf, vregOf_val, sregOf_val, src_code, num8_val, num8_low, shflMode_code, codeOr_some, ScanOp.ofT, ScanTy.ofCode]; rfl
    exact of_raw rfl (by simp) (key _ hf) hf.2.2.2.2.2.2.2.2.2.2.2
  · have hf := encR_fields (show 60 < 128 by decide) (show d.val < 128 by omega) (show a.val < 128 by omega) (show 80 < 128 by decide) (show 0 < 4 by decide)
    have key : ∀ w, IsR w 60 d.val a.val 80 0 → decodeRaw w = .ok (.scan .add true .f32 d a) := by
      intro w hf; unfold IsR at hf
      rw [show decodeRaw w = decodeCross 60 w by simp only [decodeRaw, hf]; rfl]
      unfold decodeCross
      simp only [hf, vregOf_val, sregOf_val, src_code, num8_val, num8_low, shflMode_code, codeOr_some, ScanOp.ofT, ScanTy.ofCode]; rfl
    exact of_raw rfl (by simp) (key _ hf) hf.2.2.2.2.2.2.2.2.2.2.2
  · have hf := encR_fields (show 60 < 128 by decide) (show d.val < 128 by omega) (show a.val < 128 by omega) (show 0 < 128 by decide) (show 1 < 4 by decide)
    have key : ∀ w, IsR w 60 d.val a.val 0 1 → decodeRaw w = .ok (.scan .min false .s32 d a) := by
      intro w hf; unfold IsR at hf
      rw [show decodeRaw w = decodeCross 60 w by simp only [decodeRaw, hf]; rfl]
      unfold decodeCross
      simp only [hf, vregOf_val, sregOf_val, src_code, num8_val, num8_low, shflMode_code, codeOr_some, ScanOp.ofT, ScanTy.ofCode]; rfl
    exact of_raw rfl (by simp) (key _ hf) hf.2.2.2.2.2.2.2.2.2.2.2
  · have hf := encR_fields (show 60 < 128 by decide) (show d.val < 128 by omega) (show a.val < 128 by omega) (show 8 < 128 by decide) (show 1 < 4 by decide)
    have key : ∀ w, IsR w 60 d.val a.val 8 1 → decodeRaw w = .ok (.scan .min false .u32 d a) := by
      intro w hf; unfold IsR at hf
      rw [show decodeRaw w = decodeCross 60 w by simp only [decodeRaw, hf]; rfl]
      unfold decodeCross
      simp only [hf, vregOf_val, sregOf_val, src_code, num8_val, num8_low, shflMode_code, codeOr_some, ScanOp.ofT, ScanTy.ofCode]; rfl
    exact of_raw rfl (by simp) (key _ hf) hf.2.2.2.2.2.2.2.2.2.2.2
  · have hf := encR_fields (show 60 < 128 by decide) (show d.val < 128 by omega) (show a.val < 128 by omega) (show 16 < 128 by decide) (show 1 < 4 by decide)
    have key : ∀ w, IsR w 60 d.val a.val 16 1 → decodeRaw w = .ok (.scan .min false .f32 d a) := by
      intro w hf; unfold IsR at hf
      rw [show decodeRaw w = decodeCross 60 w by simp only [decodeRaw, hf]; rfl]
      unfold decodeCross
      simp only [hf, vregOf_val, sregOf_val, src_code, num8_val, num8_low, shflMode_code, codeOr_some, ScanOp.ofT, ScanTy.ofCode]; rfl
    exact of_raw rfl (by simp) (key _ hf) hf.2.2.2.2.2.2.2.2.2.2.2
  · have hf := encR_fields (show 60 < 128 by decide) (show d.val < 128 by omega) (show a.val < 128 by omega) (show 64 < 128 by decide) (show 1 < 4 by decide)
    have key : ∀ w, IsR w 60 d.val a.val 64 1 → decodeRaw w = .ok (.scan .min true .s32 d a) := by
      intro w hf; unfold IsR at hf
      rw [show decodeRaw w = decodeCross 60 w by simp only [decodeRaw, hf]; rfl]
      unfold decodeCross
      simp only [hf, vregOf_val, sregOf_val, src_code, num8_val, num8_low, shflMode_code, codeOr_some, ScanOp.ofT, ScanTy.ofCode]; rfl
    exact of_raw rfl (by simp) (key _ hf) hf.2.2.2.2.2.2.2.2.2.2.2
  · have hf := encR_fields (show 60 < 128 by decide) (show d.val < 128 by omega) (show a.val < 128 by omega) (show 72 < 128 by decide) (show 1 < 4 by decide)
    have key : ∀ w, IsR w 60 d.val a.val 72 1 → decodeRaw w = .ok (.scan .min true .u32 d a) := by
      intro w hf; unfold IsR at hf
      rw [show decodeRaw w = decodeCross 60 w by simp only [decodeRaw, hf]; rfl]
      unfold decodeCross
      simp only [hf, vregOf_val, sregOf_val, src_code, num8_val, num8_low, shflMode_code, codeOr_some, ScanOp.ofT, ScanTy.ofCode]; rfl
    exact of_raw rfl (by simp) (key _ hf) hf.2.2.2.2.2.2.2.2.2.2.2
  · have hf := encR_fields (show 60 < 128 by decide) (show d.val < 128 by omega) (show a.val < 128 by omega) (show 80 < 128 by decide) (show 1 < 4 by decide)
    have key : ∀ w, IsR w 60 d.val a.val 80 1 → decodeRaw w = .ok (.scan .min true .f32 d a) := by
      intro w hf; unfold IsR at hf
      rw [show decodeRaw w = decodeCross 60 w by simp only [decodeRaw, hf]; rfl]
      unfold decodeCross
      simp only [hf, vregOf_val, sregOf_val, src_code, num8_val, num8_low, shflMode_code, codeOr_some, ScanOp.ofT, ScanTy.ofCode]; rfl
    exact of_raw rfl (by simp) (key _ hf) hf.2.2.2.2.2.2.2.2.2.2.2
  · have hf := encR_fields (show 60 < 128 by decide) (show d.val < 128 by omega) (show a.val < 128 by omega) (show 0 < 128 by decide) (show 2 < 4 by decide)
    have key : ∀ w, IsR w 60 d.val a.val 0 2 → decodeRaw w = .ok (.scan .max false .s32 d a) := by
      intro w hf; unfold IsR at hf
      rw [show decodeRaw w = decodeCross 60 w by simp only [decodeRaw, hf]; rfl]
      unfold decodeCross
      simp only [hf, vregOf_val, sregOf_val, src_code, num8_val, num8_low, shflMode_code, codeOr_some, ScanOp.ofT, ScanTy.ofCode]; rfl
    exact of_raw rfl (by simp) (key _ hf) hf.2.2.2.2.2.2.2.2.2.2.2
  · have hf := encR_fields (show 60 < 128 by decide) (show d.val < 128 by omega) (show a.val < 128 by omega) (show 8 < 128 by decide) (show 2 < 4 by decide)
    have key : ∀ w, IsR w 60 d.val a.val 8 2 → decodeRaw w = .ok (.scan .max false .u32 d a) := by
      intro w hf; unfold IsR at hf
      rw [show decodeRaw w = decodeCross 60 w by simp only [decodeRaw, hf]; rfl]
      unfold decodeCross
      simp only [hf, vregOf_val, sregOf_val, src_code, num8_val, num8_low, shflMode_code, codeOr_some, ScanOp.ofT, ScanTy.ofCode]; rfl
    exact of_raw rfl (by simp) (key _ hf) hf.2.2.2.2.2.2.2.2.2.2.2
  · have hf := encR_fields (show 60 < 128 by decide) (show d.val < 128 by omega) (show a.val < 128 by omega) (show 16 < 128 by decide) (show 2 < 4 by decide)
    have key : ∀ w, IsR w 60 d.val a.val 16 2 → decodeRaw w = .ok (.scan .max false .f32 d a) := by
      intro w hf; unfold IsR at hf
      rw [show decodeRaw w = decodeCross 60 w by simp only [decodeRaw, hf]; rfl]
      unfold decodeCross
      simp only [hf, vregOf_val, sregOf_val, src_code, num8_val, num8_low, shflMode_code, codeOr_some, ScanOp.ofT, ScanTy.ofCode]; rfl
    exact of_raw rfl (by simp) (key _ hf) hf.2.2.2.2.2.2.2.2.2.2.2
  · have hf := encR_fields (show 60 < 128 by decide) (show d.val < 128 by omega) (show a.val < 128 by omega) (show 64 < 128 by decide) (show 2 < 4 by decide)
    have key : ∀ w, IsR w 60 d.val a.val 64 2 → decodeRaw w = .ok (.scan .max true .s32 d a) := by
      intro w hf; unfold IsR at hf
      rw [show decodeRaw w = decodeCross 60 w by simp only [decodeRaw, hf]; rfl]
      unfold decodeCross
      simp only [hf, vregOf_val, sregOf_val, src_code, num8_val, num8_low, shflMode_code, codeOr_some, ScanOp.ofT, ScanTy.ofCode]; rfl
    exact of_raw rfl (by simp) (key _ hf) hf.2.2.2.2.2.2.2.2.2.2.2
  · have hf := encR_fields (show 60 < 128 by decide) (show d.val < 128 by omega) (show a.val < 128 by omega) (show 72 < 128 by decide) (show 2 < 4 by decide)
    have key : ∀ w, IsR w 60 d.val a.val 72 2 → decodeRaw w = .ok (.scan .max true .u32 d a) := by
      intro w hf; unfold IsR at hf
      rw [show decodeRaw w = decodeCross 60 w by simp only [decodeRaw, hf]; rfl]
      unfold decodeCross
      simp only [hf, vregOf_val, sregOf_val, src_code, num8_val, num8_low, shflMode_code, codeOr_some, ScanOp.ofT, ScanTy.ofCode]; rfl
    exact of_raw rfl (by simp) (key _ hf) hf.2.2.2.2.2.2.2.2.2.2.2
  · have hf := encR_fields (show 60 < 128 by decide) (show d.val < 128 by omega) (show a.val < 128 by omega) (show 80 < 128 by decide) (show 2 < 4 by decide)
    have key : ∀ w, IsR w 60 d.val a.val 80 2 → decodeRaw w = .ok (.scan .max true .f32 d a) := by
      intro w hf; unfold IsR at hf
      rw [show decodeRaw w = decodeCross 60 w by simp only [decodeRaw, hf]; rfl]
      unfold decodeCross
      simp only [hf, vregOf_val, sregOf_val, src_code, num8_val, num8_low, shflMode_code, codeOr_some, ScanOp.ofT, ScanTy.ofCode]; rfl
    exact of_raw rfl (by simp) (key _ hf) hf.2.2.2.2.2.2.2.2.2.2.2

theorem Sys2Proof.Laws.WordRoundTrip.ld (sz : LdSize) (hint : Hint) (d : VReg) (o : Src) (ba : AReg) : Statement (.ld sz hint d o ba) := by
  cases sz
  · have hf := encM_fields (show 64 < 128 by decide) (show d.val < 128 by omega) (src_lt o) (show ba.val < 16 by omega) (hint_lt hint) (show 0 < 4 by decide)
    exact of_raw (w := encM 64 d.val o.code ba.val hint.code 0) rfl (by simp) (decodeRaw_ld .b32 hint d o ba) hf.2.2.2.2.2.2
  · have hf := encM_fields (show 64 < 128 by decide) (show d.val < 128 by omega) (src_lt o) (show ba.val < 16 by omega) (hint_lt hint) (show 1 < 4 by decide)
    exact of_raw (w := encM 64 d.val o.code ba.val hint.code 1) rfl (by simp) (decodeRaw_ld .b64 hint d o ba) hf.2.2.2.2.2.2
  · have hf := encM_fields (show 64 < 128 by decide) (show d.val < 128 by omega) (src_lt o) (show ba.val < 16 by omega) (hint_lt hint) (show 2 < 4 by decide)
    exact of_raw (w := encM 64 d.val o.code ba.val hint.code 2) rfl (by simp) (decodeRaw_ld .b128 hint d o ba) hf.2.2.2.2.2.2
  · have hf := encM_fields (show 65 < 128 by decide) (show d.val < 128 by omega) (src_lt o) (show ba.val < 16 by omega) (hint_lt hint) (show 0 < 4 by decide)
    exact of_raw (w := encM 65 d.val o.code ba.val hint.code 0) rfl (by simp) (decodeRaw_ldSub hint d o ba).1 hf.2.2.2.2.2.2
  · have hf := encM_fields (show 65 < 128 by decide) (show d.val < 128 by omega) (src_lt o) (show ba.val < 16 by omega) (hint_lt hint) (show 1 < 4 by decide)
    exact of_raw (w := encM 65 d.val o.code ba.val hint.code 1) rfl (by simp) (decodeRaw_ldSub hint d o ba).2.1 hf.2.2.2.2.2.2
  · have hf := encM_fields (show 65 < 128 by decide) (show d.val < 128 by omega) (src_lt o) (show ba.val < 16 by omega) (hint_lt hint) (show 2 < 4 by decide)
    exact of_raw (w := encM 65 d.val o.code ba.val hint.code 2) rfl (by simp) (decodeRaw_ldSub hint d o ba).2.2.1 hf.2.2.2.2.2.2
  · have hf := encM_fields (show 65 < 128 by decide) (show d.val < 128 by omega) (src_lt o) (show ba.val < 16 by omega) (hint_lt hint) (show 3 < 4 by decide)
    exact of_raw (w := encM 65 d.val o.code ba.val hint.code 3) rfl (by simp) (decodeRaw_ldSub hint d o ba).2.2.2 hf.2.2.2.2.2.2

theorem Sys2Proof.Laws.st_b32 (hint : Hint) (d : Src) (o : Src) (ba : AReg) : WordRoundTrip.Statement (.st .b32 hint d o ba) := by
  have hf := encM_fields (show 66 < 128 by decide) (src_lt d) (src_lt o) (show ba.val < 16 by omega) (hint_lt hint) (show 0 < 4 by decide)
  have key : ∀ w, IsM w 66 d.code o.code ba.val hint.code 0 → decodeRaw w = .ok (.st .b32 hint d o ba) := by
    intro w hf; unfold IsM at hf
    rw [show decodeRaw w = decodeMem 66 w by simp only [decodeRaw, hf]; rfl]
    unfold decodeMem
    simp only [hf, WSize.ofSz, vregOf_val, src_code, num16_val, hint_code, scope_code, path_code, codeOr_some, wsize_code, atomv_code]; rfl
  exact WordRoundTrip.of_raw rfl (by simp) (key _ hf) hf.2.2.2.2.2.2

theorem Sys2Proof.Laws.st_b64 (hint : Hint) (d : Src) (o : Src) (ba : AReg) : WordRoundTrip.Statement (.st .b64 hint d o ba) := by
  have hf := encM_fields (show 66 < 128 by decide) (src_lt d) (src_lt o) (show ba.val < 16 by omega) (hint_lt hint) (show 1 < 4 by decide)
  have key : ∀ w, IsM w 66 d.code o.code ba.val hint.code 1 → decodeRaw w = .ok (.st .b64 hint d o ba) := by
    intro w hf; unfold IsM at hf
    rw [show decodeRaw w = decodeMem 66 w by simp only [decodeRaw, hf]; rfl]
    unfold decodeMem
    simp only [hf, WSize.ofSz, vregOf_val, src_code, num16_val, hint_code, scope_code, path_code, codeOr_some, wsize_code, atomv_code]; rfl
  exact WordRoundTrip.of_raw rfl (by simp) (key _ hf) hf.2.2.2.2.2.2

theorem Sys2Proof.Laws.st_b128 (hint : Hint) (d : Src) (o : Src) (ba : AReg) : WordRoundTrip.Statement (.st .b128 hint d o ba) := by
  have hf := encM_fields (show 66 < 128 by decide) (src_lt d) (src_lt o) (show ba.val < 16 by omega) (hint_lt hint) (show 2 < 4 by decide)
  have key : ∀ w, IsM w 66 d.code o.code ba.val hint.code 2 → decodeRaw w = .ok (.st .b128 hint d o ba) := by
    intro w hf; unfold IsM at hf
    rw [show decodeRaw w = decodeMem 66 w by simp only [decodeRaw, hf]; rfl]
    unfold decodeMem
    simp only [hf, WSize.ofSz, vregOf_val, src_code, num16_val, hint_code, scope_code, path_code, codeOr_some, wsize_code, atomv_code]; rfl
  exact WordRoundTrip.of_raw rfl (by simp) (key _ hf) hf.2.2.2.2.2.2

theorem Sys2Proof.Laws.st_b8 (hint : Hint) (d : Src) (o : Src) (ba : AReg) : WordRoundTrip.Statement (.st .b8 hint d o ba) := by
  have hf := encM_fields (show 67 < 128 by decide) (src_lt d) (src_lt o) (show ba.val < 16 by omega) (hint_lt hint) (show 0 < 4 by decide)
  have key : ∀ w, IsM w 67 d.code o.code ba.val hint.code 0 → decodeRaw w = .ok (.st .b8 hint d o ba) := by
    intro w hf; unfold IsM at hf
    rw [show decodeRaw w = decodeMem 67 w by simp only [decodeRaw, hf]; rfl]
    unfold decodeMem
    simp only [hf, vregOf_val, src_code, num16_val, hint_code, scope_code, path_code, codeOr_some, wsize_code, atomv_code]; rfl
  exact WordRoundTrip.of_raw rfl (by simp) (key _ hf) hf.2.2.2.2.2.2

theorem Sys2Proof.Laws.st_b16 (hint : Hint) (d : Src) (o : Src) (ba : AReg) : WordRoundTrip.Statement (.st .b16 hint d o ba) := by
  have hf := encM_fields (show 67 < 128 by decide) (src_lt d) (src_lt o) (show ba.val < 16 by omega) (hint_lt hint) (show 1 < 4 by decide)
  have key : ∀ w, IsM w 67 d.code o.code ba.val hint.code 1 → decodeRaw w = .ok (.st .b16 hint d o ba) := by
    intro w hf; unfold IsM at hf
    rw [show decodeRaw w = decodeMem 67 w by simp only [decodeRaw, hf]; rfl]
    unfold decodeMem
    simp only [hf, vregOf_val, src_code, num16_val, hint_code, scope_code, path_code, codeOr_some, wsize_code, atomv_code]; rfl
  exact WordRoundTrip.of_raw rfl (by simp) (key _ hf) hf.2.2.2.2.2.2

theorem Sys2Proof.Laws.WordRoundTrip.st (sz : StSize) (hint : Hint) (d : Src) (o : Src) (ba : AReg) : Statement (.st sz hint d o ba) := by
  cases sz
  · exact st_b32 hint d o ba
  · exact st_b64 hint d o ba
  · exact st_b128 hint d o ba
  · exact st_b8 hint d o ba
  · exact st_b16 hint d o ba

theorem Sys2Proof.Laws.WordRoundTrip.ldg (sz : WSize) (hint : Hint) (d : VReg) (o : Src) (ba : AReg) : Statement (.ldg sz hint d o ba) := by
  have hf := encM_fields (show 70 < 128 by decide) (show d.val < 128 by omega) (src_lt o) (show ba.val < 16 by omega) (hint_lt hint) (wsize_lt sz)
  have key : ∀ w, IsM w 70 d.val o.code ba.val hint.code sz.sz → decodeRaw w = .ok (.ldg sz hint d o ba) := by
    intro w hf; unfold IsM at hf
    rw [show decodeRaw w = decodeMem 70 w by simp only [decodeRaw, hf]; rfl]
    unfold decodeMem
    simp only [hf, vregOf_val, src_code, num16_val, hint_code, scope_code, path_code, codeOr_some, wsize_code, atomv_code]; rfl
  exact of_raw rfl (by simp) (key _ hf) hf.2.2.2.2.2.2

theorem Sys2Proof.Laws.WordRoundTrip.stg (sz : WSize) (hint : Hint) (d : Src) (o : Src) (ba : AReg) : Statement (.stg sz hint d o ba) := by
  have hf := encM_fields (show 71 < 128 by decide) (src_lt d) (src_lt o) (show ba.val < 16 by omega) (hint_lt hint) (wsize_lt sz)
  have key : ∀ w, IsM w 71 d.code o.code ba.val hint.code sz.sz → decodeRaw w = .ok (.stg sz hint d o ba) := by
    intro w hf; unfold IsM at hf
    rw [show decodeRaw w = decodeMem 71 w by simp only [decodeRaw, hf]; rfl]
    unfold decodeMem
    simp only [hf, vregOf_val, src_code, num16_val, hint_code, scope_code, path_code, codeOr_some, wsize_code, atomv_code]; rfl
  exact of_raw rfl (by simp) (key _ hf) hf.2.2.2.2.2.2

theorem Sys2Proof.Laws.WordRoundTrip.ldAcq (wide : Bool) (sc : Scope) (d : VReg) (o : Src) (ba : AReg) : Statement (.ldAcq wide sc d o ba) := by
  cases wide
  · have hf := encMO_fields (show 68 < 128 by decide) (show d.val < 128 by omega) (src_lt o) (show ba.val < 16 by omega) (scope_lt sc) (show 0 < 2 by decide)
    have key : ∀ w, IsMO w 68 d.val o.code ba.val sc.code 0 → decodeRaw w = .ok (.ldAcq false sc d o ba) := by
      intro w hf; unfold IsMO at hf
      rw [show decodeRaw w = decodeMem 68 w by simp only [decodeRaw, hf]; rfl]
      unfold decodeMem
      simp only [hf, vregOf_val, src_code, num16_val, hint_code, scope_code, path_code, codeOr_some, wsize_code, atomv_code]; rfl
    exact of_raw rfl (by simp) (key _ hf) hf.2.2.2.2.2.2
  · have hf := encMO_fields (show 68 < 128 by decide) (show d.val < 128 by omega) (src_lt o) (show ba.val < 16 by omega) (scope_lt sc) (show 1 < 2 by decide)
    have key : ∀ w, IsMO w 68 d.val o.code ba.val sc.code 1 → decodeRaw w = .ok (.ldAcq true sc d o ba) := by
      intro w hf; unfold IsMO at hf
      rw [show decodeRaw w = decodeMem 68 w by simp only [decodeRaw, hf]; rfl]
      unfold decodeMem
      simp only [hf, vregOf_val, src_code, num16_val, hint_code, scope_code, path_code, codeOr_some, wsize_code, atomv_code]; rfl
    exact of_raw rfl (by simp) (key _ hf) hf.2.2.2.2.2.2

theorem Sys2Proof.Laws.WordRoundTrip.stRel (wide : Bool) (sc : Scope) (d : Src) (o : Src) (ba : AReg) : Statement (.stRel wide sc d o ba) := by
  cases wide
  · have hf := encMO_fields (show 69 < 128 by decide) (src_lt d) (src_lt o) (show ba.val < 16 by omega) (scope_lt sc) (show 0 < 2 by decide)
    have key : ∀ w, IsMO w 69 d.code o.code ba.val sc.code 0 → decodeRaw w = .ok (.stRel false sc d o ba) := by
      intro w hf; unfold IsMO at hf
      rw [show decodeRaw w = decodeMem 69 w by simp only [decodeRaw, hf]; rfl]
      unfold decodeMem
      simp only [hf, vregOf_val, src_code, num16_val, hint_code, scope_code, path_code, codeOr_some, wsize_code, atomv_code]; rfl
    exact of_raw rfl (by simp) (key _ hf) hf.2.2.2.2.2.2
  · have hf := encMO_fields (show 69 < 128 by decide) (src_lt d) (src_lt o) (show ba.val < 16 by omega) (scope_lt sc) (show 1 < 2 by decide)
    have key : ∀ w, IsMO w 69 d.code o.code ba.val sc.code 1 → decodeRaw w = .ok (.stRel true sc d o ba) := by
      intro w hf; unfold IsMO at hf
      rw [show decodeRaw w = decodeMem 69 w by simp only [decodeRaw, hf]; rfl]
      unfold decodeMem
      simp only [hf, vregOf_val, src_code, num16_val, hint_code, scope_code, path_code, codeOr_some, wsize_code, atomv_code]; rfl
    exact of_raw rfl (by simp) (key _ hf) hf.2.2.2.2.2.2

theorem Sys2Proof.Laws.atom_addU32 (sc : Scope) (d : VReg) (o : Src) (ba : AReg) : WordRoundTrip.Statement (.atom .addU32 sc d o ba) := by
  have hf := encMO_fields (show 80 < 128 by decide) (show d.val < 128 by omega) (src_lt o) (show ba.val < 16 by omega) (scope_lt sc) (show 0 < 2 by decide)
  have key : ∀ w, IsMO w 80 d.val o.code ba.val sc.code 0 → decodeRaw w = .ok (.atom .addU32 sc d o ba) := by
    intro w hf; unfold IsMO at hf
    rw [show decodeRaw w = decodeMem 80 w by simp only [decodeRaw, hf]; rfl]
    unfold decodeMem
    simp only [hf, AtomOp.ofCode, vregOf_val, src_code, num16_val, hint_code, scope_code, path_code, codeOr_some, wsize_code, atomv_code]; rfl
  exact WordRoundTrip.of_raw rfl (by simp) (key _ hf) hf.2.2.2.2.2.2

theorem Sys2Proof.Laws.atom_faddF32 (sc : Scope) (d : VReg) (o : Src) (ba : AReg) : WordRoundTrip.Statement (.atom .faddF32 sc d o ba) := by
  have hf := encMO_fields (show 80 < 128 by decide) (show d.val < 128 by omega) (src_lt o) (show ba.val < 16 by omega) (scope_lt sc) (show 1 < 2 by decide)
  have key : ∀ w, IsMO w 80 d.val o.code ba.val sc.code 1 → decodeRaw w = .ok (.atom .faddF32 sc d o ba) := by
    intro w hf; unfold IsMO at hf
    rw [show decodeRaw w = decodeMem 80 w by simp only [decodeRaw, hf]; rfl]
    unfold decodeMem
    simp only [hf, AtomOp.ofCode, vregOf_val, src_code, num16_val, hint_code, scope_code, path_code, codeOr_some, wsize_code, atomv_code]; rfl
  exact WordRoundTrip.of_raw rfl (by simp) (key _ hf) hf.2.2.2.2.2.2

theorem Sys2Proof.Laws.atom_minS32 (sc : Scope) (d : VReg) (o : Src) (ba : AReg) : WordRoundTrip.Statement (.atom .minS32 sc d o ba) := by
  have hf := encMO_fields (show 81 < 128 by decide) (show d.val < 128 by omega) (src_lt o) (show ba.val < 16 by omega) (scope_lt sc) (show 0 < 2 by decide)
  have key : ∀ w, IsMO w 81 d.val o.code ba.val sc.code 0 → decodeRaw w = .ok (.atom .minS32 sc d o ba) := by
    intro w hf; unfold IsMO at hf
    rw [show decodeRaw w = decodeMem 81 w by simp only [decodeRaw, hf]; rfl]
    unfold decodeMem
    simp only [hf, AtomOp.ofCode, vregOf_val, src_code, num16_val, hint_code, scope_code, path_code, codeOr_some, wsize_code, atomv_code]; rfl
  exact WordRoundTrip.of_raw rfl (by simp) (key _ hf) hf.2.2.2.2.2.2

theorem Sys2Proof.Laws.atom_maxS32 (sc : Scope) (d : VReg) (o : Src) (ba : AReg) : WordRoundTrip.Statement (.atom .maxS32 sc d o ba) := by
  have hf := encMO_fields (show 81 < 128 by decide) (show d.val < 128 by omega) (src_lt o) (show ba.val < 16 by omega) (scope_lt sc) (show 1 < 2 by decide)
  have key : ∀ w, IsMO w 81 d.val o.code ba.val sc.code 1 → decodeRaw w = .ok (.atom .maxS32 sc d o ba) := by
    intro w hf; unfold IsMO at hf
    rw [show decodeRaw w = decodeMem 81 w by simp only [decodeRaw, hf]; rfl]
    unfold decodeMem
    simp only [hf, AtomOp.ofCode, vregOf_val, src_code, num16_val, hint_code, scope_code, path_code, codeOr_some, wsize_code, atomv_code]; rfl
  exact WordRoundTrip.of_raw rfl (by simp) (key _ hf) hf.2.2.2.2.2.2

theorem Sys2Proof.Laws.atom_minU32 (sc : Scope) (d : VReg) (o : Src) (ba : AReg) : WordRoundTrip.Statement (.atom .minU32 sc d o ba) := by
  have hf := encMO_fields (show 82 < 128 by decide) (show d.val < 128 by omega) (src_lt o) (show ba.val < 16 by omega) (scope_lt sc) (show 0 < 2 by decide)
  have key : ∀ w, IsMO w 82 d.val o.code ba.val sc.code 0 → decodeRaw w = .ok (.atom .minU32 sc d o ba) := by
    intro w hf; unfold IsMO at hf
    rw [show decodeRaw w = decodeMem 82 w by simp only [decodeRaw, hf]; rfl]
    unfold decodeMem
    simp only [hf, AtomOp.ofCode, vregOf_val, src_code, num16_val, hint_code, scope_code, path_code, codeOr_some, wsize_code, atomv_code]; rfl
  exact WordRoundTrip.of_raw rfl (by simp) (key _ hf) hf.2.2.2.2.2.2

theorem Sys2Proof.Laws.atom_maxU32 (sc : Scope) (d : VReg) (o : Src) (ba : AReg) : WordRoundTrip.Statement (.atom .maxU32 sc d o ba) := by
  have hf := encMO_fields (show 82 < 128 by decide) (show d.val < 128 by omega) (src_lt o) (show ba.val < 16 by omega) (scope_lt sc) (show 1 < 2 by decide)
  have key : ∀ w, IsMO w 82 d.val o.code ba.val sc.code 1 → decodeRaw w = .ok (.atom .maxU32 sc d o ba) := by
    intro w hf; unfold IsMO at hf
    rw [show decodeRaw w = decodeMem 82 w by simp only [decodeRaw, hf]; rfl]
    unfold decodeMem
    simp only [hf, AtomOp.ofCode, vregOf_val, src_code, num16_val, hint_code, scope_code, path_code, codeOr_some, wsize_code, atomv_code]; rfl
  exact WordRoundTrip.of_raw rfl (by simp) (key _ hf) hf.2.2.2.2.2.2

theorem Sys2Proof.Laws.atom_and32 (sc : Scope) (d : VReg) (o : Src) (ba : AReg) : WordRoundTrip.Statement (.atom .and32 sc d o ba) := by
  have hf := encMO_fields (show 83 < 128 by decide) (show d.val < 128 by omega) (src_lt o) (show ba.val < 16 by omega) (scope_lt sc) (show 0 < 2 by decide)
  have key : ∀ w, IsMO w 83 d.val o.code ba.val sc.code 0 → decodeRaw w = .ok (.atom .and32 sc d o ba) := by
    intro w hf; unfold IsMO at hf
    rw [show decodeRaw w = decodeMem 83 w by simp only [decodeRaw, hf]; rfl]
    unfold decodeMem
    simp only [hf, AtomOp.ofCode, vregOf_val, src_code, num16_val, hint_code, scope_code, path_code, codeOr_some, wsize_code, atomv_code]; rfl
  exact WordRoundTrip.of_raw rfl (by simp) (key _ hf) hf.2.2.2.2.2.2

theorem Sys2Proof.Laws.atom_or32 (sc : Scope) (d : VReg) (o : Src) (ba : AReg) : WordRoundTrip.Statement (.atom .or32 sc d o ba) := by
  have hf := encMO_fields (show 83 < 128 by decide) (show d.val < 128 by omega) (src_lt o) (show ba.val < 16 by omega) (scope_lt sc) (show 1 < 2 by decide)
  have key : ∀ w, IsMO w 83 d.val o.code ba.val sc.code 1 → decodeRaw w = .ok (.atom .or32 sc d o ba) := by
    intro w hf; unfold IsMO at hf
    rw [show decodeRaw w = decodeMem 83 w by simp only [decodeRaw, hf]; rfl]
    unfold decodeMem
    simp only [hf, AtomOp.ofCode, vregOf_val, src_code, num16_val, hint_code, scope_code, path_code, codeOr_some, wsize_code, atomv_code]; rfl
  exact WordRoundTrip.of_raw rfl (by simp) (key _ hf) hf.2.2.2.2.2.2

theorem Sys2Proof.Laws.atom_xor32 (sc : Scope) (d : VReg) (o : Src) (ba : AReg) : WordRoundTrip.Statement (.atom .xor32 sc d o ba) := by
  have hf := encMO_fields (show 84 < 128 by decide) (show d.val < 128 by omega) (src_lt o) (show ba.val < 16 by omega) (scope_lt sc) (show 0 < 2 by decide)
  have key : ∀ w, IsMO w 84 d.val o.code ba.val sc.code 0 → decodeRaw w = .ok (.atom .xor32 sc d o ba) := by
    intro w hf; unfold IsMO at hf
    rw [show decodeRaw w = decodeMem 84 w by simp only [decodeRaw, hf]; rfl]
    unfold decodeMem
    simp only [hf, AtomOp.ofCode, vregOf_val, src_code, num16_val, hint_code, scope_code, path_code, codeOr_some, wsize_code, atomv_code]; rfl
  exact WordRoundTrip.of_raw rfl (by simp) (key _ hf) hf.2.2.2.2.2.2

theorem Sys2Proof.Laws.atom_xchg32 (sc : Scope) (d : VReg) (o : Src) (ba : AReg) : WordRoundTrip.Statement (.atom .xchg32 sc d o ba) := by
  have hf := encMO_fields (show 84 < 128 by decide) (show d.val < 128 by omega) (src_lt o) (show ba.val < 16 by omega) (scope_lt sc) (show 1 < 2 by decide)
  have key : ∀ w, IsMO w 84 d.val o.code ba.val sc.code 1 → decodeRaw w = .ok (.atom .xchg32 sc d o ba) := by
    intro w hf; unfold IsMO at hf
    rw [show decodeRaw w = decodeMem 84 w by simp only [decodeRaw, hf]; rfl]
    unfold decodeMem
    simp only [hf, AtomOp.ofCode, vregOf_val, src_code, num16_val, hint_code, scope_code, path_code, codeOr_some, wsize_code, atomv_code]; rfl
  exact WordRoundTrip.of_raw rfl (by simp) (key _ hf) hf.2.2.2.2.2.2

theorem Sys2Proof.Laws.atom_cas32 (sc : Scope) (d : VReg) (o : Src) (ba : AReg) : WordRoundTrip.Statement (.atom .cas32 sc d o ba) := by
  have hf := encMO_fields (show 85 < 128 by decide) (show d.val < 128 by omega) (src_lt o) (show ba.val < 16 by omega) (scope_lt sc) (show 0 < 2 by decide)
  have key : ∀ w, IsMO w 85 d.val o.code ba.val sc.code 0 → decodeRaw w = .ok (.atom .cas32 sc d o ba) := by
    intro w hf; unfold IsMO at hf
    rw [show decodeRaw w = decodeMem 85 w by simp only [decodeRaw, hf]; rfl]
    unfold decodeMem
    simp only [hf, AtomOp.ofCode, vregOf_val, src_code, num16_val, hint_code, scope_code, path_code, codeOr_some, wsize_code, atomv_code]; rfl
  exact WordRoundTrip.of_raw rfl (by simp) (key _ hf) hf.2.2.2.2.2.2

theorem Sys2Proof.Laws.atom_cas64 (sc : Scope) (d : VReg) (o : Src) (ba : AReg) : WordRoundTrip.Statement (.atom .cas64 sc d o ba) := by
  have hf := encMO_fields (show 85 < 128 by decide) (show d.val < 128 by omega) (src_lt o) (show ba.val < 16 by omega) (scope_lt sc) (show 1 < 2 by decide)
  have key : ∀ w, IsMO w 85 d.val o.code ba.val sc.code 1 → decodeRaw w = .ok (.atom .cas64 sc d o ba) := by
    intro w hf; unfold IsMO at hf
    rw [show decodeRaw w = decodeMem 85 w by simp only [decodeRaw, hf]; rfl]
    unfold decodeMem
    simp only [hf, AtomOp.ofCode, vregOf_val, src_code, num16_val, hint_code, scope_code, path_code, codeOr_some, wsize_code, atomv_code]; rfl
  exact WordRoundTrip.of_raw rfl (by simp) (key _ hf) hf.2.2.2.2.2.2

theorem Sys2Proof.Laws.atom_fminF32 (sc : Scope) (d : VReg) (o : Src) (ba : AReg) : WordRoundTrip.Statement (.atom .fminF32 sc d o ba) := by
  have hf := encMO_fields (show 86 < 128 by decide) (show d.val < 128 by omega) (src_lt o) (show ba.val < 16 by omega) (scope_lt sc) (show 0 < 2 by decide)
  have key : ∀ w, IsMO w 86 d.val o.code ba.val sc.code 0 → decodeRaw w = .ok (.atom .fminF32 sc d o ba) := by
    intro w hf; unfold IsMO at hf
    rw [show decodeRaw w = decodeMem 86 w by simp only [decodeRaw, hf]; rfl]
    unfold decodeMem
    simp only [hf, AtomOp.ofCode, vregOf_val, src_code, num16_val, hint_code, scope_code, path_code, codeOr_some, wsize_code, atomv_code]; rfl
  exact WordRoundTrip.of_raw rfl (by simp) (key _ hf) hf.2.2.2.2.2.2

theorem Sys2Proof.Laws.atom_fmaxF32 (sc : Scope) (d : VReg) (o : Src) (ba : AReg) : WordRoundTrip.Statement (.atom .fmaxF32 sc d o ba) := by
  have hf := encMO_fields (show 86 < 128 by decide) (show d.val < 128 by omega) (src_lt o) (show ba.val < 16 by omega) (scope_lt sc) (show 1 < 2 by decide)
  have key : ∀ w, IsMO w 86 d.val o.code ba.val sc.code 1 → decodeRaw w = .ok (.atom .fmaxF32 sc d o ba) := by
    intro w hf; unfold IsMO at hf
    rw [show decodeRaw w = decodeMem 86 w by simp only [decodeRaw, hf]; rfl]
    unfold decodeMem
    simp only [hf, AtomOp.ofCode, vregOf_val, src_code, num16_val, hint_code, scope_code, path_code, codeOr_some, wsize_code, atomv_code]; rfl
  exact WordRoundTrip.of_raw rfl (by simp) (key _ hf) hf.2.2.2.2.2.2

theorem Sys2Proof.Laws.WordRoundTrip.atom (op : AtomOp) (sc : Scope) (d : VReg) (o : Src) (ba : AReg) : Statement (.atom op sc d o ba) := by
  cases op
  · exact atom_addU32 sc d o ba
  · exact atom_faddF32 sc d o ba
  · exact atom_minS32 sc d o ba
  · exact atom_maxS32 sc d o ba
  · exact atom_minU32 sc d o ba
  · exact atom_maxU32 sc d o ba
  · exact atom_and32 sc d o ba
  · exact atom_or32 sc d o ba
  · exact atom_xor32 sc d o ba
  · exact atom_xchg32 sc d o ba
  · exact atom_cas32 sc d o ba
  · exact atom_cas64 sc d o ba
  · exact atom_fminF32 sc d o ba
  · exact atom_fmaxF32 sc d o ba

theorem Sys2Proof.Laws.WordRoundTrip.pref (hint : Hint) (o : Src) (ba : AReg) : Statement (.pref hint o ba) := by
  have hf := encM_fields (show 75 < 128 by decide) (show 0 < 128 by decide) (src_lt o) (show ba.val < 16 by omega) (hint_lt hint) (show 0 < 4 by decide)
  have key : ∀ w, IsM w 75 0 o.code ba.val hint.code 0 → decodeRaw w = .ok (.pref hint o ba) := by
    intro w hf; unfold IsM at hf
    rw [show decodeRaw w = decodeMem 75 w by simp only [decodeRaw, hf]; rfl]
    unfold decodeMem
    simp only [hf, vregOf_val, src_code, num16_val, hint_code, scope_code, path_code, codeOr_some, wsize_code, atomv_code]; rfl
  exact of_raw rfl (by simp) (key _ hf) hf.2.2.2.2.2.2

theorem Sys2Proof.Laws.WordRoundTrip.ldv (sz : WSize) (d : VReg) (o : Src) (ba : SReg) : Statement (.ldv sz d o ba) := by
  have hf := encM_fields (show 72 < 128 by decide) (show d.val < 128 by omega) (src_lt o) (show ba.val < 16 by omega) (show 0 < 8 by decide) (wsize_lt sz)
  have key : ∀ w, IsM w 72 d.val o.code ba.val 0 sz.sz → decodeRaw w = .ok (.ldv sz d o ba) := by
    intro w hf; unfold IsM at hf
    rw [show decodeRaw w = decodeMem 72 w by simp only [decodeRaw, hf]; rfl]
    unfold decodeMem
    simp only [hf, vregOf_val, src_code, num16_val, hint_code, scope_code, path_code, codeOr_some, wsize_code, atomv_code]; rfl
  exact of_raw rfl (by simp) (key _ hf) hf.2.2.2.2.2.2

theorem Sys2Proof.Laws.WordRoundTrip.stv (sz : WSize) (d : Src) (o : Src) (ba : SReg) : Statement (.stv sz d o ba) := by
  have hf := encM_fields (show 73 < 128 by decide) (src_lt d) (src_lt o) (show ba.val < 16 by omega) (show 0 < 8 by decide) (wsize_lt sz)
  have key : ∀ w, IsM w 73 d.code o.code ba.val 0 sz.sz → decodeRaw w = .ok (.stv sz d o ba) := by
    intro w hf; unfold IsM at hf
    rw [show decodeRaw w = decodeMem 73 w by simp only [decodeRaw, hf]; rfl]
    unfold decodeMem
    simp only [hf, vregOf_val, src_code, num16_val, hint_code, scope_code, path_code, codeOr_some, wsize_code, atomv_code]; rfl
  exact of_raw rfl (by simp) (key _ hf) hf.2.2.2.2.2.2

theorem Sys2Proof.Laws.WordRoundTrip.atomv (op : AtomvOp) (d : VReg) (o : Src) (ba : SReg) : Statement (.atomv op d o ba) := by
  have hf := encMO_fields (show 74 < 128 by decide) (show d.val < 128 by omega) (src_lt o) (show ba.val < 16 by omega) (atomv_lt op) (show 0 < 2 by decide)
  have key : ∀ w, IsMO w 74 d.val o.code ba.val op.code 0 → decodeRaw w = .ok (.atomv op d o ba) := by
    intro w hf; unfold IsMO at hf
    rw [show decodeRaw w = decodeMem 74 w by simp only [decodeRaw, hf]; rfl]
    unfold decodeMem
    simp only [hf, vregOf_val, src_code, num16_val, hint_code, scope_code, path_code, codeOr_some, wsize_code, atomv_code]; rfl
  exact of_raw rfl (by simp) (key _ hf) hf.2.2.2.2.2.2

theorem Sys2Proof.Laws.WordRoundTrip.towpathRequestArrival (n : Nat) : Statement (.towpathRequestArrival n) := none_of rfl

theorem Sys2Proof.Laws.WordRoundTrip.fence (sc : Scope) : Statement (.fence sc) := by
  have hf := encFN_fields (show 0 < 4 by decide) (scope_lt sc) (show 0 < 8 by decide) (show 0 < 8 by decide) (show 0 < 16 by decide) (show 0 < 16 by decide)
  have key : ∀ w, IsFN w 0 sc.code 0 0 0 0 → decodeRaw w = .ok (.fence sc) := by
    intro w hf; unfold IsFN at hf
    rw [show decodeRaw w = decodeMem 87 w by simp only [decodeRaw, hf]; rfl]
    unfold decodeMem
    simp only [hf, vregOf_val, src_code, num16_val, hint_code, scope_code, path_code, codeOr_some, wsize_code, atomv_code]; rfl
  exact of_raw rfl (by simp) (key _ hf) hf.2.2.2.2.2.2.2

theorem Sys2Proof.Laws.WordRoundTrip.fenceX (sc : Scope) (p1 : Path) (p2 : Path) : Statement (.fenceX sc p1 p2) := by
  have hf := encFN_fields (show 1 < 4 by decide) (scope_lt sc) (path_lt p1) (path_lt p2) (show 0 < 16 by decide) (show 0 < 16 by decide)
  have key : ∀ w, IsFN w 1 sc.code p1.code p2.code 0 0 → decodeRaw w = .ok (.fenceX sc p1 p2) := by
    intro w hf; unfold IsFN at hf
    rw [show decodeRaw w = decodeMem 87 w by simp only [decodeRaw, hf]; rfl]
    unfold decodeMem
    simp only [hf, vregOf_val, src_code, num16_val, hint_code, scope_code, path_code, codeOr_some, wsize_code, atomv_code]; rfl
  exact of_raw rfl (by simp) (key _ hf) hf.2.2.2.2.2.2.2

theorem Sys2Proof.Laws.WordRoundTrip.afence (sc : Scope) (ax : AReg) (ay : AReg) : Statement (.afence sc ax ay) := by
  have hf := encFN_fields (show 2 < 4 by decide) (scope_lt sc) (show 0 < 8 by decide) (show 0 < 8 by decide) (show ax.val < 16 by omega) (show ay.val < 16 by omega)
  have key : ∀ w, IsFN w 2 sc.code 0 0 ax.val ay.val → decodeRaw w = .ok (.afence sc ax ay) := by
    intro w hf; unfold IsFN at hf
    rw [show decodeRaw w = decodeMem 87 w by simp only [decodeRaw, hf]; rfl]
    unfold decodeMem
    simp only [hf, vregOf_val, src_code, num16_val, hint_code, scope_code, path_code, codeOr_some, wsize_code, atomv_code]; rfl
  exact of_raw rfl (by simp) (key _ hf) hf.2.2.2.2.2.2.2

theorem Sys2Proof.Laws.WordRoundTrip.nbinit (nb : NBReg) (cnt : Src) : Statement (.nbinit nb cnt) := by
  have hf := encE_fields (show 88 < 128 by decide) (show 0 < 128 by decide) (src_lt cnt) (show nb.val < 16 by omega) (show 0 < 8 by decide) (show 0 < 4 by decide)
  have key : ∀ w, IsE w 88 0 cnt.code nb.val 0 0 → decodeRaw w = .ok (.nbinit nb cnt) := by
    intro w hf; unfold IsE at hf
    rw [show decodeRaw w = decodeEngine 88 w by simp only [decodeRaw, hf]; rfl]
    unfold decodeEngine
    simp only [hf, vregOf_val, sregOf_val, src_code, num16_val, num8_val, num4_val]; rfl
  exact of_raw rfl (by simp) (key _ hf) hf.2.2.2.2.2.2

theorem Sys2Proof.Laws.WordRoundTrip.nbarr (d : SReg) (nb : NBReg) : Statement (.nbarr d nb) := by
  have hf := encE_fields (show 88 < 128 by decide) (show 96 + d.val < 128 by omega) (show 0 < 128 by decide) (show nb.val < 16 by omega) (show 1 < 8 by decide) (show 0 < 4 by decide)
  have key : ∀ w, IsE w 88 (96 + d.val) 0 nb.val 1 0 → decodeRaw w = .ok (.nbarr d nb) := by
    intro w hf; unfold IsE at hf
    rw [show decodeRaw w = decodeEngine 88 w by simp only [decodeRaw, hf]; rfl]
    unfold decodeEngine
    simp only [hf, vregOf_val, sregOf_val, src_code, num16_val, num8_val, num4_val]; rfl
  exact of_raw rfl (by simp) (key _ hf) hf.2.2.2.2.2.2

theorem Sys2Proof.Laws.WordRoundTrip.nbwait (d : SReg) (nb : NBReg) : Statement (.nbwait d nb) := by
  have hf := encE_fields (show 88 < 128 by decide) (show 96 + d.val < 128 by omega) (show 0 < 128 by decide) (show nb.val < 16 by omega) (show 2 < 8 by decide) (show 0 < 4 by decide)
  have key : ∀ w, IsE w 88 (96 + d.val) 0 nb.val 2 0 → decodeRaw w = .ok (.nbwait d nb) := by
    intro w hf; unfold IsE at hf
    rw [show decodeRaw w = decodeEngine 88 w by simp only [decodeRaw, hf]; rfl]
    unfold decodeEngine
    simp only [hf, vregOf_val, sregOf_val, src_code, num16_val, num8_val, num4_val]; rfl
  exact of_raw rfl (by simp) (key _ hf) hf.2.2.2.2.2.2

theorem Sys2Proof.Laws.WordRoundTrip.nbwaitComplete (g : Nat) (tag : Nat) : Statement (.nbwaitComplete g tag) := none_of rfl

theorem Sys2Proof.Laws.WordRoundTrip.tgarr (d : SReg) (grp : Src) : Statement (.tgarr d grp) := by
  have hf := encE_fields (show 89 < 128 by decide) (show 96 + d.val < 128 by omega) (src_lt grp) (show 0 < 16 by decide) (show 0 < 8 by decide) (show 0 < 4 by decide)
  have key : ∀ w, IsE w 89 (96 + d.val) grp.code 0 0 0 → decodeRaw w = .ok (.tgarr d grp) := by
    intro w hf; unfold IsE at hf
    rw [show decodeRaw w = decodeEngine 89 w by simp only [decodeRaw, hf]; rfl]
    unfold decodeEngine
    simp only [hf, vregOf_val, sregOf_val, src_code, num16_val, num8_val, num4_val]; rfl
  exact of_raw rfl (by simp) (key _ hf) hf.2.2.2.2.2.2

theorem Sys2Proof.Laws.WordRoundTrip.tgwait (d : SReg) (grp : Src) : Statement (.tgwait d grp) := by
  have hf := encE_fields (show 89 < 128 by decide) (show 96 + d.val < 128 by omega) (src_lt grp) (show 0 < 16 by decide) (show 1 < 8 by decide) (show 0 < 4 by decide)
  have key : ∀ w, IsE w 89 (96 + d.val) grp.code 0 1 0 → decodeRaw w = .ok (.tgwait d grp) := by
    intro w hf; unfold IsE at hf
    rw [show decodeRaw w = decodeEngine 89 w by simp only [decodeRaw, hf]; rfl]
    unfold decodeEngine
    simp only [hf, vregOf_val, sregOf_val, src_code, num16_val, num8_val, num4_val]; rfl
  exact of_raw rfl (by simp) (key _ hf) hf.2.2.2.2.2.2

theorem Sys2Proof.Laws.WordRoundTrip.tgwaitComplete (g : Nat) (tag : Nat) : Statement (.tgwaitComplete g tag) := none_of rfl

theorem Sys2Proof.Laws.WordRoundTrip.tgjoin (grp : Src) : Statement (.tgjoin grp) := by
  have hf := encE_fields (show 89 < 128 by decide) (show 0 < 128 by decide) (src_lt grp) (show 0 < 16 by decide) (show 2 < 8 by decide) (show 0 < 4 by decide)
  have key : ∀ w, IsE w 89 0 grp.code 0 2 0 → decodeRaw w = .ok (.tgjoin grp) := by
    intro w hf; unfold IsE at hf
    rw [show decodeRaw w = decodeEngine 89 w by simp only [decodeRaw, hf]; rfl]
    unfold decodeEngine
    simp only [hf, vregOf_val, sregOf_val, src_code, num16_val, num8_val, num4_val]; rfl
  exact of_raw rfl (by simp) (key _ hf) hf.2.2.2.2.2.2

theorem Sys2Proof.Laws.WordRoundTrip.tgleave (grp : Src) : Statement (.tgleave grp) := by
  have hf := encE_fields (show 89 < 128 by decide) (show 0 < 128 by decide) (src_lt grp) (show 0 < 16 by decide) (show 3 < 8 by decide) (show 0 < 4 by decide)
  have key : ∀ w, IsE w 89 0 grp.code 0 3 0 → decodeRaw w = .ok (.tgleave grp) := by
    intro w hf; unfold IsE at hf
    rw [show decodeRaw w = decodeEngine 89 w by simp only [decodeRaw, hf]; rfl]
    unfold decodeEngine
    simp only [hf, vregOf_val, sregOf_val, src_code, num16_val, num8_val, num4_val]; rfl
  exact of_raw rfl (by simp) (key _ hf) hf.2.2.2.2.2.2

theorem Sys2Proof.Laws.WordRoundTrip.evsig (e : Src) : Statement (.evsig e) := by
  have hf := encE_fields (show 90 < 128 by decide) (show 0 < 128 by decide) (src_lt e) (show 0 < 16 by decide) (show 0 < 8 by decide) (show 0 < 4 by decide)
  have key : ∀ w, IsE w 90 0 e.code 0 0 0 → decodeRaw w = .ok (.evsig e) := by
    intro w hf; unfold IsE at hf
    rw [show decodeRaw w = decodeEngine 90 w by simp only [decodeRaw, hf]; rfl]
    unfold decodeEngine
    simp only [hf, vregOf_val, sregOf_val, src_code, num16_val, num8_val, num4_val]; rfl
  exact of_raw rfl (by simp) (key _ hf) hf.2.2.2.2.2.2

theorem Sys2Proof.Laws.WordRoundTrip.evwait (d : SReg) (e : Src) : Statement (.evwait d e) := by
  have hf := encE_fields (show 90 < 128 by decide) (show 96 + d.val < 128 by omega) (src_lt e) (show 0 < 16 by decide) (show 1 < 8 by decide) (show 0 < 4 by decide)
  have key : ∀ w, IsE w 90 (96 + d.val) e.code 0 1 0 → decodeRaw w = .ok (.evwait d e) := by
    intro w hf; unfold IsE at hf
    rw [show decodeRaw w = decodeEngine 90 w by simp only [decodeRaw, hf]; rfl]
    unfold decodeEngine
    simp only [hf, vregOf_val, sregOf_val, src_code, num16_val, num8_val, num4_val]; rfl
  exact of_raw rfl (by simp) (key _ hf) hf.2.2.2.2.2.2

theorem Sys2Proof.Laws.WordRoundTrip.evtest (d : SReg) (e : Src) : Statement (.evtest d e) := by
  have hf := encE_fields (show 90 < 128 by decide) (show 96 + d.val < 128 by omega) (src_lt e) (show 0 < 16 by decide) (show 2 < 8 by decide) (show 0 < 4 by decide)
  have key : ∀ w, IsE w 90 (96 + d.val) e.code 0 2 0 → decodeRaw w = .ok (.evtest d e) := by
    intro w hf; unfold IsE at hf
    rw [show decodeRaw w = decodeEngine 90 w by simp only [decodeRaw, hf]; rfl]
    unfold decodeEngine
    simp only [hf, vregOf_val, sregOf_val, src_code, num16_val, num8_val, num4_val]; rfl
  exact of_raw rfl (by simp) (key _ hf) hf.2.2.2.2.2.2

theorem Sys2Proof.Laws.WordRoundTrip.eventOverflowOperation (tower : Nat) : Statement (.eventOverflowOperation tower) := none_of rfl

theorem Sys2Proof.Laws.WordRoundTrip.qbind (q : QReg) (desc : Src) : Statement (.qbind q desc) := by
  have hf := encE_fields (show 91 < 128 by decide) (show 0 < 128 by decide) (src_lt desc) (show q.val < 16 by omega) (show 0 < 8 by decide) (show 0 < 4 by decide)
  have key : ∀ w, IsE w 91 0 desc.code q.val 0 0 → decodeRaw w = .ok (.qbind q desc) := by
    intro w hf; unfold IsE at hf
    rw [show decodeRaw w = decodeEngine 91 w by simp only [decodeRaw, hf]; rfl]
    unfold decodeEngine
    simp only [hf, vregOf_val, sregOf_val, src_code, num16_val, num8_val, num4_val]; rfl
  exact of_raw rfl (by simp) (key _ hf) hf.2.2.2.2.2.2

theorem Sys2Proof.Laws.WordRoundTrip.qpush (q : QReg) (vs : VReg) : Statement (.qpush q vs) := by
  have hf := encE_fields (show 91 < 128 by decide) (show vs.val < 128 by omega) (show 0 < 128 by decide) (show q.val < 16 by omega) (show 1 < 8 by decide) (show 0 < 4 by decide)
  have key : ∀ w, IsE w 91 vs.val 0 q.val 1 0 → decodeRaw w = .ok (.qpush q vs) := by
    intro w hf; unfold IsE at hf
    rw [show decodeRaw w = decodeEngine 91 w by simp only [decodeRaw, hf]; rfl]
    unfold decodeEngine
    simp only [hf, vregOf_val, sregOf_val, src_code, num16_val, num8_val, num4_val]; rfl
  exact of_raw rfl (by simp) (key _ hf) hf.2.2.2.2.2.2

theorem Sys2Proof.Laws.WordRoundTrip.qpop (d : VReg) (q : QReg) : Statement (.qpop d q) := by
  have hf := encE_fields (show 91 < 128 by decide) (show d.val < 128 by omega) (show 0 < 128 by decide) (show q.val < 16 by omega) (show 2 < 8 by decide) (show 0 < 4 by decide)
  have key : ∀ w, IsE w 91 d.val 0 q.val 2 0 → decodeRaw w = .ok (.qpop d q) := by
    intro w hf; unfold IsE at hf
    rw [show decodeRaw w = decodeEngine 91 w by simp only [decodeRaw, hf]; rfl]
    unfold decodeEngine
    simp only [hf, vregOf_val, sregOf_val, src_code, num16_val, num8_val, num4_val]; rfl
  exact of_raw rfl (by simp) (key _ hf) hf.2.2.2.2.2.2

theorem Sys2Proof.Laws.WordRoundTrip.qpeek (d : VReg) (q : QReg) : Statement (.qpeek d q) := by
  have hf := encE_fields (show 91 < 128 by decide) (show d.val < 128 by omega) (show 0 < 128 by decide) (show q.val < 16 by omega) (show 3 < 8 by decide) (show 0 < 4 by decide)
  have key : ∀ w, IsE w 91 d.val 0 q.val 3 0 → decodeRaw w = .ok (.qpeek d q) := by
    intro w hf; unfold IsE at hf
    rw [show decodeRaw w = decodeEngine 91 w by simp only [decodeRaw, hf]; rfl]
    unfold decodeEngine
    simp only [hf, vregOf_val, sregOf_val, src_code, num16_val, num8_val, num4_val]; rfl
  exact of_raw rfl (by simp) (key _ hf) hf.2.2.2.2.2.2

theorem Sys2Proof.Laws.WordRoundTrip.qpopRecordArrival (g : Nat) (q : QReg) : Statement (.qpopRecordArrival g q) := none_of rfl

theorem Sys2Proof.Laws.WordRoundTrip.qdepth (d : SReg) (q : QReg) : Statement (.qdepth d q) := by
  have hf := encE_fields (show 91 < 128 by decide) (show 96 + d.val < 128 by omega) (show 0 < 128 by decide) (show q.val < 16 by omega) (show 4 < 8 by decide) (show 0 < 4 by decide)
  have key : ∀ w, IsE w 91 (96 + d.val) 0 q.val 4 0 → decodeRaw w = .ok (.qdepth d q) := by
    intro w hf; unfold IsE at hf
    rw [show decodeRaw w = decodeEngine 91 w by simp only [decodeRaw, hf]; rfl]
    unfold decodeEngine
    simp only [hf, vregOf_val, sregOf_val, src_code, num16_val, num8_val, num4_val]; rfl
  exact of_raw rfl (by simp) (key _ hf) hf.2.2.2.2.2.2

theorem Sys2Proof.Laws.WordRoundTrip.shape (h : HReg) (sk : SReg) : Statement (.shape h sk) := by
  have hf := encE_fields (show 96 < 128 by decide) (show 96 + sk.val < 128 by omega) (show 0 < 128 by decide) (show h.val < 16 by omega) (show 0 < 8 by decide) (show 0 < 4 by decide)
  have key : ∀ w, IsE w 96 (96 + sk.val) 0 h.val 0 0 → decodeRaw w = .ok (.shape h sk) := by
    intro w hf; unfold IsE at hf
    rw [show decodeRaw w = decodeEngine 96 w by simp only [decodeRaw, hf]; rfl]
    unfold decodeEngine
    simp only [hf, vregOf_val, sregOf_val, src_code, num16_val, num8_val, num4_val]; rfl
  exact of_raw rfl (by simp) (key _ hf) hf.2.2.2.2.2.2

theorem Sys2Proof.Laws.WordRoundTrip.copy (follow : Bool) (tomem : Bool) (h : HReg) (rng : Src) (nb : NBReg) : Statement (.copy follow tomem h rng nb) := by
  cases follow <;> cases tomem
  · have hf := encE_fields (show 97 < 128 by decide) (src_lt rng) (show nb.val < 128 by omega) (show h.val < 16 by omega) (show 0 < 8 by decide) (show 0 < 4 by decide)
    have key : ∀ w, IsE w 97 rng.code nb.val h.val 0 0 → decodeRaw w = .ok (.copy false false h rng nb) := by
      intro w hf; unfold IsE at hf
      rw [show decodeRaw w = decodeEngine 97 w by simp only [decodeRaw, hf]; rfl]
      unfold decodeEngine
      simp only [hf, vregOf_val, sregOf_val, src_code, num16_val, num8_val, num4_val]; rfl
    exact of_raw rfl (by simp) (key _ hf) hf.2.2.2.2.2.2
  · have hf := encE_fields (show 97 < 128 by decide) (src_lt rng) (show nb.val < 128 by omega) (show h.val < 16 by omega) (show 0 < 8 by decide) (show 2 < 4 by decide)
    have key : ∀ w, IsE w 97 rng.code nb.val h.val 0 2 → decodeRaw w = .ok (.copy false true h rng nb) := by
      intro w hf; unfold IsE at hf
      rw [show decodeRaw w = decodeEngine 97 w by simp only [decodeRaw, hf]; rfl]
      unfold decodeEngine
      simp only [hf, vregOf_val, sregOf_val, src_code, num16_val, num8_val, num4_val]; rfl
    exact of_raw rfl (by simp) (key _ hf) hf.2.2.2.2.2.2
  · have hf := encE_fields (show 97 < 128 by decide) (src_lt rng) (show nb.val < 128 by omega) (show h.val < 16 by omega) (show 0 < 8 by decide) (show 1 < 4 by decide)
    have key : ∀ w, IsE w 97 rng.code nb.val h.val 0 1 → decodeRaw w = .ok (.copy true false h rng nb) := by
      intro w hf; unfold IsE at hf
      rw [show decodeRaw w = decodeEngine 97 w by simp only [decodeRaw, hf]; rfl]
      unfold decodeEngine
      simp only [hf, vregOf_val, sregOf_val, src_code, num16_val, num8_val, num4_val]; rfl
    exact of_raw rfl (by simp) (key _ hf) hf.2.2.2.2.2.2
  · have hf := encE_fields (show 97 < 128 by decide) (src_lt rng) (show nb.val < 128 by omega) (show h.val < 16 by omega) (show 0 < 8 by decide) (show 3 < 4 by decide)
    have key : ∀ w, IsE w 97 rng.code nb.val h.val 0 3 → decodeRaw w = .ok (.copy true true h rng nb) := by
      intro w hf; unfold IsE at hf
      rw [show decodeRaw w = decodeEngine 97 w by simp only [decodeRaw, hf]; rfl]
      unfold decodeEngine
      simp only [hf, vregOf_val, sregOf_val, src_code, num16_val, num8_val, num4_val]; rfl
    exact of_raw rfl (by simp) (key _ hf) hf.2.2.2.2.2.2

theorem Sys2Proof.Laws.WordRoundTrip.copyCsr (h : HReg) (rng : Src) (nb : NBReg) : Statement (.copyCsr h rng nb) := by
  have hf := encE_fields (show 97 < 128 by decide) (src_lt rng) (show nb.val < 128 by omega) (show h.val < 16 by omega) (show 1 < 8 by decide) (show 0 < 4 by decide)
  have key : ∀ w, IsE w 97 rng.code nb.val h.val 1 0 → decodeRaw w = .ok (.copyCsr h rng nb) := by
    intro w hf; unfold IsE at hf
    rw [show decodeRaw w = decodeEngine 97 w by simp only [decodeRaw, hf]; rfl]
    unfold decodeEngine
    simp only [hf, vregOf_val, sregOf_val, src_code, num16_val, num8_val, num4_val]; rfl
  exact of_raw rfl (by simp) (key _ hf) hf.2.2.2.2.2.2

theorem Sys2Proof.Laws.WordRoundTrip.copyPlane (follow : Bool) (tomem : Bool) (h : HReg) (rng : Src) (nb : NBReg) : Statement (.copyPlane follow tomem h rng nb) := by
  cases follow <;> cases tomem
  · have hf := encE_fields (show 97 < 128 by decide) (src_lt rng) (show nb.val < 128 by omega) (show h.val < 16 by omega) (show 2 < 8 by decide) (show 0 < 4 by decide)
    have key : ∀ w, IsE w 97 rng.code nb.val h.val 2 0 → decodeRaw w = .ok (.copyPlane false false h rng nb) := by
      intro w hf; unfold IsE at hf
      rw [show decodeRaw w = decodeEngine 97 w by simp only [decodeRaw, hf]; rfl]
      unfold decodeEngine
      simp only [hf, vregOf_val, sregOf_val, src_code, num16_val, num8_val, num4_val]; rfl
    exact of_raw rfl (by simp) (key _ hf) hf.2.2.2.2.2.2
  · have hf := encE_fields (show 97 < 128 by decide) (src_lt rng) (show nb.val < 128 by omega) (show h.val < 16 by omega) (show 2 < 8 by decide) (show 2 < 4 by decide)
    have key : ∀ w, IsE w 97 rng.code nb.val h.val 2 2 → decodeRaw w = .ok (.copyPlane false true h rng nb) := by
      intro w hf; unfold IsE at hf
      rw [show decodeRaw w = decodeEngine 97 w by simp only [decodeRaw, hf]; rfl]
      unfold decodeEngine
      simp only [hf, vregOf_val, sregOf_val, src_code, num16_val, num8_val, num4_val]; rfl
    exact of_raw rfl (by simp) (key _ hf) hf.2.2.2.2.2.2
  · have hf := encE_fields (show 97 < 128 by decide) (src_lt rng) (show nb.val < 128 by omega) (show h.val < 16 by omega) (show 2 < 8 by decide) (show 1 < 4 by decide)
    have key : ∀ w, IsE w 97 rng.code nb.val h.val 2 1 → decodeRaw w = .ok (.copyPlane true false h rng nb) := by
      intro w hf; unfold IsE at hf
      rw [show decodeRaw w = decodeEngine 97 w by simp only [decodeRaw, hf]; rfl]
      unfold decodeEngine
      simp only [hf, vregOf_val, sregOf_val, src_code, num16_val, num8_val, num4_val]; rfl
    exact of_raw rfl (by simp) (key _ hf) hf.2.2.2.2.2.2
  · have hf := encE_fields (show 97 < 128 by decide) (src_lt rng) (show nb.val < 128 by omega) (show h.val < 16 by omega) (show 2 < 8 by decide) (show 3 < 4 by decide)
    have key : ∀ w, IsE w 97 rng.code nb.val h.val 2 3 → decodeRaw w = .ok (.copyPlane true true h rng nb) := by
      intro w hf; unfold IsE at hf
      rw [show decodeRaw w = decodeEngine 97 w by simp only [decodeRaw, hf]; rfl]
      unfold decodeEngine
      simp only [hf, vregOf_val, sregOf_val, src_code, num16_val, num8_val, num4_val]; rfl
    exact of_raw rfl (by simp) (key _ hf) hf.2.2.2.2.2.2

theorem Sys2Proof.Laws.WordRoundTrip.copyQ (h : HReg) (rng : Src) (nb : NBReg) : Statement (.copyQ h rng nb) := by
  have hf := encE_fields (show 97 < 128 by decide) (src_lt rng) (show nb.val < 128 by omega) (show h.val < 16 by omega) (show 4 < 8 by decide) (show 0 < 4 by decide)
  have key : ∀ w, IsE w 97 rng.code nb.val h.val 4 0 → decodeRaw w = .ok (.copyQ h rng nb) := by
    intro w hf; unfold IsE at hf
    rw [show decodeRaw w = decodeEngine 97 w by simp only [decodeRaw, hf]; rfl]
    unfold decodeEngine
    simp only [hf, vregOf_val, sregOf_val, src_code, num16_val, num8_val, num4_val]; rfl
  exact of_raw rfl (by simp) (key _ hf) hf.2.2.2.2.2.2

theorem Sys2Proof.Laws.WordRoundTrip.copyqRecordDelivery (cp : Nat) : Statement (.copyqRecordDelivery cp) := none_of rfl

theorem Sys2Proof.Laws.WordRoundTrip.copyComplete (cp : Nat) : Statement (.copyComplete cp) := none_of rfl

theorem Sys2Proof.Laws.WordRoundTrip.followOnIssue (cp : Nat) : Statement (.followOnIssue cp) := none_of rfl

theorem Sys2Proof.Laws.WordRoundTrip.cpstat (d : SReg) (h : HReg) : Statement (.cpstat d h) := by
  have hf := encE_fields (show 97 < 128 by decide) (show 96 + d.val < 128 by omega) (show 0 < 128 by decide) (show h.val < 16 by omega) (show 3 < 8 by decide) (show 0 < 4 by decide)
  have key : ∀ w, IsE w 97 (96 + d.val) 0 h.val 3 0 → decodeRaw w = .ok (.cpstat d h) := by
    intro w hf; unfold IsE at hf
    rw [show decodeRaw w = decodeEngine 97 w by simp only [decodeRaw, hf]; rfl]
    unfold decodeEngine
    simp only [hf, vregOf_val, sregOf_val, src_code, num16_val, num8_val, num4_val]; rfl
  exact of_raw rfl (by simp) (key _ hf) hf.2.2.2.2.2.2

theorem Sys2Proof.Laws.WordRoundTrip.mma (t : TReg) (ha : HReg) (hb : HReg) : Statement (.mma t ha hb) := by
  have hf := encE_fields (show 98 < 128 by decide) (show 0 < 128 by decide) (show hb.val < 128 by omega) (show ha.val < 16 by omega) (show 0 < 8 by decide) (show t.val < 4 by omega)
  have key : ∀ w, IsE w 98 0 hb.val ha.val 0 t.val → decodeRaw w = .ok (.mma t ha hb) := by
    intro w hf; unfold IsE at hf
    rw [show decodeRaw w = decodeEngine 98 w by simp only [decodeRaw, hf]; rfl]
    unfold decodeEngine
    simp only [hf, vregOf_val, sregOf_val, src_code, num16_val, num8_val, num4_val]; rfl
  exact of_raw rfl (by simp) (key _ hf) hf.2.2.2.2.2.2

theorem Sys2Proof.Laws.WordRoundTrip.mmaI (t : TReg) (ha : HReg) (hb : HReg) : Statement (.mmaI t ha hb) := by
  have hf := encE_fields (show 98 < 128 by decide) (show 0 < 128 by decide) (show hb.val < 128 by omega) (show ha.val < 16 by omega) (show 1 < 8 by decide) (show t.val < 4 by omega)
  have key : ∀ w, IsE w 98 0 hb.val ha.val 1 t.val → decodeRaw w = .ok (.mmaI t ha hb) := by
    intro w hf; unfold IsE at hf
    rw [show decodeRaw w = decodeEngine 98 w by simp only [decodeRaw, hf]; rfl]
    unfold decodeEngine
    simp only [hf, vregOf_val, sregOf_val, src_code, num16_val, num8_val, num4_val]; rfl
  exact of_raw rfl (by simp) (key _ hf) hf.2.2.2.2.2.2

theorem Sys2Proof.Laws.WordRoundTrip.mmaAd (t : TReg) (ha : HReg) (hb : HReg) (sv : SReg) : Statement (.mmaAd t ha hb sv) := by
  have hf := encE_fields (show 98 < 128 by decide) (show 96 + sv.val < 128 by omega) (show hb.val < 128 by omega) (show ha.val < 16 by omega) (show 2 < 8 by decide) (show t.val < 4 by omega)
  have key : ∀ w, IsE w 98 (96 + sv.val) hb.val ha.val 2 t.val → decodeRaw w = .ok (.mmaAd t ha hb sv) := by
    intro w hf; unfold IsE at hf
    rw [show decodeRaw w = decodeEngine 98 w by simp only [decodeRaw, hf]; rfl]
    unfold decodeEngine
    simp only [hf, vregOf_val, sregOf_val, src_code, num16_val, num8_val, num4_val]; rfl
  exact of_raw rfl (by simp) (key _ hf) hf.2.2.2.2.2.2

theorem Sys2Proof.Laws.WordRoundTrip.mmaQ (t : TReg) (qa : QReg) (hb : HReg) (dsc : Src) : Statement (.mmaQ t qa hb dsc) := by
  have hf := encE_fields (show 98 < 128 by decide) (src_lt dsc) (show hb.val < 128 by omega) (show qa.val < 16 by omega) (show 3 < 8 by decide) (show t.val < 4 by omega)
  have key : ∀ w, IsE w 98 dsc.code hb.val qa.val 3 t.val → decodeRaw w = .ok (.mmaQ t qa hb dsc) := by
    intro w hf; unfold IsE at hf
    rw [show decodeRaw w = decodeEngine 98 w by simp only [decodeRaw, hf]; rfl]
    unfold decodeEngine
    simp only [hf, vregOf_val, sregOf_val, src_code, num16_val, num8_val, num4_val]; rfl
  exact of_raw rfl (by simp) (key _ hf) hf.2.2.2.2.2.2

theorem Sys2Proof.Laws.WordRoundTrip.passStart (c : Nat) : Statement (.passStart c) := none_of rfl

theorem Sys2Proof.Laws.WordRoundTrip.passEnd (c : Nat) : Statement (.passEnd c) := none_of rfl

theorem Sys2Proof.Laws.WordRoundTrip.layerFail (c : Nat) (layer : Nat) : Statement (.layerFail c layer) := none_of rfl

theorem Sys2Proof.Laws.WordRoundTrip.stagingRecordMove (c : Nat) (mi : Nat) : Statement (.stagingRecordMove c mi) := none_of rfl

theorem Sys2Proof.Laws.WordRoundTrip.adapterFillComplete (c : Nat) (n : Nat) : Statement (.adapterFillComplete c n) := none_of rfl

theorem Sys2Proof.Laws.WordRoundTrip.matrixComplete (c : Nat) (mi : Nat) : Statement (.matrixComplete c mi) := none_of rfl

theorem Sys2Proof.Laws.WordRoundTrip.macq (t : TReg) : Statement (.macq t) := by
  have hf := encE_fields (show 99 < 128 by decide) (show 0 < 128 by decide) (show 0 < 128 by decide) (show 0 < 16 by decide) (show 0 < 8 by decide) (show t.val < 4 by omega)
  have key : ∀ w, IsE w 99 0 0 0 0 t.val → decodeRaw w = .ok (.macq t) := by
    intro w hf; unfold IsE at hf
    rw [show decodeRaw w = decodeEngine 99 w by simp only [decodeRaw, hf]; rfl]
    unfold decodeEngine
    simp only [hf, vregOf_val, sregOf_val, src_code, num16_val, num8_val, num4_val]; rfl
  exact of_raw rfl (by simp) (key _ hf) hf.2.2.2.2.2.2

theorem Sys2Proof.Laws.WordRoundTrip.macqComplete (g : Nat) (t : TReg) : Statement (.macqComplete g t) := none_of rfl

theorem Sys2Proof.Laws.WordRoundTrip.mrel (t : TReg) : Statement (.mrel t) := by
  have hf := encE_fields (show 99 < 128 by decide) (show 0 < 128 by decide) (show 0 < 128 by decide) (show 0 < 16 by decide) (show 1 < 8 by decide) (show t.val < 4 by omega)
  have key : ∀ w, IsE w 99 0 0 0 1 t.val → decodeRaw w = .ok (.mrel t) := by
    intro w hf; unfold IsE at hf
    rw [show decodeRaw w = decodeEngine 99 w by simp only [decodeRaw, hf]; rfl]
    unfold decodeEngine
    simp only [hf, vregOf_val, sregOf_val, src_code, num16_val, num8_val, num4_val]; rfl
  exact of_raw rfl (by simp) (key _ hf) hf.2.2.2.2.2.2

theorem Sys2Proof.Laws.WordRoundTrip.mlda (d : VReg) (t : TReg) (pos : Src) : Statement (.mlda d t pos) := by
  have hf := encE_fields (show 99 < 128 by decide) (show d.val < 128 by omega) (src_lt pos) (show 0 < 16 by decide) (show 2 < 8 by decide) (show t.val < 4 by omega)
  have key : ∀ w, IsE w 99 d.val pos.code 0 2 t.val → decodeRaw w = .ok (.mlda d t pos) := by
    intro w hf; unfold IsE at hf
    rw [show decodeRaw w = decodeEngine 99 w by simp only [decodeRaw, hf]; rfl]
    unfold decodeEngine
    simp only [hf, vregOf_val, sregOf_val, src_code, num16_val, num8_val, num4_val]; rfl
  exact of_raw rfl (by simp) (key _ hf) hf.2.2.2.2.2.2

theorem Sys2Proof.Laws.WordRoundTrip.msta (vs : VReg) (t : TReg) (pos : Src) : Statement (.msta vs t pos) := by
  have hf := encE_fields (show 99 < 128 by decide) (show vs.val < 128 by omega) (src_lt pos) (show 0 < 16 by decide) (show 3 < 8 by decide) (show t.val < 4 by omega)
  have key : ∀ w, IsE w 99 vs.val pos.code 0 3 t.val → decodeRaw w = .ok (.msta vs t pos) := by
    intro w hf; unfold IsE at hf
    rw [show decodeRaw w = decodeEngine 99 w by simp only [decodeRaw, hf]; rfl]
    unfold decodeEngine
    simp only [hf, vregOf_val, sregOf_val, src_code, num16_val, num8_val, num4_val]; rfl
  exact of_raw rfl (by simp) (key _ hf) hf.2.2.2.2.2.2

theorem Sys2Proof.Laws.WordRoundTrip.mclr (t : TReg) : Statement (.mclr t) := by
  have hf := encE_fields (show 99 < 128 by decide) (show 0 < 128 by decide) (show 0 < 128 by decide) (show 0 < 16 by decide) (show 4 < 8 by decide) (show t.val < 4 by omega)
  have key : ∀ w, IsE w 99 0 0 0 4 t.val → decodeRaw w = .ok (.mclr t) := by
    intro w hf; unfold IsE at hf
    rw [show decodeRaw w = decodeEngine 99 w by simp only [decodeRaw, hf]; rfl]
    unfold decodeEngine
    simp only [hf, vregOf_val, sregOf_val, src_code, num16_val, num8_val, num4_val]; rfl
  exact of_raw rfl (by simp) (key _ hf) hf.2.2.2.2.2.2

theorem Sys2Proof.Laws.WordRoundTrip.adinv (id : Src) : Statement (.adinv id) := by
  have hf := encE_fields (show 100 < 128 by decide) (show 0 < 128 by decide) (src_lt id) (show 0 < 16 by decide) (show 0 < 8 by decide) (show 0 < 4 by decide)
  have key : ∀ w, IsE w 100 0 id.code 0 0 0 → decodeRaw w = .ok (.adinv id) := by
    intro w hf; unfold IsE at hf
    rw [show decodeRaw w = decodeEngine 100 w by simp only [decodeRaw, hf]; rfl]
    unfold decodeEngine
    simp only [hf, vregOf_val, sregOf_val, src_code, num16_val, num8_val, num4_val]; rfl
  exact of_raw rfl (by simp) (key _ hf) hf.2.2.2.2.2.2

theorem Sys2Proof.Laws.WordRoundTrip.islpush (mark : Bool) (q : QReg) (vs : VReg) (tag : Src) : Statement (.islpush mark q vs tag) := by
  cases mark
  · have hf := encE_fields (show 104 < 128 by decide) (show vs.val < 128 by omega) (src_lt tag) (show q.val < 16 by omega) (show 0 < 8 by decide) (show 0 < 4 by decide)
    have key : ∀ w, IsE w 104 vs.val tag.code q.val 0 0 → decodeRaw w = .ok (.islpush false q vs tag) := by
      intro w hf; unfold IsE at hf
      rw [show decodeRaw w = decodeEngine 104 w by simp only [decodeRaw, hf]; rfl]
      unfold decodeEngine
      simp only [hf, vregOf_val, sregOf_val, src_code, num16_val, num8_val, num4_val]; rfl
    exact of_raw rfl (by simp) (key _ hf) hf.2.2.2.2.2.2
  · have hf := encE_fields (show 104 < 128 by decide) (show vs.val < 128 by omega) (src_lt tag) (show q.val < 16 by omega) (show 0 < 8 by decide) (show 1 < 4 by decide)
    have key : ∀ w, IsE w 104 vs.val tag.code q.val 0 1 → decodeRaw w = .ok (.islpush true q vs tag) := by
      intro w hf; unfold IsE at hf
      rw [show decodeRaw w = decodeEngine 104 w by simp only [decodeRaw, hf]; rfl]
      unfold decodeEngine
      simp only [hf, vregOf_val, sregOf_val, src_code, num16_val, num8_val, num4_val]; rfl
    exact of_raw rfl (by simp) (key _ hf) hf.2.2.2.2.2.2

theorem Sys2Proof.Laws.WordRoundTrip.islrecv (d : SReg) (q : QReg) (cnt : Src) : Statement (.islrecv d q cnt) := by
  have hf := encE_fields (show 104 < 128 by decide) (show 96 + d.val < 128 by omega) (src_lt cnt) (show q.val < 16 by omega) (show 1 < 8 by decide) (show 0 < 4 by decide)
  have key : ∀ w, IsE w 104 (96 + d.val) cnt.code q.val 1 0 → decodeRaw w = .ok (.islrecv d q cnt) := by
    intro w hf; unfold IsE at hf
    rw [show decodeRaw w = decodeEngine 104 w by simp only [decodeRaw, hf]; rfl]
    unfold decodeEngine
    simp only [hf, vregOf_val, sregOf_val, src_code, num16_val, num8_val, num4_val]; rfl
  exact of_raw rfl (by simp) (key _ hf) hf.2.2.2.2.2.2

theorem Sys2Proof.Laws.WordRoundTrip.islrecvComplete (g : Nat) (tag : Nat) : Statement (.islrecvComplete g tag) := none_of rfl

theorem Sys2Proof.Laws.WordRoundTrip.islstat (d : SReg) (isel : Src) : Statement (.islstat d isel) := by
  have hf := encE_fields (show 104 < 128 by decide) (show 96 + d.val < 128 by omega) (src_lt isel) (show 0 < 16 by decide) (show 2 < 8 by decide) (show 0 < 4 by decide)
  have key : ∀ w, IsE w 104 (96 + d.val) isel.code 0 2 0 → decodeRaw w = .ok (.islstat d isel) := by
    intro w hf; unfold IsE at hf
    rw [show decodeRaw w = decodeEngine 104 w by simp only [decodeRaw, hf]; rfl]
    unfold decodeEngine
    simp only [hf, vregOf_val, sregOf_val, src_code, num16_val, num8_val, num4_val]; rfl
  exact of_raw rfl (by simp) (key _ hf) hf.2.2.2.2.2.2

theorem Sys2Proof.Laws.WordRoundTrip.rdsr (d : SReg) (n : BitVec 16) : Statement (.rdsr d n) := by
  have hf := encI_fields (show 108 < 128 by decide) (show 96 + d.val < 128 by omega) (show n.toNat < 65536 by omega)
  have key : ∀ w, IsI w 108 (96 + d.val) n.toNat → decodeRaw w = .ok (.rdsr d n) := by
    intro w hf; unfold IsI at hf
    rw [show decodeRaw w = decodeSystem 108 w by simp only [decodeRaw, hf]; rfl]
    unfold decodeSystem
    simp only [hf, vregOf_val, sregOf_val, src_code, imm16]; rfl
  exact of_raw rfl (by simp) (key _ hf) hf.2.2.2

theorem Sys2Proof.Laws.WordRoundTrip.wrsr (n : BitVec 16) (src : Src) : Statement (.wrsr n src) := by
  have hf := encI_fields (show 109 < 128 by decide) (src_lt src) (show n.toNat < 65536 by omega)
  have key : ∀ w, IsI w 109 src.code n.toNat → decodeRaw w = .ok (.wrsr n src) := by
    intro w hf; unfold IsI at hf
    rw [show decodeRaw w = decodeSystem 109 w by simp only [decodeRaw, hf]; rfl]
    unfold decodeSystem
    simp only [hf, vregOf_val, sregOf_val, src_code, imm16]; rfl
  exact of_raw rfl (by simp) (key _ hf) hf.2.2.2

theorem Sys2Proof.Laws.WordRoundTrip.trap (code : BitVec 16) : Statement (.trap code) := by
  have hf := encI_fields (show 110 < 128 by decide) (show 0 < 128 by decide) (show code.toNat < 65536 by omega)
  have key : ∀ w, IsI w 110 0 code.toNat → decodeRaw w = .ok (.trap code) := by
    intro w hf; unfold IsI at hf
    rw [show decodeRaw w = decodeSystem 110 w by simp only [decodeRaw, hf]; rfl]
    unfold decodeSystem
    simp only [hf, vregOf_val, sregOf_val, src_code, imm16]; rfl
  exact of_raw rfl (by simp) (key _ hf) hf.2.2.2

theorem Sys2Proof.Laws.WordRoundTrip.brkpt (code : BitVec 16) : Statement (.brkpt code) := by
  have hf := encI_fields (show 110 < 128 by decide) (show 1 < 128 by decide) (show code.toNat < 65536 by omega)
  have key : ∀ w, IsI w 110 1 code.toNat → decodeRaw w = .ok (.brkpt code) := by
    intro w hf; unfold IsI at hf
    rw [show decodeRaw w = decodeSystem 110 w by simp only [decodeRaw, hf]; rfl]
    unfold decodeSystem
    simp only [hf, vregOf_val, sregOf_val, src_code, imm16]; rfl
  exact of_raw rfl (by simp) (key _ hf) hf.2.2.2

theorem Sys2Proof.Laws.WordRoundTrip.dbgmark (code : BitVec 16) : Statement (.dbgmark code) := by
  have hf := encI_fields (show 110 < 128 by decide) (show 2 < 128 by decide) (show code.toNat < 65536 by omega)
  have key : ∀ w, IsI w 110 2 code.toNat → decodeRaw w = .ok (.dbgmark code) := by
    intro w hf; unfold IsI at hf
    rw [show decodeRaw w = decodeSystem 110 w by simp only [decodeRaw, hf]; rfl]
    unfold decodeSystem
    simp only [hf, vregOf_val, sregOf_val, src_code, imm16]; rfl
  exact of_raw rfl (by simp) (key _ hf) hf.2.2.2

theorem Sys2Proof.Laws.WordRoundTrip.sleep (a : Src) : Statement (.sleep a) := by
  have hf := encR_fields (show 111 < 128 by decide) (show 0 < 128 by decide) (src_lt a) (show 0 < 128 by decide) (show 2 < 4 by decide)
  have key : ∀ w, IsR w 111 0 a.code 0 2 → decodeRaw w = .ok (.sleep a) := by
    intro w hf; unfold IsR at hf
    rw [show decodeRaw w = decodeSystem 111 w by simp only [decodeRaw, hf]; rfl]
    unfold decodeSystem
    simp only [hf, vregOf_val, sregOf_val, src_code, imm16]; rfl
  exact of_raw rfl (by simp) (key _ hf) hf.2.2.2.2.2.2.2.2.2.2.2

theorem Sys2Proof.Laws.WordRoundTrip.sleepExpiry (g : Nat) : Statement (.sleepExpiry g) := none_of rfl

theorem Sys2Proof.Laws.WordRoundTrip.getinfo (d : SReg) (a : Src) : Statement (.getinfo d a) := by
  have hf := encR_fields (show 111 < 128 by decide) (show 96 + d.val < 128 by omega) (src_lt a) (show 0 < 128 by decide) (show 3 < 4 by decide)
  have key : ∀ w, IsR w 111 (96 + d.val) a.code 0 3 → decodeRaw w = .ok (.getinfo d a) := by
    intro w hf; unfold IsR at hf
    rw [show decodeRaw w = decodeSystem 111 w by simp only [decodeRaw, hf]; rfl]
    unfold decodeSystem
    simp only [hf, vregOf_val, sregOf_val, src_code, imm16]; rfl
  exact of_raw rfl (by simp) (key _ hf) hf.2.2.2.2.2.2.2.2.2.2.2

theorem Sys2Proof.Laws.WordRoundTrip.gets (n : Nat) : Statement (.gets n) := none_of rfl

theorem Sys2Proof.Laws.WordRoundTrip.upgo (n : Nat) : Statement (.upgo n) := none_of rfl

theorem Sys2Proof.Laws.WordRoundTrip.upgs (n : Nat) : Statement (.upgs n) := none_of rfl

theorem Sys2Proof.Laws.WordRoundTrip.upgn (n : Nat) : Statement (.upgn n) := none_of rfl

theorem Sys2Proof.Laws.WordRoundTrip.wbmo (n : Nat) : Statement (.wbmo n) := none_of rfl

theorem Sys2Proof.Laws.WordRoundTrip.wbmx (n : Nat) : Statement (.wbmx n) := none_of rfl

theorem Sys2Proof.Laws.WordRoundTrip.wbc (n : Nat) : Statement (.wbc n) := none_of rfl

theorem Sys2Proof.Laws.WordRoundTrip.wrt (n : Nat) : Statement (.wrt n) := none_of rfl

theorem Sys2Proof.Laws.WordRoundTrip.renew (n : Nat) : Statement (.renew n) := none_of rfl

theorem Sys2Proof.Laws.WordRoundTrip.invack (n : Nat) : Statement (.invack n) := none_of rfl

theorem Sys2Proof.Laws.WordRoundTrip.invackl (n : Nat) : Statement (.invackl n) := none_of rfl

theorem Sys2Proof.Laws.WordRoundTrip.fwdack (n : Nat) : Statement (.fwdack n) := none_of rfl

theorem Sys2Proof.Laws.WordRoundTrip.fwdackx (n : Nat) : Statement (.fwdackx n) := none_of rfl

theorem Sys2Proof.Laws.WordRoundTrip.rcldata (n : Nat) : Statement (.rcldata n) := none_of rfl

theorem Sys2Proof.Laws.WordRoundTrip.rclack (n : Nat) : Statement (.rclack n) := none_of rfl

theorem Sys2Proof.Laws.WordRoundTrip.requestRetry (h : Nat) (line : Nat) : Statement (.requestRetry h line) := none_of rfl

theorem Sys2Proof.Laws.WordRoundTrip.noncachingRequest (n : Nat) : Statement (.noncachingRequest n) := none_of rfl

theorem Sys2Proof.Laws.WordRoundTrip.datas (n : Nat) : Statement (.datas n) := none_of rfl

theorem Sys2Proof.Laws.WordRoundTrip.datae (n : Nat) : Statement (.datae n) := none_of rfl

theorem Sys2Proof.Laws.WordRoundTrip.datam (n : Nat) : Statement (.datam n) := none_of rfl

theorem Sys2Proof.Laws.WordRoundTrip.upgack (n : Nat) : Statement (.upgack n) := none_of rfl

theorem Sys2Proof.Laws.WordRoundTrip.wback (n : Nat) : Statement (.wback n) := none_of rfl

theorem Sys2Proof.Laws.WordRoundTrip.inv (n : Nat) : Statement (.inv n) := none_of rfl

theorem Sys2Proof.Laws.WordRoundTrip.fwds (n : Nat) : Statement (.fwds n) := none_of rfl

theorem Sys2Proof.Laws.WordRoundTrip.fwdx (n : Nat) : Statement (.fwdx n) := none_of rfl

theorem Sys2Proof.Laws.WordRoundTrip.recall (n : Nat) : Statement (.recall n) := none_of rfl

theorem Sys2Proof.Laws.WordRoundTrip.update (n : Nat) : Statement (.update n) := none_of rfl

theorem Sys2Proof.Laws.WordRoundTrip.renack (n : Nat) : Statement (.renack n) := none_of rfl

theorem Sys2Proof.Laws.WordRoundTrip.rebase (n : Nat) : Statement (.rebase n) := none_of rfl

theorem Sys2Proof.Laws.WordRoundTrip.rebaseAnswer (n : Nat) : Statement (.rebaseAnswer n) := none_of rfl

theorem Sys2Proof.Laws.WordRoundTrip.nak (n : Nat) : Statement (.nak n) := none_of rfl

theorem Sys2Proof.Laws.WordRoundTrip.leaseFlushTimer (c : Nat) (line : Nat) : Statement (.leaseFlushTimer c line) := none_of rfl

theorem Sys2Proof.Laws.WordRoundTrip.selfRefreshEntry (h : Nat) : Statement (.selfRefreshEntry h) := none_of rfl

theorem Sys2Proof.Laws.WordRoundTrip.hostReadShared (pa : Nat) : Statement (.hostReadShared pa) := none_of rfl

theorem Sys2Proof.Laws.WordRoundTrip.hostReadOwn (pa : Nat) : Statement (.hostReadOwn pa) := none_of rfl

theorem Sys2Proof.Laws.WordRoundTrip.memrd (pa : Nat) : Statement (.memrd pa) := none_of rfl

theorem Sys2Proof.Laws.WordRoundTrip.memwr (pa : Nat) (data : List Byte) (mask : DWord) : Statement (.memwr pa data mask) := none_of rfl

theorem Sys2Proof.Laws.WordRoundTrip.qtail (t : Nat) (q : Nat) (val : DWord) : Statement (.qtail t q val) := none_of rfl

theorem Sys2Proof.Laws.WordRoundTrip.qprogWrite (t : Nat) (q : Nat) (val : DWord) : Statement (.qprogWrite t q val) := none_of rfl

theorem Sys2Proof.Laws.WordRoundTrip.qdWrite (t : Nat) (q : Nat) (k : Nat) (val : DWord) : Statement (.qdWrite t q k val) := none_of rfl

theorem Sys2Proof.Laws.WordRoundTrip.switchOut (t : Nat) (q : Nat) : Statement (.switchOut t q) := none_of rfl

theorem Sys2Proof.Laws.WordRoundTrip.switchIn (t : Nat) (q : Nat) : Statement (.switchIn t q) := none_of rfl

theorem Sys2Proof.Laws.WordRoundTrip.cancel (t : Nat) (req : DWord) : Statement (.cancel t req) := none_of rfl

theorem Sys2Proof.Laws.WordRoundTrip.cancelTimeout (g : Nat) : Statement (.cancelTimeout g) := none_of rfl

theorem Sys2Proof.Laws.WordRoundTrip.rootWrite (t : Nat) (val : DWord) : Statement (.rootWrite t val) := none_of rfl

theorem Sys2Proof.Laws.WordRoundTrip.tlbInvalidate (t : Nat) (val : DWord) : Statement (.tlbInvalidate t val) := none_of rfl

theorem Sys2Proof.Laws.WordRoundTrip.tlbInvalidateComplete (t : Nat) : Statement (.tlbInvalidateComplete t) := none_of rfl

theorem Sys2Proof.Laws.WordRoundTrip.imgflush (t : Nat) (val : DWord) : Statement (.imgflush t val) := none_of rfl

theorem Sys2Proof.Laws.WordRoundTrip.trbaseWrite (t : Nat) (val : DWord) : Statement (.trbaseWrite t val) := none_of rfl

theorem Sys2Proof.Laws.WordRoundTrip.cecntClear (k : Nat) : Statement (.cecntClear k) := none_of rfl

theorem Sys2Proof.Laws.WordRoundTrip.registerWrite (off : Nat) (size : Nat) (val : DWord) : Statement (.registerWrite off size val) := none_of rfl

theorem Sys2Proof.Laws.WordRoundTrip.recordIntake (t : Nat) (q : Nat) : Statement (.recordIntake t q) := none_of rfl

theorem Sys2Proof.Laws.WordRoundTrip.launchStart (lent : Nat) : Statement (.launchStart lent) := none_of rfl

theorem Sys2Proof.Laws.WordRoundTrip.starvationExpiry (lent : Nat) : Statement (.starvationExpiry lent) := none_of rfl

theorem Sys2Proof.Laws.WordRoundTrip.bindPost (tower : Nat) (b0 : DWord) (b1 : DWord) : Statement (.bindPost tower b0 b1) := none_of rfl

theorem Sys2Proof.Laws.WordRoundTrip.bindAccept (tower : Nat) (n : Nat) : Statement (.bindAccept tower n) := none_of rfl

theorem Sys2Proof.Laws.WordRoundTrip.clusterReserve (tower : Nat) (cgrp : Nat) : Statement (.clusterReserve tower cgrp) := none_of rfl

theorem Sys2Proof.Laws.WordRoundTrip.clusterBackoffExpiry (tower : Nat) (cgrp : Nat) : Statement (.clusterBackoffExpiry tower cgrp) := none_of rfl

theorem Sys2Proof.Laws.WordRoundTrip.crewRetire (crew : Nat) : Statement (.crewRetire crew) := none_of rfl

theorem Sys2Proof.Laws.WordRoundTrip.pageWalk (tower : Nat) (n : Nat) : Statement (.pageWalk tower n) := none_of rfl

theorem Sys2Proof.Laws.WordRoundTrip.pageResponse (tower : Nat) (n : Nat) (ans : PageAnswer) : Statement (.pageResponse tower n ans) := none_of rfl

theorem Sys2Proof.Laws.WordRoundTrip.swapoutTimer (crew : Nat) : Statement (.swapoutTimer crew) := none_of rfl

theorem Sys2Proof.Laws.WordRoundTrip.vacate (tower : Nat) (cores : List Nat) : Statement (.vacate tower cores) := none_of rfl

theorem Sys2Proof.Laws.WordRoundTrip.crewSaveComplete (crew : Nat) : Statement (.crewSaveComplete crew) := none_of rfl

theorem Sys2Proof.Laws.WordRoundTrip.crewRestore (crew : Nat) (core : Nat) : Statement (.crewRestore crew core) := none_of rfl

theorem Sys2Proof.Laws.WordRoundTrip.borrowCommand (c : Nat) : Statement (.borrowCommand c) := none_of rfl

theorem Sys2Proof.Laws.WordRoundTrip.borrowRestoreComplete (c : Nat) : Statement (.borrowRestoreComplete c) := none_of rfl

theorem Sys2Proof.Laws.WordRoundTrip.islandRecordEntry (isl : Nat) : Statement (.islandRecordEntry isl) := none_of rfl

theorem Sys2Proof.Laws.WordRoundTrip.islandRecordExit (isl : Nat) : Statement (.islandRecordExit isl) := none_of rfl

theorem Sys2Proof.Laws.WordRoundTrip.i1ImageLoad (c : Nat) : Statement (.i1ImageLoad c) := none_of rfl

theorem Sys2Proof.Laws.WordRoundTrip.i1ImageLoadComplete (c : Nat) : Statement (.i1ImageLoadComplete c) := none_of rfl

theorem Sys2Proof.Laws.WordRoundTrip.ingressSignal (win : Nat) : Statement (.ingressSignal win) := none_of rfl

theorem Sys2Proof.Laws.WordRoundTrip.hostWriteback (pa : Nat) (data : List Byte) : Statement (.hostWriteback pa data) := none_of rfl

theorem Sys2Proof.Laws.WordRoundTrip.hostDropHalf (pa : Nat) : Statement (.hostDropHalf pa) := none_of rfl

theorem Sys2Proof.Laws.WordRoundTrip.birsp (tower : Nat) (line : Nat) : Statement (.birsp tower line) := none_of rfl

theorem Sys2Proof.Laws.WordRoundTrip.hostSnoop (pa : Nat) : Statement (.hostSnoop pa) := none_of rfl

theorem Sys2Proof.Laws.WordRoundTrip.msixVectorUnmask (v : Nat) : Statement (.msixVectorUnmask v) := none_of rfl

theorem Sys2Proof.Laws.WordRoundTrip.peerWrite (win : Nat) (off : Nat) (requester : Nat) (data : List Byte) : Statement (.peerWrite win off requester data) := none_of rfl

theorem Sys2Proof.Laws.WordRoundTrip.peerRead (win : Nat) (off : Nat) : Statement (.peerRead win off) := none_of rfl

theorem Sys2Proof.Laws.WordRoundTrip.getCertificate (slot : Nat) : Statement (.getCertificate slot) := none_of rfl

theorem Sys2Proof.Laws.WordRoundTrip.challenge (nonce : List Byte) : Statement (.challenge nonce) := none_of rfl

theorem Sys2Proof.Laws.WordRoundTrip.getMeasurements (idx : Nat) : Statement (.getMeasurements idx) := none_of rfl

theorem Sys2Proof.Laws.WordRoundTrip.endl : Statement .endl := by
  have hf := encR_fields (show 30 < 128 by decide) (show 0 < 128 by decide) (show 0 < 128 by decide) (show 0 < 128 by decide) (show 0 < 4 by decide)
  have key : ∀ w, IsR w 30 0 0 0 0 → decodeRaw w = .ok .endl := by
    intro w hf; unfold IsR at hf
    rw [show decodeRaw w = decodeCtl 30 w by simp only [decodeRaw, hf]; rfl]
    unfold decodeCtl
    simp only [hf, num8_val, num16_val, BitVec.ofNat_toNat, BitVec.setWidth_eq]; rfl
  exact of_raw rfl (by simp) (key _ hf) hf.2.2.2.2.2.2.2.2.2.2.2

theorem Sys2Proof.Laws.WordRoundTrip.regang : Statement .regang := by
  have hf := encR_fields (show 30 < 128 by decide) (show 0 < 128 by decide) (show 0 < 128 by decide) (show 0 < 128 by decide) (show 2 < 4 by decide)
  have key : ∀ w, IsR w 30 0 0 0 2 → decodeRaw w = .ok .regang := by
    intro w hf; unfold IsR at hf
    rw [show decodeRaw w = decodeCtl 30 w by simp only [decodeRaw, hf]; rfl]
    unfold decodeCtl
    simp only [hf, num8_val, num16_val, BitVec.ofNat_toNat, BitVec.setWidth_eq]; rfl
  exact of_raw rfl (by simp) (key _ hf) hf.2.2.2.2.2.2.2.2.2.2.2

theorem Sys2Proof.Laws.WordRoundTrip.yield : Statement .yield := by
  have hf := encR_fields (show 30 < 128 by decide) (show 0 < 128 by decide) (show 0 < 128 by decide) (show 0 < 128 by decide) (show 3 < 4 by decide)
  have key : ∀ w, IsR w 30 0 0 0 3 → decodeRaw w = .ok .yield := by
    intro w hf; unfold IsR at hf
    rw [show decodeRaw w = decodeCtl 30 w by simp only [decodeRaw, hf]; rfl]
    unfold decodeCtl
    simp only [hf, num8_val, num16_val, BitVec.ofNat_toNat, BitVec.setWidth_eq]; rfl
  exact of_raw rfl (by simp) (key _ hf) hf.2.2.2.2.2.2.2.2.2.2.2

theorem Sys2Proof.Laws.WordRoundTrip.exit : Statement .exit := by
  have hf := encR_fields (show 31 < 128 by decide) (show 0 < 128 by decide) (show 0 < 128 by decide) (show 0 < 128 by decide) (show 0 < 4 by decide)
  have key : ∀ w, IsR w 31 0 0 0 0 → decodeRaw w = .ok .exit := by
    intro w hf; unfold IsR at hf
    rw [show decodeRaw w = decodeCtl 31 w by simp only [decodeRaw, hf]; rfl]
    unfold decodeCtl
    simp only [hf, num8_val, num16_val, BitVec.ofNat_toNat, BitVec.setWidth_eq]; rfl
  exact of_raw rfl (by simp) (key _ hf) hf.2.2.2.2.2.2.2.2.2.2.2

theorem Sys2Proof.Laws.WordRoundTrip.endGang : Statement .endGang := by
  have hf := encR_fields (show 111 < 128 by decide) (show 0 < 128 by decide) (show 0 < 128 by decide) (show 0 < 128 by decide) (show 0 < 4 by decide)
  have key : ∀ w, IsR w 111 0 0 0 0 → decodeRaw w = .ok .endGang := by
    intro w hf; unfold IsR at hf
    rw [show decodeRaw w = decodeSystem 111 w by simp only [decodeRaw, hf]; rfl]
    unfold decodeSystem
    simp only [hf, vregOf_val, sregOf_val, src_code, imm16]; rfl
  exact of_raw rfl (by simp) (key _ hf) hf.2.2.2.2.2.2.2.2.2.2.2

theorem Sys2Proof.Laws.WordRoundTrip.halt : Statement .halt := by
  have hf := encR_fields (show 111 < 128 by decide) (show 0 < 128 by decide) (show 0 < 128 by decide) (show 0 < 128 by decide) (show 1 < 4 by decide)
  have key : ∀ w, IsR w 111 0 0 0 1 → decodeRaw w = .ok .halt := by
    intro w hf; unfold IsR at hf
    rw [show decodeRaw w = decodeSystem 111 w by simp only [decodeRaw, hf]; rfl]
    unfold decodeSystem
    simp only [hf, vregOf_val, sregOf_val, src_code, imm16]; rfl
  exact of_raw rfl (by simp) (key _ hf) hf.2.2.2.2.2.2.2.2.2.2.2

theorem Sys2Proof.Laws.WordRoundTrip.ingressPerst : Statement .ingressPerst := none_of rfl

theorem Sys2Proof.Laws.WordRoundTrip.tcreate : Statement .tcreate := none_of rfl

theorem Sys2Proof.Laws.WordRoundTrip.tdestroy : Statement .tdestroy := none_of rfl

theorem Sys2Proof.Laws.WordRoundTrip.coremask : Statement .coremask := none_of rfl

theorem Sys2Proof.Laws.WordRoundTrip.rtset : Statement .rtset := none_of rfl

theorem Sys2Proof.Laws.WordRoundTrip.coresp : Statement .coresp := none_of rfl

theorem Sys2Proof.Laws.WordRoundTrip.scgran : Statement .scgran := none_of rfl

theorem Sys2Proof.Laws.WordRoundTrip.tidealloc : Statement .tidealloc := none_of rfl

theorem Sys2Proof.Laws.WordRoundTrip.tideisl : Statement .tideisl := none_of rfl

theorem Sys2Proof.Laws.WordRoundTrip.pin : Statement .pin := none_of rfl

theorem Sys2Proof.Laws.WordRoundTrip.unpin : Statement .unpin := none_of rfl

theorem Sys2Proof.Laws.WordRoundTrip.tabload : Statement .tabload := none_of rfl

theorem Sys2Proof.Laws.WordRoundTrip.rangewr : Statement .rangewr := none_of rfl

theorem Sys2Proof.Laws.WordRoundTrip.wload : Statement .wload := none_of rfl

theorem Sys2Proof.Laws.WordRoundTrip.wgrant : Statement .wgrant := none_of rfl

theorem Sys2Proof.Laws.WordRoundTrip.pgretire : Statement .pgretire := none_of rfl

theorem Sys2Proof.Laws.WordRoundTrip.measext : Statement .measext := none_of rfl

theorem Sys2Proof.Laws.WordRoundTrip.starve : Statement .starve := none_of rfl

theorem Sys2Proof.Laws.WordRoundTrip.invalidCommand : Statement .invalidCommand := none_of rfl

theorem Sys2Proof.Laws.WordRoundTrip.commandEnd : Statement .commandEnd := none_of rfl

theorem Sys2Proof.Laws.WordRoundTrip.getVersion : Statement .getVersion := none_of rfl

theorem Sys2Proof.Laws.WordRoundTrip.getCapabilities : Statement .getCapabilities := none_of rfl

theorem Sys2Proof.Laws.WordRoundTrip.negotiateAlgorithms : Statement .negotiateAlgorithms := none_of rfl

theorem Sys2Proof.Laws.WordRoundTrip.getDigests : Statement .getDigests := none_of rfl

theorem Sys2Proof.Laws.WordRoundTrip.reset : Statement .reset := none_of rfl

theorem Sys2Proof.Laws.WordRoundTrip.brownOut : Statement .brownOut := none_of rfl

theorem Sys2Proof.Laws.WordRoundTrip.scrub : Statement .scrub := none_of rfl

theorem Sys2Proof.Laws.WordRoundTrip.nop : Statement .nop := by
  intro _ p hp; cases hp; decide

theorem Sys2Proof.Laws.WordRoundTrip.movs (f : MovsForm) : Statement (.movs f) := by
  cases f with
  | toS d a =>
    have hf := encR_fields (show 19 < 128 by decide) (show 96 + d.val < 128 by omega) (show a.val < 128 by omega)
      (show 0 < 128 by decide) (show 0 < 4 by decide)
    have key : ∀ w, IsR w 19 (96 + d.val) a.val 0 0 → decodeRaw w = .ok (.movs (.toS d a)) := by
      intro w hf; unfold IsR at hf
      rw [show decodeRaw w = decodeScalar 19 w by simp only [decodeRaw, hf]; rfl]
      unfold decodeScalar
      simp only [hf, vregOf_val, sregOf_val]; rfl
    exact of_raw rfl (by simp) (key _ hf) hf.2.2.2.2.2.2.2.2.2.2.2
  | toV d a =>
    have hf := encR_fields (show 19 < 128 by decide) (show d.val < 128 by omega) (show 96 + a.val < 128 by omega)
      (show 0 < 128 by decide) (show 1 < 4 by decide)
    have key : ∀ w, IsR w 19 d.val (96 + a.val) 0 1 → decodeRaw w = .ok (.movs (.toV d a)) := by
      intro w hf; unfold IsR at hf
      rw [show decodeRaw w = decodeScalar 19 w by simp only [decodeRaw, hf]; rfl]
      unfold decodeScalar
      simp only [hf, vregOf_val, sregOf_val]; rfl
    exact of_raw rfl (by simp) (key _ hf) hf.2.2.2.2.2.2.2.2.2.2.2

theorem Sys2Proof.Laws.WordRoundTrip.mova (f : MovaForm) : Statement (.mova f) := by
  cases f with
  | a d r b =>
    have hz : d.val / 16 = 0 := by omega
    have hf := encR_fields (show 20 < 128 by decide) (show d.val < 128 by omega) (show r.val < 128 by omega) (src_lt b)
      (show 2 < 4 by decide)
    have key : ∀ w, IsR w 20 d.val r.val b.code 2 → decodeRaw w = .ok (.mova (.a d r b)) := by
      intro w hf; unfold IsR at hf
      rw [show decodeRaw w = decodeScalar 20 w by simp only [decodeRaw, hf]; rfl]
      unfold decodeScalar
      simp only [hf, hz, num16_val, src_code]; rfl
    exact of_raw rfl (by simp) (key _ hf) hf.2.2.2.2.2.2.2.2.2.2.2
  | lo d r =>
    have hz : (16 + d.val) / 16 = 1 := by omega
    have hf := encR_fields (show 20 < 128 by decide) (show 16 + d.val < 128 by omega) (show r.val < 128 by omega)
      (show 0 < 128 by decide) (show 2 < 4 by decide)
    have key : ∀ w, IsR w 20 (16 + d.val) r.val 0 2 → decodeRaw w = .ok (.mova (.lo d r)) := by
      intro w hf; unfold IsR at hf
      rw [show decodeRaw w = decodeScalar 20 w by simp only [decodeRaw, hf]; rfl]
      unfold decodeScalar
      simp only [hf, hz, num16_val, num16_16]; rfl
    exact of_raw rfl (by simp) (key _ hf) hf.2.2.2.2.2.2.2.2.2.2.2
  | hi d r =>
    have hz : (32 + d.val) / 16 = 2 := by omega
    have hf := encR_fields (show 20 < 128 by decide) (show 32 + d.val < 128 by omega) (show r.val < 128 by omega)
      (show 0 < 128 by decide) (show 2 < 4 by decide)
    have key : ∀ w, IsR w 20 (32 + d.val) r.val 0 2 → decodeRaw w = .ok (.mova (.hi d r)) := by
      intro w hf; unfold IsR at hf
      rw [show decodeRaw w = decodeScalar 20 w by simp only [decodeRaw, hf]; rfl]
      unfold decodeScalar
      simp only [hf, hz, num16_val, num16_32]; rfl
    exact of_raw rfl (by simp) (key _ hf) hf.2.2.2.2.2.2.2.2.2.2.2

theorem Sys2Proof.Laws.WordRoundTrip.lea (sh : Fin 5) (d : AReg) (a : AReg) (b : Src) : Statement (.lea sh d a b) := by
  have hz : (16 * sh.val + d.val) / 16 = sh.val := by omega
  have hf := encR_fields (show 20 < 128 by decide) (show 16 * sh.val + d.val < 128 by omega) (show a.val < 128 by omega)
    (src_lt b) (show 1 < 4 by decide)
  have key : ∀ w, IsR w 20 (16 * sh.val + d.val) a.val b.code 1 → decodeRaw w = .ok (.lea sh d a b) := by
    intro w hf; unfold IsR at hf
    rw [show decodeRaw w = decodeScalar 20 w by simp only [decodeRaw, hf]; rfl]
    unfold decodeScalar
    simp only [hf, hz, num16_val, num16_high, src_code, sh.isLt, dif_pos]; rfl
  exact of_raw rfl (by simp) (key _ hf) hf.2.2.2.2.2.2.2.2.2.2.2

theorem Sys2Proof.Laws.WordRoundTrip.join (dist : BitVec 14) : Statement (.join dist) := by
  have hd : dist.toNat < 16384 := dist.isLt
  have hf : fld (30 * 2 ^ 23 + dist.toNat * 4 + 1) 23 7 = 30 ∧ fld (30 * 2 ^ 23 + dist.toNat * 4 + 1) 0 2 = 1 ∧
      fld (30 * 2 ^ 23 + dist.toNat * 4 + 1) 2 14 = dist.toNat ∧ 30 * 2 ^ 23 + dist.toNat * 4 + 1 < 2 ^ 30 := by
    simp only [fld]; norm_num; omega
  have key : ∀ w, fld w 23 7 = 30 ∧ fld w 0 2 = 1 ∧ fld w 2 14 = dist.toNat → decodeRaw w = .ok (.join dist) := by
    intro w hf
    rw [show decodeRaw w = decodeCtl 30 w by simp only [decodeRaw, hf]; rfl]
    unfold decodeCtl
    simp only [hf, BitVec.ofNat_toNat, BitVec.setWidth_eq]; rfl
  exact of_raw rfl (by simp) (key _ ⟨hf.1, hf.2.1, hf.2.2.1⟩) hf.2.2.2

theorem Sys2Proof.Laws.WordRoundTrip.reduce (op : ScanOp) (ty : ScanTy) (d : VSDst) (a : VReg) :
    Statement (.reduce op ty d a) := by
  have ht := scanTy_lt ty
  have hb : 8 * ty.code / 8 % 8 = ty.code := by omega
  cases d with
  | v d =>
    have hd : d.val < 96 := d.isLt
    have hf := encR_fields (show 61 < 128 by decide) (show d.val < 128 by omega) (show a.val < 128 by omega)
      (show 8 * ty.code < 128 by omega) (scanOp_lt op)
    have key : ∀ w, IsR w 61 d.val a.val (8 * ty.code) op.t → decodeRaw w = .ok (.reduce op ty (.v d) a) := by
      intro w hf; unfold IsR at hf
      rw [show decodeRaw w = decodeCross 61 w by simp only [decodeRaw, hf]; rfl]
      unfold decodeCross
      simp only [hf, hb, hd, vregOf_val, scanOp_code, scanTy_code, codeOr_some, if_true]; rfl
    exact of_raw rfl (by simp) (key _ hf) hf.2.2.2.2.2.2.2.2.2.2.2
  | s d =>
    have hd : ¬ (96 + d.val < 96) := by omega
    have hf := encR_fields (show 61 < 128 by decide) (show 96 + d.val < 128 by omega) (show a.val < 128 by omega)
      (show 8 * ty.code < 128 by omega) (scanOp_lt op)
    have key : ∀ w, IsR w 61 (96 + d.val) a.val (8 * ty.code) op.t → decodeRaw w = .ok (.reduce op ty (.s d) a) := by
      intro w hf; unfold IsR at hf
      rw [show decodeRaw w = decodeCross 61 w by simp only [decodeRaw, hf]; rfl]
      unfold decodeCross
      simp only [hf, hb, hd, vregOf_val, sregOf_val, scanOp_code, scanTy_code, codeOr_some, if_false]; rfl
    exact of_raw rfl (by simp) (key _ hf) hf.2.2.2.2.2.2.2.2.2.2.2

/-- The CVT codes of 03 R92. -/
theorem Sys2Proof.Laws.cvt_dst {f : Fmt} (h : f.cvtCode.isSome = true) : Fmt.ofCvt f.cvt0 = some f ∧ f.cvt0 < 16 := by
  revert h; cases f <;> decide
theorem Sys2Proof.Laws.cvt_float {f : Fmt} (h : f.isCvtFloat = true) :
    Fmt.ofCvt (f.cvt0 - 8 + 8) = some f ∧ f.cvt0 - 8 < 8 := by
  revert h; cases f <;> decide
theorem Sys2Proof.Laws.cvt_int {f : Fmt} (h : f.isCvtInt = true) : Fmt.ofCvt f.cvt0 = some f ∧ f.cvt0 < 8 := by
  revert h; cases f <;> decide

theorem Sys2Proof.Laws.WordRoundTrip.cvtFromFloat (x : Bool) (dst : Fmt) (src : Fmt) (d : VReg) (a : Src) :
    Statement (.cvtFromFloat x dst src d a) := by
  intro hwf
  have hs : src.isCvtFloat = true ∧ dst.cvtCode.isSome = true := by
    simp [Instr.wf] at hwf; exact hwf.1
  obtain ⟨h1, h2⟩ := cvt_float hs.1
  obtain ⟨h3, h4⟩ := cvt_dst hs.2
  have e1 : (8 * dst.cvt0 + (src.cvt0 - 8)) / 8 % 16 = dst.cvt0 := by omega
  have e2 : (8 * dst.cvt0 + (src.cvt0 - 8)) % 8 = src.cvt0 - 8 := by omega
  have ht : 2 * bit x < 4 := by cases x <;> decide
  have hx : (2 * bit x / 2 == 1) = x := by cases x <;> rfl
  have hf := encR_fields (show 48 < 128 by decide) (show d.val < 128 by omega) (src_lt a)
    (show 8 * dst.cvt0 + (src.cvt0 - 8) < 128 by omega) ht
  have key : ∀ w, IsR w 48 d.val a.code (8 * dst.cvt0 + (src.cvt0 - 8)) (2 * bit x) → decodeRaw w = .ok (.cvtFromFloat x dst src d a) := by
    intro w hf; unfold IsR at hf
    rw [show decodeRaw w = decodeFloat 48 w by simp only [decodeRaw, hf]; rfl]
    unfold decodeFloat
    simp only [hf, e1, e2, hx, h1, h3, vregOf_val, src_code, codeOr_some]; rfl
  exact of_raw rfl (by simp) (key _ hf) hf.2.2.2.2.2.2.2.2.2.2.2 hwf

theorem Sys2Proof.Laws.WordRoundTrip.cvtFromInt (x : Bool) (dst : Fmt) (src : Fmt) (d : VReg) (a : Src) :
    Statement (.cvtFromInt x dst src d a) := by
  intro hwf
  have hs : src.isCvtInt = true ∧ dst.cvtCode.isSome = true := by
    simp [Instr.wf] at hwf; exact hwf.1.1.1
  obtain ⟨h1, h2⟩ := cvt_int hs.1
  obtain ⟨h3, h4⟩ := cvt_dst hs.2
  have e1 : (8 * dst.cvt0 + src.cvt0) / 8 % 16 = dst.cvt0 := by omega
  have e2 : (8 * dst.cvt0 + src.cvt0) % 8 = src.cvt0 := by omega
  have ht : 2 * bit x < 4 := by cases x <;> decide
  have hx : (2 * bit x / 2 == 1) = x := by cases x <;> rfl
  have hf := encR_fields (show 49 < 128 by decide) (show d.val < 128 by omega) (src_lt a)
    (show 8 * dst.cvt0 + src.cvt0 < 128 by omega) ht
  have key : ∀ w, IsR w 49 d.val a.code (8 * dst.cvt0 + src.cvt0) (2 * bit x) → decodeRaw w = .ok (.cvtFromInt x dst src d a) := by
    intro w hf; unfold IsR at hf
    rw [show decodeRaw w = decodeFloat 49 w by simp only [decodeRaw, hf]; rfl]
    unfold decodeFloat
    simp only [hf, e1, e2, hx, h1, h3, vregOf_val, src_code, codeOr_some]; rfl
  exact of_raw rfl (by simp) (key _ hf) hf.2.2.2.2.2.2.2.2.2.2.2 hwf

/-! ## EXPR (03 R93) -/

/-- The token words hold each token in its four bits. -/
theorem Sys2Proof.Laws.encToks_fld : ∀ (ts : List Tok) (k j : Nat), j < ts.length →
    (encToks k ts) / 2 ^ (4 * (k + j)) % 16 = (ts[j]?.getD .a).code ∧ encToks k ts % 2 ^ (4 * k) = 0 := by
  intro ts
  induction ts with
  | nil => intro k j h; simp at h
  | cons t r ih =>
    intro k j h
    have htl := tok_lt t
    have hmod : encToks (k + 1) r % 2 ^ (4 * (k + 1)) = 0 := by
      cases r with
      | nil => simp [encToks]
      | cons u v => exact (ih (k + 1) 0 (by simp)).2
    obtain ⟨m, hm⟩ : ∃ m, encToks (k + 1) r = 2 ^ (4 * (k + 1)) * m :=
      ⟨_, (Nat.mul_div_cancel' (Nat.dvd_of_mod_eq_zero hmod)).symm⟩
    have hp : 2 ^ (4 * (k + 1)) = 2 ^ (4 * k) * 16 := by rw [Nat.mul_add, Nat.pow_add]
    have he : encToks k (t :: r) = 2 ^ (4 * k) * (t.code + 16 * m) := by
      simp only [encToks, hm, hp]; ring
    refine ⟨?_, by rw [he]; exact Nat.mul_mod_right _ _⟩
    cases j with
    | zero =>
      rw [he, Nat.add_zero, Nat.mul_div_cancel_left _ (by positivity)]
      simp; omega
    | succ j =>
      have hj : j < r.length := by simpa using h
      have := (ih (k + 1) j hj).1
      have e2 : 4 * (k + (j + 1)) = 4 * (k + 1 + j) := by ring
      have e3 : 4 * (k + 1 + j) = 4 * (k + 1) + 4 * j := by ring
      rw [e2]
      rw [e3, Nat.pow_add, ← Nat.div_div_eq_div_mul] at this ⊢
      have e4 : encToks k (t :: r) / 2 ^ (4 * (k + 1)) = encToks (k + 1) r / 2 ^ (4 * (k + 1)) := by
        rw [he, hm, Nat.mul_div_cancel_left _ (by positivity), hp, ← Nat.div_div_eq_div_mul,
          Nat.mul_div_cancel_left _ (by positivity)]
        omega
      rw [e4]; simpa using this

/-- The tokens read back. -/
theorem Sys2Proof.Laws.exprToks_enc (ts : List Tok) (n : Nat) (hn : n ≤ ts.length) :
    exprToks (encToks 0 (ts.take 8)) (encToks 0 (ts.drop 8)) n = some (ts.take n) := by
  induction n with
  | zero => simp [exprToks]
  | succ n ih =>
    have hlt : n < ts.length := hn
    have hcode : (if n < 8 then fld (encToks 0 (ts.take 8)) (4 * n) 4
        else fld (encToks 0 (ts.drop 8)) (4 * (n - 8)) 4) = (ts[n]).code := by
      split
      · rename_i h8
        have := (encToks_fld (ts.take 8) 0 n (by simp; omega)).1
        simp only [fld]
        simp only [Nat.zero_add] at this
        rw [show (2 : Nat) ^ 4 = 16 from rfl, this, List.getElem?_take_of_lt h8]
        simp [hlt]
      · rename_i h8
        have := (encToks_fld (ts.drop 8) 0 (n - 8) (by simp; omega)).1
        simp only [fld]
        simp only [Nat.zero_add] at this
        rw [show (2 : Nat) ^ 4 = 16 from rfl, this, List.getElem?_drop]
        have : 8 + (n - 8) = n := by omega
        simp [this, hlt]
    simp only [exprToks, ih (by omega), hcode, tok_code]
    rw [List.take_add_one]; simp [hlt]

theorem Sys2Proof.Laws.WordRoundTrip.expr (half : Bool) (dst : VReg) (a : Src) (b : Src) (c : Src) (d : Src)
    (toks : List Tok) : Statement (.expr half dst a b c d toks) := by
  intro hwf p hp
  simp only [encode, Option.some.injEq] at hp
  subst hp
  have hl : toks.length ≤ 15 := by
    have := hwf; simp [Instr.wf, exprOk] at this; omega
  have ht : bit half < 4 := by cases half <;> decide
  have hb : 2 ≤ bit half → False := by cases half <;> decide
  have hx : (bit half == 1) = half := by cases half <;> rfl
  have hc := src_lt c
  have hd := src_lt d
  have h := encR_fields (show 62 < 128 by decide) (show dst.val < 128 by omega) (src_lt a) (src_lt b) ht
  have g : fld (62 * 2 ^ 23 + c.code * 2 ^ 16 + d.code * 2 ^ 9 + toks.length * 2 ^ 5) 23 7 = 62 ∧
      fld (62 * 2 ^ 23 + c.code * 2 ^ 16 + d.code * 2 ^ 9 + toks.length * 2 ^ 5) 16 7 = c.code ∧
      fld (62 * 2 ^ 23 + c.code * 2 ^ 16 + d.code * 2 ^ 9 + toks.length * 2 ^ 5) 9 7 = d.code ∧
      fld (62 * 2 ^ 23 + c.code * 2 ^ 16 + d.code * 2 ^ 9 + toks.length * 2 ^ 5) 5 4 = toks.length := by
    simp only [fld]; norm_num; omega
  have he := exprToks_enc toks toks.length le_rfl
  rw [List.take_length] at he
  have hdec : decodeExpr (encR 62 dst.val a.code b.code (bit half))
      (62 * 2 ^ 23 + c.code * 2 ^ 16 + d.code * 2 ^ 9 + toks.length * 2 ^ 5) (encToks 0 (toks.take 8))
      (encToks 0 (toks.drop 8)) = .ok (.expr half dst a b c d toks) := by
    unfold decodeExpr
    simp only [g.1, g.2.1, g.2.2.1, g.2.2.2, h.2.1, h.2.2.1, h.2.2.2.1, h.2.2.2.2.1, he, hx, vregOf_val, codeOr_some,
      src_code, bind_ok, hwf]
    rw [if_neg (by simp), if_neg (by omega)]
    simp
  simp only [Packet.words, Packet.isExpr, h.1]
  rw [hdec]; simp
end

