-- ==== Sys2Proof/Machine/Objects.lean ====
section
/-! DEFINITION. Bruvy objects and the loader's gate (17 R415 to R417, R419 to R422): what system software reads from an object, refuses, maps and
hands to a title.  The layout of an ELF64 file is PRESUMED from the ELF specification (log entry 44). -/

namespace Sys2Proof.Machine

open Sys2Proof

/-! ## Sections (17 R415) -/

/-- A section of an object. -/
structure Sect where
  name : List Byte
  type : Nat
  align : Nat
  body : List Byte
  deriving DecidableEq, Repr

/-- The bytes of a name. -/
def nameOf (x : List Char) : List Byte := x.map fun c => BitVec.ofNat 8 c.toNat

/-- The bytes of a string table from an offset up to the terminating zero. -/
def strAt (tab : List Byte) (off : Nat) : List Byte := (tab.drop off).takeWhile (· != 0)

/-- The identification of a Bruvy object: ELF64, little-endian, machine 0xB84C, executable or shared. -/
def bvoIdent (b : List Byte) : Bool :=
  fieldAt b 0 4 == 0x464C457F && fieldAt b 4 1 == 2 && fieldAt b 5 1 == 1 && fieldAt b 18 2 == 0xB84C &&
    (fieldAt b 16 2 == 2 || fieldAt b 16 2 == 3)

/-- The sections of a file, with their names. -/
def sectionsOf (b : List Byte) : List Sect :=
  let hdr (k : Nat) : Nat := fieldAt b 40 8 + fieldAt b 58 2 * k
  let body (k : Nat) : List Byte := (b.drop (fieldAt b (hdr k + 24) 8)).take (fieldAt b (hdr k + 32) 8)
  let names := body (fieldAt b 62 2)
  (List.range (fieldAt b 60 2)).map fun k =>
    { name := strAt names (fieldAt b (hdr k) 4), type := fieldAt b (hdr k + 4) 4, align := fieldAt b (hdr k + 48) 8, body := body k }

/-- A section by its name, type and least alignment. -/
def findSect (l : List Sect) (name : List Char) (type align : Nat) : Option Sect :=
  l.find? fun x => x.name == nameOf name && x.type == type && x.align % align == 0

/-! ## Notes (17 R416, R417) -/

/-- The descriptor of a kernel note. -/
structure KernelNote where
  entry : Nat
  codesz : Nat
  target : Nat
  present : Nat
  nvreg : Nat
  gwidth : Nat
  nnb : Nat
  nh : Nat
  isl : Bool
  tokn : Bool
  npatch : Nat
  vault : Nat
  name : List Byte
  deriving DecidableEq, Repr

/-- A note. -/
inductive Note where
  | kernel (k : KernelNote)
  /-- a kernel's name and the names of its patch slots -/
  | patch (name : List Byte) (slots : List (List Byte))
  | island (name : List Byte) (imgid : Nat) (imgName : List Byte)
  | data (name : List Byte) (off size : Nat)
  deriving DecidableEq, Repr

/-- The eight words of a kernel note. -/
def kernelNote (strs d : List Byte) : KernelNote :=
  let n (k : Nat) : DWord := BitVec.ofNat 64 (fieldAt d (8 * k) 8)
  { entry := (n 0).toNat, codesz := bits (n 1) 32 32, target := bits (n 1) 16 16, present := bits (n 1) 0 16, nvreg := bits (n 2) 48 8
    gwidth := bits (n 2) 40 8, nnb := bits (n 2) 32 8, nh := bits (n 2) 24 8, isl := (n 2).getLsbD 17, tokn := (n 2).getLsbD 16
    npatch := bits (n 2) 0 9, vault := (n 3).toNat, name := strAt strs (bits (n 4) 32 32) }

/-- A note by its type; one of another type is ignored. -/
def noteOf (strs : List Byte) (type : Nat) (d : List Byte) : Option Note :=
  let str (off : Nat) : List Byte := strAt strs (fieldAt d off 4)
  match type with
  | 1 => some (.kernel (kernelNote strs d))
  | 2 => some (.patch (str 0) ((List.range (fieldAt d 4 4)).map fun k => str (8 + 4 * k)))
  | 3 => some (.island (str 0) (fieldAt d 4 4) (str 8))
  | 4 => some (.data (str 0) (fieldAt d 4 4) (fieldAt d 8 4))
  | _ => none

/-- A size, padded to a multiple of 4 bytes. -/
def pad4 (n : Nat) : Nat := (n + 3) / 4 * 4

/-- The notes of a note section, at most as many as its bytes; those of another name than "Bruvy" are ignored. -/
def notesOf (strs : List Byte) : Nat → List Byte → List Note
  | 0, _ => []
  | fuel + 1, b =>
    if b.length < 12 then []
    else
      let nm := fieldAt b 0 4
      let ds := fieldAt b 4 4
      let at_ := 12 + pad4 nm
      let rest := notesOf strs fuel (b.drop (at_ + pad4 ds))
      if (b.drop 12).take nm = nameOf ['B', 'r', 'u', 'v', 'y'] ++ [0] then
        match noteOf strs (fieldAt b 8 4) ((b.drop at_).take ds) with
        | some x => x :: rest
        | none => rest
      else rest

/-! ## The loader (17 R415 to R417, R421, R422) -/

/-- An object that the loader has accepted: its code, its data and its notes. -/
structure Bvo where
  text : List Byte
  rodata : List Byte
  kernels : List KernelNote
  patches : List (List Byte × List (List Byte))
  islands : List (List Byte × Nat × List Byte)
  datas : List (List Byte × Nat × Nat)
  deriving DecidableEq, Repr

/-- Has a list no element twice? -/
def noRepeat (l : List (List Byte)) : Bool := l.dedup.length == l.length

/-- AN OBJECT IS READ: refused where its identification differs, a section lacks, a kernel note has no patch note, or two kernel notes or two data
notes have one name. -/
def readBvo (b : List Byte) : Option Bvo :=
  let ss := sectionsOf b
  match bvoIdent b, findSect ss ['.', 't', 'e', 'x', 't'] 1 128, findSect ss ['.', 'n', 'o', 't', 'e', '.', 'b', 'r', 'u', 'v', 'y'] 7 4, findSect ss ['.', 's', 't', 'r', 't', 'a', 'b'] 3 1 with
  | true, some text, some note, some strs =>
    let ns := notesOf strs.body note.body.length note.body
    let o : Bvo :=
      { text := text.body, rodata := ((findSect ss ['.', 'r', 'o', 'd', 'a', 't', 'a'] 1 16).map (·.body)).getD []
        kernels := ns.filterMap fun | .kernel k => some k | .patch .. | .island .. | .data .. => none
        patches := ns.filterMap fun | .patch n l => some (n, l) | .kernel _ | .island .. | .data .. => none
        islands := ns.filterMap fun | .island n i m => some (n, i, m) | .kernel _ | .patch .. | .data .. => none
        datas := ns.filterMap fun | .data n f k => some (n, f, k) | .kernel _ | .patch .. | .island .. => none }
    if (o.kernels.all fun k => o.patches.any fun p => p.1 == k.name) && noRepeat (o.kernels.map (·.name)) && noRepeat (o.datas.map (·.1))
    then some o else none
  | _, _, _, _ => none

/-- THE GATE: a kernel loads where its highest level does not exceed the device's, whatever TARGET holds, and its counts of NB and H registers
fit. -/
def KernelNote.loads (k : KernelNote) (level : Nat) : Bool := decide (k.present ≤ level) && decide (k.nnb ≤ 16) && decide (k.nh ≤ 8)

/-- The kernels of an object that a device of a level loads; each is gated on its own. -/
def Bvo.loaded (o : Bvo) (level : Nat) : List KernelNote := o.kernels.filter fun k => k.loads level

/-- The permissions with which the loader maps `.text` and `.rodata` (16 R390). -/
def textPerm : Nat := 5
def rodataPerm : Nat := 1

/-- The kernel fields of a launch record (15 R369), as the loader gives them. -/
structure KernelFields where
  code : Nat
  gw : Nat
  nvd : Nat
  vsz : Nat
  npatch : Nat
  tok : Bool
  image : Nat
  deriving DecidableEq, Repr

/-- The fields for a kernel whose `.text` is loaded at `base`, with the address of its verified image container. -/
def KernelNote.fields (k : KernelNote) (base image : Nat) : KernelFields :=
  { code := base + k.entry, gw := k.gwidth / 32, nvd := k.nvreg / 8, vsz := k.vault / 16384, npatch := k.npatch, tok := k.tokn
    image := if k.isl then image else 0 }

/-- The address of a data block whose `.rodata` is loaded at `base`, which the loader reports, and its two patch slots. -/
def Bvo.dataAddr (o : Bvo) (base : Nat) (name : List Byte) : Option Nat := (o.datas.find? fun d => d.1 == name).map fun d => base + d.2.1
def addrSlots (a : Nat) : Nat × Nat := (a % 2 ^ 32, a / 2 ^ 32 % 2 ^ 32)

/-- The address of a patch slot of a launch (17 R419). -/
def patchAddr (patch i : Nat) : Nat := patch + 4 * i
/-- The slot of a name in a kernel's patch note. -/
def Bvo.slotOf (o : Bvo) (kernel name : List Byte) : Option Nat :=
  (o.patches.find? fun p => p.1 == kernel).bind fun p => p.2.findIdx? (· == name)

end Sys2Proof.Machine
end

