-- ==== Sys2Proof/Machine/Dimet.lean ====
section
/-! DEFINITION. What `dimet-as` does with the parts of a packet and of a kernel (00 R15, R473; 03 R87; 04 R120; 17 R418, R420): literals, control
bytes, patch slots, labels and directives.  The text of mnemonics and operands is that of the words' own entries and is left out. -/

namespace Sys2Proof.Machine

open Sys2Proof

/-! ## The value after `#` (00 R473) -/

/-- A digit of base 10 or 16. -/
def digitOf (base : Nat) (c : Char) : Option Nat :=
  let d := if '0' ≤ c ∧ c ≤ '9' then c.toNat - 48
    else if 'a' ≤ c ∧ c ≤ 'f' then c.toNat - 87
    else if 'A' ≤ c ∧ c ≤ 'F' then c.toNat - 55
    else 99
  if d < base then some d else none

/-- The number of some digits, at least one. -/
def digitsOf (base : Nat) (cs : List Char) : Option Nat :=
  if cs.isEmpty then none
  else cs.foldl (fun a c => match a, digitOf base c with
    | some n, some d => some (base * n + d)
    | _, _ => none) (some 0)

/-- A sign in front of a number. -/
def signOf : List Char → Bool × List Char
  | '-' :: r => (true, r)
  | r => (false, r)

/-- Hexadecimal: 1 to 8 digits after `0x`. -/
def hexValue : List Char → Option Nat
  | '0' :: 'x' :: r => if r.length ≤ 8 then digitsOf 16 r else none
  | _ => none

/-- A decimal integer from −2^31 to 2^32 − 1. -/
def decValue (cs : List Char) : Option Int :=
  let (neg, r) := signOf cs
  match digitsOf 10 r with
  | none => none
  | some n =>
    let x : Int := if neg then -n else n
    if -2147483648 ≤ x ∧ x ≤ 4294967295 then some x else none

/-- A decimal number with a point or an exponent (00 R473): its sign, digits and power of ten.  The spec gives no grammar beyond these words
(DESIGN CHOICE, log entry 49): a digit must stand before the point, digits after it may be left out, `e` and `E` both mark an exponent,
and an exponent takes no `+`. -/
def floatValue (cs : List Char) : Option (Bool × Nat × Int) :=
  let (neg, r) := signOf cs
  let mant := r.takeWhile fun c => c != 'e' && c != 'E'
  let tail := r.drop mant.length
  let whole := mant.takeWhile (· != '.')
  let frac := (mant.drop whole.length).drop 1
  let exp : Option Int := match tail with
    | [] => some 0
    | _ :: t =>
      let (en, t) := signOf t
      (digitsOf 10 t).map fun (n : Nat) => if en then -(n : Int) else (n : Int)
  if tail.isEmpty && !mant.contains '.' then none
  else
    match digitsOf 10 (whole ++ frac), exp with
    | some n, some e => if whole.isEmpty then none else some (neg, n, e - (frac.length : Int))
    | _, _ => none

/-- The exact decimal value `± n × 10 ^ e`, rounded once to nearest even; none where it exceeds the format's largest finite value. -/
def FFmt.ofDecimal (f : FFmt) (neg : Bool) (n : Nat) (e : Int) : Option Nat :=
  let r := if 0 ≤ e then f.round 0 false false neg (n * 10 ^ e.toNat) 0 false
    else
      let k := 512 + 4 * (-e).toNat
      let d := 10 ^ (-e).toNat
      f.round 0 false false neg (n * 2 ^ k / d) (-(k : Int)) (decide (n * 2 ^ k % d ≠ 0))
  if r.2 &&& flOF != 0 then none else some r.1

/-- A code of `w` bits repeated `k` times. -/
def spread (k w : Nat) (c : Nat) : Nat := ((List.range k).map fun i => c * 2 ^ (w * i)).sum

/-- A LITERAL: its 32 bits, or none where it is rejected.  `ty` is the operand's element format for floating notation, with its elements in 32
bits; none for an integer-typed or an untyped operand. -/
def literalOf (ty : Option (FFmt × Nat)) (cs : List Char) : Option Word :=
  match hexValue cs, decValue cs, floatValue cs, ty with
  | some n, _, _, _ => some (BitVec.ofNat 32 n)
  | none, some x, _, _ => some (BitVec.ofInt 32 x)
  | none, none, some (neg, n, e), some (f, k) => (f.ofDecimal neg n e).map fun c => BitVec.ofNat 32 (spread k (32 / k) c)
  | none, none, _, _ => none

/-- The `#n` of RDSR, WRSR, TRAP, BRKPT and DBGMARK: an integer from 0 to 65,535. -/
def immOf (cs : List Char) : Option (BitVec 16) :=
  match hexValue cs, decValue cs with
  | some n, _ => if n < 65536 then some (BitVec.ofNat 16 n) else none
  | none, some x => if 0 ≤ x ∧ x < 65536 then some (BitVec.ofInt 16 x) else none
  | none, none => none

/-! ## Packets (00 R15; 03 R87) -/

/-- A word that is to be placed in a packet: its bits with C, S and X clear, the values of its `#` operands, the slots of its `$` operands, its
control byte where it has a marker, and whether `;;` follows it. -/
structure AsmWord where
  bits : Word
  lits : List Word := []
  slots : List Nat := []
  ctl : Option Byte := none
  chain : Bool := false
  deriving DecidableEq, Repr

/-- The one value of a list, if its values agree. -/
def agree {α : Type} [DecidableEq α] (l : List α) : Option (Option α) :=
  match l with
  | [] => some none
  | x :: r => if r.all fun y => decide (y = x) then some (some x) else none

/-- A word in its place: its chain bit, the switch mark in slot 0, and X where it has a control byte. -/
def AsmWord.placed (w : AsmWord) (slot : Nat) (switch : Bool) : Word :=
  w.bits ||| (if w.chain then 1#32 <<< 31 else 0) ||| (if switch && slot == 0 then 1#32 <<< 30 else 0) |||
    (if w.ctl.isSome then 2 else 0)

/-- The control byte of a slot in a literal word (03 R86). -/
def ctlAt (lit : Word) (slot : Nat) : Byte := lit.extractLsb' (8 * slot) 8

/-- THE LITERAL WORD of a packet: rejected where two `#` operands differ, a `#` and a `$` meet, two `$` operands name different slots (DEDUCED, log
entry 45), or a control byte disagrees with the literal, or with the index in bits [7:0]. -/
def literalWord (ws : List AsmWord) : Option Word :=
  let ctls := ws.zipIdx.filterMap fun p => p.1.ctl.map fun b => (p.2, b)
  let put (w : Word) : Word := ctls.foldl (fun (w : Word) p => w ||| ((p.2.setWidth 32 : Word) <<< (8 * p.1))) w
  match agree (ws.flatMap (·.lits)), agree (ws.flatMap (·.slots)) with
  | some none, some none => some (put 0)
  | some (some v), some none => if ctls.all fun p => ctlAt v p.1 == p.2 then some v else none
  | some none, some (some n) =>
    let ix : Byte := BitVec.ofNat 8 n
    if ctls.all fun p => p.1 != 0 || p.2 == ix then some (put (ix.setWidth 32)) else none
  | _, _ => none

/-- A PACKET of up to three words, its empty slots NOP, with its literal word in slot 3. -/
def assemble (ws : List AsmWord) (switch : Bool) : Option (List Word) :=
  if 3 < ws.length then none
  else
    let w (k : Nat) : Word := match ws[k]? with
      | some x => x.placed k switch
      | none => if switch && k == 0 then 1#32 <<< 30 else 0
    (literalWord ws).map fun l => [w 0, w 1, w 2, l]

/-! ## Labels (04 R120) -/

/-- OFF of a label, in packets, as `n` bits; none where it does not fit. -/
def labelOff (n : Nat) (label here : Int) : Option (BitVec n) :=
  let d := label - here
  if -(2 ^ (n - 1) : Nat) ≤ d ∧ d < (2 ^ (n - 1) : Nat) then some (BitVec.ofInt n d) else none

/-! ## Directives (17 R418, R420) -/

/-- The directives of a kernel. -/
inductive Directive where
  | level (n : Nat)
  | gang (w : Nat)
  | vregs (n : Nat)
  | vault (bytes : Nat)
  | patch (name : List Byte)
  | island (name : List Byte) (imgid : Nat)
  deriving DecidableEq, Repr

/-- The values of one kind of directive. -/
def valuesOf (f : Directive → Option Nat) (ds : List Directive) : List Nat := ds.filterMap f

/-- The patch names of a kernel, in order. -/
def patchNames (ds : List Directive) : List (List Byte) := ds.filterMap fun
  | .patch n => some n
  | .level _ | .gang _ | .vregs _ | .vault _ | .island .. => none

/-- Does a word need the tokens: primary 0x62, 0x63, or 0x61 with F[0] = 1 (17 R417)? -/
def needsTokens (w : Word) : Bool :=
  let op := w.toNat / 2 ^ 23 % 128
  op == 0x62 || op == 0x63 || (op == 0x61 && w.getLsbD 0)

/-- THE NOTE of a kernel with these directives and words, whose first packet stands at `entry` of `.text`, at most NB register `nnb - 1` and H
register `nh - 1` named, and the highest V register below `nv`; none where it is rejected.  Every word that the assembler of level 1 emits is of
level 1. -/
def kernelOf (name : List Byte) (ds : List Directive) (entry : Nat) (code : List Word) (nnb nh nv : Nat) : Option KernelNote :=
  let level := valuesOf (fun | .level n => some n | .gang _ | .vregs _ | .vault _ | .patch _ | .island .. => none) ds
  let gang := valuesOf (fun | .gang n => some n | .level _ | .vregs _ | .vault _ | .patch _ | .island .. => none) ds
  let vregs := valuesOf (fun | .vregs n => some n | .level _ | .gang _ | .vault _ | .patch _ | .island .. => none) ds
  let vault := valuesOf (fun | .vault n => some n | .level _ | .gang _ | .vregs _ | .patch _ | .island .. => none) ds
  let isl := valuesOf (fun | .island _ n => some n | .level _ | .gang _ | .vregs _ | .vault _ | .patch _ => none) ds
  let patches := patchNames ds
  match gang, vregs, vault with
  | [g], [v], [b] =>
    if (level.all fun n => decide (1 ≤ n) && decide (n ≤ 65535)) && decide (level.length ≤ 1) && [16, 32, 64].contains g &&
        decide (16 ≤ v) && decide (v ≤ 96) && v % 8 == 0 && decide (nv ≤ v) && b % 16384 == 0 && decide (b ≤ 0x300000) &&
        decide (isl.length ≤ 1) && (isl.all fun n => decide (n < 2 ^ 32)) && decide (patches.length ≤ 256) && noRepeat patches then
      some { entry := entry, codesz := 4 * code.length, target := level.headD 1, present := 1, nvreg := v, gwidth := g, nnb := nnb, nh := nh
             isl := !isl.isEmpty, tokn := code.any needsTokens, npatch := patches.length, vault := b, name := name }
    else none
  | _, _, _ => none

end Sys2Proof.Machine
end

