-- ==== Sys2Proof/Tests/Slice0.lean ====
section
/-! SUPPORT. Tests: ill-formed terms that the checks refuse, words of the spec that decode, one step of single instructions with the
spec's own values, and states that meet the hypotheses of the statements. -/

set_option Elab.async false
set_option maxRecDepth 100000

namespace Sys2Proof.Tests

open Sys2Proof Sys2Proof.Machine

/-! ## Ill-formed terms are refused (03 R80 to R95, and the entries) -/

theorem test_wf_integer_refuses : ([
    -- a float constant, an odd 64-bit pair in each place, a float condition
    .iadd .s32 0 (.cst .half) (.v 1), .isub .u32 0 (.v 0) (.cst .mhalf), .iadd .s64 1 (.v 0) (.v 2), .iadd .u64 0 (.v 1) (.v 2),
    .isub .s64 0 (.v 0) (.v 3), .imul true false 0 (.cst .half) (.v 0), .imad false 0 (.v 0) (.cst .half), .idiv true 0 (.v 0) (.cst .half),
    .irem true 0 (.cst .half) (.v 0), .imin true 0 (.cst .half) (.v 0), .imax true 0 (.v 0) (.cst .half), .iabs 0 (.cst .half),
    .ineg 0 (.cst .half), .brev 0 (.cst .half), .icmp .ord .s32 0 (.v 0) (.v 0), .icmp .unord .u32 0 (.v 0) (.v 0),
    .icmp .eq .s64 0 (.v 1) (.v 0), .icmp .eq .u64 0 (.v 0) (.v 1), .icmp .eq .s32 0 (.cst .half) (.v 0), .and 0 (.cst .half) (.v 0),
    .or 0 (.v 0) (.cst .half), .xor 0 (.cst .half) (.v 0), .andn 0 (.v 0) (.cst .half), .not 0 (.cst .half), .popc 0 (.cst .half),
    .clz 0 (.cst .half), .ctz 0 (.cst .half), .shl 0 (.v 0) (.cst .half), .shr 0 (.cst .half) (.v 0), .sar 0 (.v 0) (.cst .half),
    .rot 0 (.cst .half) (.v 0), .bfe true 0 (.v 0) (.cst .half), .bfi 0 (.cst .half) (.v 0), .sel 0 0 (.v 0) (.cst .half),
    .mov true 1 (.v 0), .mov true 0 (.v 1), .mov false 0 (.cst .half)] : List Instr).all (fun i => !i.wf) = true := by decide

theorem test_wf_scalar_refuses : ([
    -- a V register, or a float constant, in a scalar field; a loop end that is not past the loop
    .sadd 0 (.v 0) (.s 0), .ssub 0 (.s 0) (.v 0), .sand 0 (.cst .half) (.s 0), .sor 0 (.v 0) (.s 0), .sshl 0 (.s 0) (.v 0),
    .sshr 0 (.v 0) (.s 0), .smul 0 (.s 0) (.v 0), .scmp .eq 0 (.v 0) (.s 0), .adda 0 0 (.v 0), .lea 4 0 0 (.v 0), .mova (.a 0 0 (.v 0)),
    .loop 0 0, .loop 0 0x8000, .sleep (.v 0), .getinfo 0 (.v 0)] : List Instr).all (fun i => !i.wf) = true := by decide

theorem test_wf_float_refuses : ([
    -- formats outside a conversion's side, odd pairs, and token strings: empty, too deep, empty stack, two values left, eight operators
    .cvtFromFloat false .f16 .s32 0 (.v 0), .cvtFromFloat false .i4 .f32 0 (.v 0), .cvtFromFloat false .s64 .f32 1 (.v 0),
    .cvtFromInt false .f32 .f32 0 (.v 0), .cvtFromInt false .f32 .s64 0 (.v 1), .cvtFromInt false .u64 .s32 1 (.v 0),
    .cvtFromInt false .f32 .s32 0 (.cst .half), .dot4I8 true true 0 (.cst .half) (.v 0),
    .expr false 0 (.v 0) (.v 0) (.v 0) .lit [.a], .expr false 0 (.v 0) (.v 0) (.v 0) (.v 0) [],
    .expr false 0 (.v 0) (.v 0) (.v 0) (.v 0) [.a, .a, .a, .a, .a, .add, .add, .add, .add],
    .expr false 0 (.v 0) (.v 0) (.v 0) (.v 0) [.a, .add], .expr false 0 (.v 0) (.v 0) (.v 0) (.v 0) [.a, .b],
    .expr false 0 (.v 0) (.v 0) (.v 0) (.v 0) [.a, .neg, .neg, .neg, .neg, .neg, .neg, .neg, .neg],
    .shfl .idx 0 0 (.cst .half), .bcast 0 0 (.v 0), .bcast 0 0 (.sp .lane), .perm 0 0 (.cst .half)] : List Instr).all
      (fun i => !i.wf) = true := by decide

theorem test_wf_memory_refuses : ([
    -- register groups that do not start at a multiple of their length, data of 128 bits outside V, specials as data
    .ld .b64 .none 1 (.v 0) 0, .ld .b128 .none 2 (.v 0) 0, .ld .b32 .none 0 (.cst .half) 0, .st .b64 .none (.v 1) (.v 0) 0,
    .st .b128 .none (.s 0) (.v 0) 0, .st .b32 .none (.sp .lane) (.v 0) 0, .ldg .b64 .none 1 (.v 0) 0, .ldg .b32 .none 0 (.v 1) 0,
    .ldg .b32 .none 0 (.sp .lane) 0, .stg .b128 .none (.s 0) (.v 0) 0, .stg .b32 .none (.v 0) (.v 1) 0, .ldAcq true .gang 1 (.v 0) 0,
    .stRel true .gang (.v 1) (.v 0) 0, .atom .cas32 .gang 1 (.v 0) 0, .atom .cas64 .gang 2 (.v 0) 0, .atom .addU32 .gang 0 (.cst .half) 0,
    .pref .none (.cst .half) 0, .ldv .b128 2 (.v 0) 0, .stv .b64 (.v 1) (.v 0) 0, .atomv .cas 1 (.v 0) 0] : List Instr).all
      (fun i => !i.wf) = true := by decide

theorem test_wf_sync_and_engines_refuse : ([
    .nbinit 0 (.v 0), .nbinit 0 (.sp .lane), .tgarr 0 (.v 0), .tgwait 0 (.v 0), .tgjoin (.v 0), .tgleave (.v 0), .evsig (.v 0),
    .evwait 0 (.v 0), .evtest 0 (.v 0), .qbind 0 (.v 0), .qpush 0 2, .qpop 1 0, .qpeek 3 0, .shape 0 2, .copy false false 0 (.v 0) 0,
    .copyCsr 0 (.v 0) 0, .copyPlane false false 0 (.v 0) 0, .copyQ 0 (.v 0) 0, .mmaQ 0 0 0 (.v 0), .mlda 2 0 (.cst .zero), .msta 0 0 (.v 0),
    .adinv (.v 0), .islpush false 0 1 (.cst .zero), .islrecv 0 0 (.v 0), .islstat 0 (.v 0), .rdsr 0 10, .wrsr 2 (.s 0), .wrsr 9 (.s 0),
    .wrsr 0 (.v 0)] : List Instr).all (fun i => !i.wf) = true := by decide

/-! ## Words written out in the spec decode -/

theorem test_decode_integer : [(0x00840208, some (.iadd .s32 4 (.v 1) (.v 2))), (0x008201F4, some (.iadd .s32 2 (.v 0) (.cst .two))),
    (0x0301002A, some (.movi 1 42)), (0x0862F5E0, some (.sadd 2 (.cst .zero) .lit))].all
      (fun p => decodeTableWord 32 p.1 == p.2) = true := by decide

theorem test_decode_control : [(0x0E820002, some (.loop 2 2)), (0x0C810003, some (.brk .nz 1 3)), (0x0F00000D, some (.join 3)),
    (0x0C000002, some (.br 2)), (0x37800000, some .endGang), (0, some .nop)].all
      (fun p => decodeTableWord 32 p.1 == p.2) = true := by decide

theorem test_decode_float : [(0x1005040F, some (.fsub true 5 (.v 2) (.v 3))), (0x14860208, some (.dot4F8 .e4m3 .e4m3 6 (.v 1) (.v 2))),
    (0x18040362, some (.cvtFromFloat true .e4m3 .f32 4 (.v 1))), (0x1C0507E1, some (.shfl .xor 5 3 .lit)),
    (0x10870204, some (.fmul false 7 (.v 1) (.v 1)))].all (fun p => decodeTableWord 32 p.1 == p.2) = true := by decide

/-- The two EXPR packets of 05 R149 to R151. -/
theorem test_decode_expr :
    decodeTableWord 128 (0x1F080208 + 0x1F0308C0 * 2 ^ 32 + 0x00937210 * 2 ^ 64) =
      some (.expr false 8 (.v 1) (.v 2) (.v 3) (.v 4) [.a, .b, .c, .fma, .d, .max]) ∧
    decodeTableWord 128 (0x1F090209 + 0x1F7AF480 * 2 ^ 32 + 0x0000D200 * 2 ^ 64) =
      some (.expr true 9 (.v 1) (.v 2) (.cst .zero) (.cst .zero) [.a, .a, .c, .sel]) := by decide

theorem test_decode_memory : [(0x20040240, some (.ld .b32 .none 4 (.v 1) 2)), (0x2006F440, some (.ld .b32 .none 6 (.cst .zero) 2)),
    (0x2102F440, some (.st .b32 .none (.v 2) (.cst .zero) 2)), (0x2205F46E, some (.ldAcq false .device 5 (.cst .zero) 3)),
    (0x2285F46E, some (.stRel false .device (.v 5) (.cst .zero) 3)), (0x2804024E, some (.atom .addU32 .device 4 (.v 1) 2)),
    (0x25060420, some (.atomv .add 6 (.v 2) 1)), (0x24030420, some (.ldv .b32 3 (.v 2) 1)), (0x2481F440, some (.stv .b32 (.v 1) (.cst .zero) 2)),
    (0x2BA65800, some (.fenceX .crew .vlt .mtx)), (0x2B8E0000, some (.fence .device)), (0x2BCE0128, some (.afence .device 2 5))].all
      (fun p => decodeTableWord 32 p.1 == p.2) = true := by decide

theorem test_decode_sync : [(0x2C640064, some (.nbarr 4 3)), (0x2C640068, some (.nbwait 4 3)), (0x2C00FA60, some (.nbinit 3 (.cst .two))),
    (0x2D880048, some (.qpop 8 2)), (0x2D80F000, some (.qbind 0 .lit))].all (fun p => decodeTableWord 32 p.1 == p.2) = true := by decide

theorem test_decode_engines : [(0x30640020, some (.shape 1 4)), (0x30E80629, some (.copyPlane true false 1 (.s 8) 3)), (0x31000202, some (.mma 2 0 1)),
    (0x31660208, some (.mmaAd 0 0 1 6)), (0x71800001, some (.macq 1)), (0x7188F409, some (.mlda 8 1 (.cst .zero))), (0x31800005, some (.mrel 1)),
    (0x31800011, some (.mclr 1)), (0x3404F000, some (.islpush false 0 4 .lit)), (0x36630002, some (.rdsr 3 2)),
    (0x36E10000, some (.wrsr 0 (.s 1)))].all (fun p => decodeTableWord 32 p.1 == p.2) = true := by decide

/-- Reserved codes decode to nothing: an unassigned primary, an inline constant of a float, a scope past 9, path code 7. -/
theorem test_decode_refuses : [0x3F800000, 0x008201F8, 0x2B940000, 0x2BA7C000].all (fun w => decodeTableWord 32 w == none) = true := by decide

/-! ## One step of single words, with the spec's own values -/

/-- The device with one gang whose next packet has `w` in slot 0 and `lit` in slot 3, after `f`; the lane masks of its four slices. -/
def placedIn (masks : List (BitVec 4)) (w lit : Nat) (f : Gang → Gang) : State :=
  (State.reset.withFetchWord 128 (w + lit * 2 ^ 96)).modGang 0 fun x =>
    f { x with slices := x.slices.zipIdx.map fun p => { p.1 with mask := masks.getD p.2 0 } }

/-- The same with lane 0 active. -/
def placed (w lit : Nat) (f : Gang → Gang) : State := placedIn [1, 0, 0, 0] w lit f

/-- The next state. -/
def after (s : State) : State :=
  match step s with
  | .next t => t
  | .fault _ => State.reset
  | .refused _ => State.reset

/-- The results in flight of the gang, and their flags. -/
def results (s : State) : List Write := (s.gang 0).wb.flatMap (·.writes)
def resultFlags (s : State) : List (BitVec 7) := (s.gang 0).wb.map (·.flags)

/-- A word of format R (03 R88). -/
def wordR (op d a b t : Nat) : Nat := op * 2 ^ 23 + d * 2 ^ 16 + a * 2 ^ 9 + b * 4 + t

/-- V registers in lane `l`, S registers, A registers. -/
def vIn (l : Nat) (rs : List (Nat × Word)) (x : Gang) : Gang := rs.foldl (fun x p => x.setV p.1 l p.2) x
def sIn (rs : List (Nat × DWord)) (x : Gang) : Gang := { x with s := rs.foldl (fun m p => Sparse.set 0 m p.1 p.2) x.s }
def aIn (rs : List (Nat × Addr)) (x : Gang) : Gang := { x with a := rs.foldl (fun m p => Sparse.set 0 m p.1 p.2) x.a }
def kIn (rs : List (Nat × DWord)) (x : Gang) : Gang := { x with k := rs.foldl (fun m p => Sparse.set 0 m p.1 p.2) x.k }

/-- 04 R101: the sum wraps, and IOV is bit 6 of FLAGS. -/
theorem test_iadd_wraps : let t := after (placed 0x00840208 0 (vIn 0 [(1, 0x7FFFFFFF), (2, 1)]))
    results t = [.v 4 [(0, 0x80000000)]] ∧ resultFlags t = [flIOV] := by decide

/-- 04 R101: bits [63:32] of the product: −1 × 2 signed. -/
theorem test_imul_high : results (after (placed (wordR 0x03 7 1 125 2) 0 (vIn 0 [(1, 0xFFFFFFFF)]))) = [.v 7 [(0, 0xFFFFFFFF)]] ∧
    results (after (placed (wordR 0x03 7 1 125 3) 0 (vIn 0 [(1, 0xFFFFFFFF)]))) = [.v 7 [(0, 1)]] := by decide

/-- The dividends and divisors of the example of 02 R61, in lanes 0 to 3. -/
def divLanes (x : Gang) : Gang :=
  vIn 3 [(1, 5), (2, 0)] (vIn 2 [(1, 0xFFFFFFF9), (2, 2)] (vIn 1 [(1, 0x80000000), (2, 0xFFFFFFFF)] (vIn 0 [(1, 7), (2, 2)] x)))

/-- 02 R60, R61: the example with both enables 0. -/
theorem test_idiv_example : let t := after (placedIn [15, 0, 0, 0] (wordR 0x05 3 1 2 0) 0 divLanes)
    results t = [.v 3 [(0, 3), (1, 0x80000000), (2, 0xFFFFFFFD), (3, 0xFFFFFFFF)]] ∧ resultFlags t = [flIDZ ||| flIOV] := by decide
theorem test_irem_example :
    results (after (placedIn [15, 0, 0, 0] (wordR 0x05 3 1 2 2) 0 divLanes)) = [.v 3 [(0, 1), (1, 0), (2, 0xFFFFFFFF), (3, 5)]] := by decide

/-- 02 R61: IDZE and IOVE: DZ with mask 0b1000; IOVE alone: OV with mask 0b0010. -/
theorem test_idiv_traps :
    ((after (placedIn [15, 0, 0, 0] (wordR 0x05 3 1 2 0) 0 fun x => divLanes { x with mode := 0x6000 })).gang 0).tmask = 8 ∧
    ((after (placedIn [15, 0, 0, 0] (wordR 0x05 3 1 2 0) 0 fun x => divLanes { x with mode := 0x4000 })).gang 0).tmask = 2 := by decide

/-- 04 R107: the example of BFE and BFI. -/
theorem test_bfe_example :
    results (after (placed (wordR 0x0D 3 1 2 0) 0 (vIn 0 [(1, 0xF0), (2, 0x0804)]))) = [.v 3 [(0, 0xF)]] ∧
    results (after (placed (wordR 0x0D 3 1 2 1) 0 (vIn 0 [(1, 0xF0), (2, 0x0404)]))) = [.v 3 [(0, 0xFFFFFFFF)]] := by decide
theorem test_bfi_example :
    results (after (placed (wordR 0x0D 3 1 2 2) 0 (vIn 0 [(1, 0xA), (2, 0x0408), (3, 0x12345678)]))) = [.v 3 [(0, 0x12345A78)]] := by decide

/-- 04 R106: a count of 32 is not taken modulo 32. -/
theorem test_shl_by_width : results (after (placed (wordR 0x0C 3 1 2 0) 0 (vIn 0 [(1, 1), (2, 32)]))) = [.v 3 [(0, 0)]] := by decide
theorem test_sar_by_width : results (after (placed (wordR 0x0C 3 1 2 2) 0 (vIn 0 [(1, 0x80000000), (2, 32)]))) = [.v 3 [(0, 0xFFFFFFFF)]] := by
  decide

/-- 04 R110: the example `sadd s2, 0, #3`. -/
theorem test_sadd_example : results (after (placed 0x0862F5E0 3 id)) = [.s 2 3] := by decide

/-- 04 R114: the example of MOVA and LEA. -/
theorem test_mova_example : results (after (placed (wordR 0x14 2 0 100 2) 0
    (fun x => aIn [(0, 0x00010000000012340000)] (sIn [(4, 0xABC000)] x)))) = [.a 2 0x00010000000000ABC000] := by decide

/-- 04 R122, R130: the example: lanes 0 and 2 go to THEN, and the entry (p + 1, lanes 1 and 3) is pushed. -/
theorem test_brk_example :
    let t := after (after (placedIn [15, 0, 0, 0] 0x0C810003 0 fun x => { kIn [(1, 5)] x with slices := x.slices.take 1 }))
    let p : PAddr := BitVec.ofNat 76 (placePa / 16)
    ((t.gang 0).slices.map fun k => (k.pc, k.mask, k.stack)) = [(p + 3, 5, [(p + 1, 10)])] := by decide

/-- 04 R127: LOOP with a count of 3 pushes its frame. -/
theorem test_loop_example :
    let t := after (after (placed 0x0E820002 0 (sIn [(2, 3)])))
    let p : PAddr := BitVec.ofNat 76 (placePa / 16)
    (sliceAt (t.gang 0).slices 0).frames = [{ start := p + 1, endl := p + 2, count := 3 }] := by decide

/-- 05 R136: 2 × 2. -/
theorem test_fmul : results (after (placed 0x10870204 0 (vIn 0 [(1, 0x40000000)]))) = [.v 7 [(0, 0x40800000)]] := by decide

/-- 05 R142: the example of DOT4.F8. -/
theorem test_dot4_example : results (after (placed 0x14860208 0 (vIn 0 [(1, 0x00B84038), (2, 0x38484040), (6, 0x3F000000)]))) =
    [.v 6 [(0, 0x40200000)]] := by decide

/-- 05 R146: the example of CVT: OF and IX are set. -/
theorem test_cvt_example : let t := after (placed 0x18040362 0x11 (vIn 0 [(1, 0x43FA0000), (4, 0x11223344)]))
    results t = [.v 4 [(0, 0x117E3344)]] ∧ resultFlags t = [flOF ||| flIX] := by decide

/-- 05 R147: the reciprocal of 2 is exact. -/
theorem test_rcp : results (after (placed (wordR 0x32 7 1 0 0) 0 (vIn 0 [(1, 0x40000000)]))) = [.v 7 [(0, 0x3F000000)]] := by decide

/-- 03 R95: min(2 × 3 + 1, 10) as the example's tokens say: fma gives 7, max gives 10. -/
theorem test_expr_example : results (after ((State.reset.withFetchWord 128 (0x1F080208 + 0x1F0308C0 * 2 ^ 32 + 0x00937210 * 2 ^ 64)).modGang 0
    fun x => vIn 0 [(1, 0x40000000), (2, 0x40400000), (3, 0x3F800000), (4, 0x41200000)]
      { x with slices := x.slices.zipIdx.map fun p => { p.1 with mask := if p.2 = 0 then 1 else 0 } })) = [.v 8 [(0, 0x41200000)]] := by
  decide

/-- 05 R151: the example of EXPR.F16X2. -/
theorem test_expr_half_example : results (after ((State.reset.withFetchWord 128 (0x1F090209 + 0x1F7AF480 * 2 ^ 32 + 0x0000D200 * 2 ^ 64)).modGang 0
    fun x => vIn 0 [(1, 0x4000BE00)]
      { x with slices := x.slices.zipIdx.map fun p => { p.1 with mask := if p.2 = 0 then 1 else 0 } })) = [.v 9 [(0, 0x40000000)]] := by
  decide

/-- v3 = 10 × L in the lanes of EXEC = 0xFFDB, with slices 2 and 3 at another PC (the example of 05 R158). -/
def crossLanes (x : Gang) : Gang :=
  let y : Gang := (List.range 16).foldl (fun x l => x.setV 3 l (BitVec.ofNat 32 (10 * l))) x
  { y with slices := y.slices.zipIdx.map fun p => if p.2 < 2 then p.1 else { p.1 with pc := p.1.pc + 9 } }

/-- 05 R152, R153: the example of SHFL. -/
theorem test_shfl_example : results (after (placedIn [0xB, 0xD, 0xF, 0xF] 0x1C0507E1 8 crossLanes)) =
    [.v 5 [(0, 0), (1, 10), (3, 30), (4, 40), (6, 60), (7, 70)], .k7 0xDB] := by decide

/-- 05 R158: the example of SCAN. -/
theorem test_scan_example : results (after (placedIn [0xB, 0xD, 0xF, 0xF] (wordR 0x3C 6 3 0 0) 0 crossLanes)) =
    [.v 6 [(0, 0), (1, 10), (3, 40), (4, 80), (6, 140), (7, 210)]] := by decide

/-- 06 R170: the example of ATOM.ADD: three lanes on one word that holds 10. -/
theorem test_atom_example :
    let r := performIn (.atom .addU32 .device 4 (.v 1) 2) (10 :: List.replicate 127 0)
      [{ lane := 0, addr := 0, data := 1 }, { lane := 1, addr := 0, data := 2 }, { lane := 2, addr := 0, data := 3 }]
    r.2.1.map (·.res) = [10, 11, 13] ∧ r.1.take 4 = [16, 0, 0, 0] := by decide

/-- 06 R161: the address of each lane is A2 + v1, kept with the operation until it is performed. -/
theorem test_ld_records_addresses :
    ((after (placed 0x20040240 0 fun x => aIn [(2, 0x2000)] (vIn 0 [(1, 0xFFFFFFFC)] x))).gang 0).ops.map
      (fun o => (o.acc.map (·.addr), o.logged)) = [([0x1FFC], true)] := by decide

/-- 06 R163: ALIGN is cause 8, and its mask holds the misaligned lane. -/
theorem test_ld_misaligned :
    let x := (after (placed 0x20040240 0 (aIn [(2, 0x2002)]))).gang 0
    bits x.tstat 0 8 = 8 ∧ x.tmask = 1 := by decide

/-- 06 R172, R174: ATOMV on the own window returns the old value; the window holds the sum at once. -/
theorem test_atomv_own_window :
    let t := after (placed 0x25060420 0 (vIn 0 [(6, 5)]))
    results t = [.v 6 [(0, 0)]] ∧ t.windowNat 0 0 4 = 5 := by decide

/-- 06 R182: NBINIT nb3, 2. -/
theorem test_nbinit_example :
    let b := ((after (placed 0x2C00FA60 0 id)).crew 0).nbar 3
    (b.member, b.arrived, b.gen) = (2, 0, 1) := by decide

/-- 06 R192: `qbind q0, #0x20010000`: ISLIN, I0, stream 1. -/
theorem test_qbind_example : (((after (placed 0x2D80F000 0x20010000 id)).gang 0).qst 0).b = { kind := 2, isel := 0, stream := 1 } := by decide

/-- 07 R205: the record of the example: role, formats, vectors, row stride, vault addresses. -/
theorem test_shape_example :
    let sh : Shape := { valid := true, w0 := 0x0000004000001000, w1 := 0x000100024B590000, w2 := 0x0000000001000004, w3 := 0x0001000000008000 }
    [sh.role, sh.outer, sh.inner, sh.nparts, sh.nkb, sh.rowstride, sh.vbase, sh.svbase, sh.vsel] = [1, 4, 256, 2, 2, 256, 0x8000, 0x10000, 0] := by decide

/-- 02 R65: the INT4 row-block whose element 0 is −3. -/
theorem test_plane_layout_example :
    (planeBytes 0x0E ((List.replicate 128 (some 0)).set 0 (some 13)).toArray 0).zipIdx.filter (fun p => p.1 != some 0) =
      [(some 1, 0), (some 1, 32), (some 1, 48)] := by decide

/-- 07 R230: RDSR of MSTAT at rest; 07 R232: TRAP stops the gang at its next packet with cause 14. -/
theorem test_rdsr_mstat : results (after (placed 0x36630002 0 fun x => { x with mstat := 0x15F })) = [.s 3 0x15F] := by decide
theorem test_trap_code : ((after (placed (0x6E * 2 ^ 23 + 0x1234) 0 id)).gang 0).trapNext = some (pack [(0, 14), (16, 0x1234)], 0) := by decide

/-- 02 R70, R73: block values 1, 2^24, 1, 1 on an element that starts at +0: one pass of depth 3 and one of depth 1, or two of depth 2. -/
theorem test_fold_depth_three : (addF32 0 (foldBlocks 0 [(0x3F800000, 0), (0x4B800000, 0), (0x3F800000, 0)]).1 0x3F800000).1 = 0x4B800000 := by decide
theorem test_fold_depth_two :
    (addF32 0 (foldBlocks 0 [(0x3F800000, 0), (0x4B800000, 0)]).1 (foldBlocks 0 [(0x3F800000, 0), (0x3F800000, 0)]).1).1 = 0x4B800001 := by decide

/-- 02 R58: 500.0 to E4M3 in RNE: NaN without SAT, 448 with it. -/
theorem test_to_e4m3_example : cvtCode .f32 .e4m3 0 false false 0x43FA0000 = (0x7F, flOF ||| flIX) ∧
    cvtCode .f32 .e4m3 0 true false 0x43FA0000 = (0x7E, flOF ||| flIX) ∧ cvtCode .f32 .e4m3 1 false false 0x43FA0000 = (0x7E, flOF ||| flIX) ∧
    cvtCode .f32 .e4m3 0 false false 0x7F800000 = (0x7F, flIV) := by decide

/-- Codes of each class of the floating statements: quiet and signalling NaN, infinities, zeros, subnormal and finite values. -/
theorem test_witness_codes :
    fF32.read 0x7FC00000 = .nan false ∧ fF32.read 0x7F800001 = .nan true ∧ fF32.read 0x7F800000 = .inf false ∧ fF32.read 0xFF800000 = .inf true ∧
    fF32.read 0x80000000 = .fin true 0 (-149) ∧ fF32.read 1 = .fin false 1 (-149) ∧ fF32.read 0x3F000000 = .fin false 8388608 (-24) ∧
    fF32.read 0x43160000 = .fin false 9830400 (-16) ∧ fF32.read 0xC3160000 = .fin true 9830400 (-16) ∧ fE4M3.read 0x38 = .fin false 8 (-3) ∧
    fE4M3.read 0x80 = .fin true 0 (-9) ∧ fE4M3.read 0x7F = .nan false ∧ fE5M2.read 0x7C = .inf false := by decide

/-! ## States that meet the hypotheses of the statements: words that issue -/

/-- A cursor of the placed gang at a packet without a literal. -/
def cur0 : Cursor :=
  { gang := 0, pc := BitVec.ofNat 76 (placePa / 16), slices := [0, 1, 2, 3], slot := 0, raw := 0, lit := 0, seq0 := 1, tag0 := 1, group := []
    words := [], groups := [], ctl := some 0, parts := [], switch := false }

/-- Shape records: the A operand of 07 R205's example, a B operand, an integer pair, vectors of ROLE 0, a CSR record. -/
def shapeA : Shape := { valid := true, w0 := 0x0000004000001000, w1 := 0x000100024B590000, w2 := 0x0000000001000004, w3 := 0x0001000000008000 }
def shapeB : Shape := { valid := true, w0 := 0x0000004000001000, w1 := 0x000100024B5A0000, w2 := 0x0000000001000008, w3 := 0x0003000000020000 }
def shapeAI : Shape := { valid := true, w0 := 0, w1 := 0x0001000000010000, w2 := 0x0000000001000004, w3 := 0x8000 }
def shapeBI : Shape := { valid := true, w0 := 0, w1 := 0x0001000000020000, w2 := 0x0000000001000008, w3 := 0x20000 }
def shapeV : Shape := { valid := true, w0 := 0, w1 := 0x0001000008400000, w2 := 0x0000000000100004, w3 := 0x40000 }
def shapeCsr : Shape := { valid := true, w0 := 0, w1 := 0x0001000008430000, w2 := 0x0000000000100004, w3 := 0x0006000000050000 }

/-- The placed device as the word at `cur0` issues, with the gang after `f`, the crew with the records above, and token 3 held. -/
def issuing (f : Gang → Gang) : State :=
  let s : State := ((State.reset.withFetchWord 128 0).modGang 0 f).modCrew 0 fun c =>
    { c with h := [(0, shapeA), (1, shapeB), (2, shapeAI), (3, shapeBI), (4, shapeV), (5, shapeCsr)] }
  let s := s.modCore 0 fun k => { k with toks := k.toks.set 3 (.held 0) }
  { s with cur := some cur0 }

/-- The same with the words of a shape record in S4 to S7, and a part's range in S8. -/
def idle : State := issuing (sIn [(4, shapeA.w0), (5, shapeA.w1), (6, shapeA.w2), (7, shapeA.w3), (8, 0x00010000)])

/-- Words that take no trap in `idle` issue there. -/
theorem issues_of (l : List Instr) (h : (l.all fun i => (idle.wordTrap cur0 i).isNone) = true) : ∀ i ∈ l, Issues idle cur0 i := by
  intro i hi
  exact ⟨rfl, by simpa using List.all_eq_true.mp h i hi⟩

theorem test_witness_integers : ∀ i ∈ [Instr.iadd .s32 0 (.v 1) (.v 2), .iadd .u64 0 (.v 2) (.v 4), .isub .u32 95 (.s 1) .lit, .isub .s64 94 (.v 2) .lit,
    .imin false 0 (.v 1) (.v 2), .imax true 0 (.v 1) (.v 2), .iabs 0 (.v 1), .ineg 0 (.v 1), .imul false false 0 (.v 1) (.v 2),
    .imul true true 0 (.v 1) (.v 2), .imad true 0 (.v 1) (.v 2), .idiv false 0 (.v 1) (.v 2), .irem true 0 (.v 1) (.v 2)],
    Issues idle cur0 i := issues_of _ (by decide)

theorem test_witness_logic : ∀ i ∈ [Instr.and 0 (.v 1) (.v 2), .or 0 (.v 1) (.v 2), .xor 0 (.v 1) (.v 2), .andn 0 (.v 1) (.v 2), .not 0 (.v 1),
    .brev 0 (.v 1), .popc 0 (.v 1), .clz 0 (.v 1), .ctz 0 (.v 1), .sel 3 0 (.v 1) (.v 2), .mov false 0 (.v 1), .mov true 0 (.v 2), .movi 0 0xFFFF,
    .shl 0 (.v 1) (.v 2), .shr 0 (.v 1) (.v 2), .sar 0 (.v 1) (.v 2), .rot 0 (.v 1) (.v 2), .bfe true 0 (.v 1) (.v 2), .bfi 0 (.v 1) (.v 2)],
    Issues idle cur0 i := issues_of _ (by decide)

theorem test_witness_masks_and_scalars : ∀ i ∈ [Instr.icmp .lt .s32 7 (.v 1) (.v 2), .icmp .ge .u64 0 (.v 2) (.v 4),
    .fcmp false .unord 0 (.v 1) (.v 2), .ballot 0 1, .vote .eq 0 1, .sadd 0 (.s 1) (.s 2), .ssub 0 (.s 1) (.s 2), .sand 0 (.s 1) (.s 2), .sor 0 (.s 1) (.s 2),
    .sshl 0 (.s 1) (.s 2), .sshr 0 (.s 1) (.s 2), .smul 0 (.s 1) (.s 2), .scmp .ltS 0 (.s 1) (.s 2), .movs (.toS 0 1), .movs (.toV 0 1),
    .adda 0 1 (.s 2), .lea 4 0 1 (.s 2), .mova (.a 0 1 (.s 2)), .mova (.lo 0 1), .mova (.hi 0 1), .kand 0 1 2, .kor 0 1 2, .knot 0 1, .kpop 0 1,
    .setx 0, .getx 0], Issues idle cur0 i := issues_of _ (by decide)

theorem test_witness_control : ∀ i ∈ [Instr.br 0xFFFFF, .brk .nz 1 3, .brk .all 1 0, .brs .lez 1 0x8000, .jmp 0, .ret 15, .call 1, .callIndirect 1 1,
    .loop 2 1, .endl, .join 3, .regang, .exit, .yield], Issues idle cur0 i := issues_of _ (by decide)

theorem test_witness_floats : ∀ i ∈ [Instr.fadd false 0 (.v 1) (.v 2), .fsub true 0 (.v 1) (.cst .half), .fmul false 0 (.v 1) (.v 2),
    .ffma false 0 (.v 1) (.v 2), .fmin false 0 (.v 1) (.v 2), .fmax false 0 (.v 1) (.v 2), .frnd false 0 (.v 1), .fclass false 0 (.v 1),
    .rcp false 0 (.v 1), .rsq false 0 (.v 1), .sqrt false 0 (.v 1), .log2 false 0 (.v 1), .exp2 false 0 (.v 1), .sin false 0 (.v 1),
    .cos false 0 (.v 1), .hadd2 false true 0 (.v 1) (.v 2), .hmul2 false false 0 (.v 1) (.v 2), .hfma2 false false 0 (.v 1) (.v 2),
    .dot4F8 .e4m3 .e5m2 0 (.v 1) (.v 2), .dot4I8 true false 0 (.v 1) (.v 2), .cvtFromFloat false .s64 .f32 0 (.v 1),
    .cvtFromFloat true .e4m3 .f32 0 (.v 1), .cvtFromFloat false .f16 .e5m2 0 (.v 1), .cvtFromInt false .f32 .s64 0 (.v 2),
    .expr false 0 (.v 1) (.v 2) (.v 3) (.v 4) [.a, .b, .mul], .expr true 0 (.v 1) (.v 2) (.v 3) (.v 4) [.a, .neg]],
    Issues idle cur0 i := issues_of _ (by decide)

theorem test_witness_cross_lane : ∀ i ∈ [Instr.shfl .idx 0 1 (.v 2), .shfl .xor 0 1 .lit, .shfl .up 0 1 (.v 2), .shfl .down 0 1 (.v 2), .bcast 0 1 (.s 1),
    .perm 0 1 (.v 2), .scan .add false .s32 0 1, .scan .max true .f32 0 1, .reduce .min .u32 (.v 0) 1, .reduce .add .s32 (.s 0) 1],
    Issues idle cur0 i := issues_of _ (by decide)

theorem test_witness_memory : ∀ i ∈ [Instr.ld .b128 .none 92 (.v 1) 2, .ld .s8 .strm 0 (.v 1) 2, .ldg .b64 .last 0 (.v 2) 2, .ldAcq true .system 0 (.v 1) 2,
    .st .b8 .none (.v 0) (.v 1) 2, .st .b16 .none (.v 0) (.v 1) 2, .st .b32 .none (.s 1) (.v 1) 2, .st .b64 .none (.v 0) (.v 1) 2,
    .st .b128 .none (.v 0) (.v 1) 2, .stg .b32 .none (.v 0) (.v 2) 2, .stg .b64 .none (.v 0) (.v 2) 2, .stg .b128 .none (.v 0) (.v 2) 2,
    .stRel false .gang (.v 0) (.v 1) 2, .stRel true .device (.v 0) (.v 1) 2, .atom .cas32 .gang 0 (.v 2) 2, .atom .cas64 .tower 0 (.v 4) 2,
    .atom .fmaxF32 .host 0 (.v 1) 2, .pref .none (.v 1) 2, .fence .slice, .fenceX .crew .vlt .mtx, .afence .device 2 5, .ldv .b128 4 (.v 1) 1,
    .stv .b32 (.v 0) (.v 1) 1, .atomv .cas 0 (.v 2) 1], Issues idle cur0 i := issues_of _ (by decide)

/-- 06 R172: the own window, below 32 lanes: the clauses of an own-window word, and of ATOMV with one lane. -/
theorem test_witness_own_window : idle.lanes cur0 ≠ [] ∧ idle.window 0 0 = some 0 ∧ (idle.core 0).badVault = [] ∧ (∀ l ∈ idle.lanes cur0, l < 32) ∧
    (let s := issuing fun x => { x with slices := x.slices.zipIdx.map fun p => { p.1 with mask := if p.2 = 3 then 8 else 0 } }
     s.lanes cur0 = [15] ∧ s.landVault 0 = s) := by decide

/-- 06 R172: a window of another crew of the cluster; 06 R175: an own-window word of lanes on both sides of lane 32. -/
def clustered : State :=
  let s := issuing (sIn [(1, BitVec.ofNat 64 (2 ^ 32))])
  (s.modCrew 0 fun c => { c with pos := 2, cgrp := 5 }).setCrew 1 { here := true, core := 1, pos := 1, cgrp := 5, wsize := 16384, width := 16, nv := 16 }
theorem test_witness_towpath : clustered.window 0 1 = some 1 ∧ clustered.lanes cur0 ≠ [] ∧
    ∀ i ∈ [Instr.ldv .b32 4 (.cst .zero) 1, .stv .b64 (.v 0) (.cst .zero) 1], Issues clustered cur0 i := by
  refine ⟨by decide, by decide, fun i hi => ⟨rfl, ?_⟩⟩
  have h : ([Instr.ldv .b32 4 (.cst .zero) 1, .stv .b64 (.v 0) (.cst .zero) 1].all fun i => (clustered.wordTrap cur0 i).isNone) = true := by decide
  simpa using List.all_eq_true.mp h i hi

/-- SYNCHRONISATION: a gang with an arrival before it; a group that is not its tenant's, one without members, one with. -/
theorem test_witness_groups :
    let tide (t : Tide) : State := { idle with tides := [(0, t)] }
    (idle.tide 0).tenant ≠ some (idle.gangOf cur0).tenant ∧
    ((tide { tenant := some 0 }).tide 0).tenant = some (idle.gangOf cur0).tenant ∧ ((tide { tenant := some 0 }).tide 0).members = [] ∧
    (let t : Tide := { tenant := some 0, members := [.crew 7] }
     t.members.contains (.crew 0) = false ∧ t.joining.contains (.crew 0) = false) ∧
    (let t : Tide := { tenant := some 0, members := [.crew 0] }
     t.members.contains (.crew 0) = true ∧ t.leaving.contains (.crew 0) = false ∧ t.arrived.contains (.crew 0) = false) ∧
    (let t : Tide := { tenant := some 0, members := [.crew 0, .crew 7], arrived := [.crew 0] }
     ¬ (t.members.contains (.crew 0) = true ∧ t.arrived.contains (.crew 0) = false)) := by decide

/-- QUEUES: a descriptor of each kind, a stream that no image declares, an empty subgang, an ISLRECV of no record; status words that arrive. -/
theorem test_witness_queue_words :
    bits (0x20010000 : DWord) 28 4 = 2 ∧ bits (0x20010000 : DWord) 16 8 ≤ 7 ∧ idle.mayBind 0 0 = true ∧ bits (0x50000000 : DWord) 28 4 = 5 ∧
    idle.mayBind 0 2 = false ∧ bits (0x32000000 : DWord) 28 4 = 3 ∧ idle.declares 0 { kind := 2, isel := 1, stream := 0 } = false ∧
    idle.declares 0 { kind := 2, isel := 0, stream := 1 } = true ∧ (idle.readO cur0 (.s 1)).toNat % 512 = 0 ∧
    (idle.readO cur0 (.cst .two)).toNat % 512 ≠ 0 ∧
    ∀ i ∈ [Instr.qdepth 0 2, .cpstat 0 1, .islstat 0 (.s 1)],
      let o : Op := { tag := 1, pc := 0, slot := 0, i := i, lanes := BitVec.allOnes 64, logged := true }
      let s := idle.modGang 0 fun x => { x with ops := [o], arr := [(0, 1, [])] }
      (s.gang 0).arrival s.now = some (0, 1, []) ∧ s.op? 0 1 = some o ∧ o.i = i := by decide

/-- COPIES: the copies of a crew are numbered; a gathering copy of the same register. -/
theorem test_witness_numbered : (idle.crew 0).copies = [] ∧ (idle.crew 0).nextCopy = 1 ∧
    (let cr : Crew := { idle.crew 0 with copies := [{ id := 1, crew := 0, kind := .dense, h := 4, sh := shapeV, nb := 3, tomem := false }], nextCopy := 2 }
     (cr.copies.map (·.id)).Nodup ∧ (∀ p ∈ cr.copies, p.id < cr.nextCopy) ∧ (cr.copies.find? fun p => p.h == 4 && !p.started).isSome) := by decide

/-- RDSR of MSTAT: at rest, in flight, and with a follow-on still to come; MMA.Q with a bound register; ADCFG valid and not. -/
theorem test_witness_status_clauses :
    idle.pendingFollow 0 = none ∧ idle.youngest 0 = none ∧
    (let m : MInst := { id := 1, i := .mma 2 0 1, tok := 2, gangs := [0], crew := 0 }
     (idle.modCore 0 fun c => { c with minsts := [m] }).youngest 0 = some m) ∧
    (let p : Part := { gang := 0, first := 0, count := 1, disp := 0, rm := 0, ftz := false, after := [], wants := true
                       follow := some { i := .mma 2 0 1, x := 0, a := shapeA, b := shapeB } }
     let cp : Copy := { id := 1, crew := 0, kind := .dense, h := 4, sh := shapeV, nb := 3, tomem := false, parts := [p] }
     (idle.modCrew 0 fun c => { c with copies := [cp] }).pendingFollow 0 = some (copyKey 0 1)) ∧
    (let s := issuing fun x => x.setQ 0 { b := { kind := 3 } }
     ((s.gangOf cur0).qst 0).b.kind ∈ [1, 3] ∧ s.wordTrap cur0 (.mmaQ 2 0 1 (.cst .one)) = none) ∧
    (idle.core (idle.crew 0).core).tokOwner = some 0 ∧
    (let s := idle.modCore 0 fun c => { c with tokOwner := some 7 }
     (s.core (s.crew 0).core).tokOwner ≠ some 0 ∧ s.wordTrap cur0 (.adinv (.s 1)) = none) ∧
    (bits (pack [(0, 65536), (32, 16)]) 32 5 ≤ 16 ∧ bits (pack [(0, 65536), (32, 16)]) 0 32 % 65536 = 0) ∧
    ¬ (bits (pack [(32, 17)]) 32 5 ≤ 16) ∧
    (let s := idle.modTen 0 fun t => { t with dbgctl := 2 }
     (s.ten 0).dbgctl.getLsbD 1 = true ∧ s.wordTrap cur0 (.dbgmark 1) = none) ∧ (idle.ten 0).dbgctl.getLsbD 1 = false := by decide

theorem test_witness_sync : ∀ i ∈ [Instr.nbinit 3 (.cst .two), .nbarr 4 3, .nbwait 4 3, .tgarr 0 (.s 1), .tgwait 0 (.s 1), .tgjoin (.s 1), .tgleave (.s 1),
    .evsig (.s 1), .evwait 0 (.s 1), .evtest 0 (.s 1), .qbind 0 (.s 1), .qpush 0 4, .islpush true 0 4 (.s 1), .qpop 8 2, .qpeek 8 2, .qdepth 0 2,
    .islstat 0 (.s 1), .islrecv 0 1 (.cst .one)], Issues idle cur0 i := issues_of _ (by decide)

theorem test_witness_shapes_and_copies : ∀ i ∈ [Instr.shape 1 4, .cpstat 0 1, .copy false false 4 (.s 8) 3, .copy true true 4 (.s 8) 3, .copyCsr 5 (.s 8) 3,
    .copyPlane true false 0 (.s 8) 3, .copyQ 4 (.s 8) 3], Issues idle cur0 i := issues_of _ (by decide)

theorem test_witness_matrix : ∀ i ∈ [Instr.mma 2 0 1, .mmaI 2 2 3, .mmaAd 2 0 1 9, .mmaQ 2 0 1 (.cst .one), .macq 0, .mrel 3, .mlda 92 3 (.s 1),
    .msta 0 3 (.s 1), .mclr 3, .mclr 0, .adinv (.s 1)], Issues idle cur0 i := issues_of _ (by decide)

theorem test_witness_status_and_system : ∀ i ∈ [Instr.rdsr 0 0, .rdsr 0 1, .rdsr 0 2, .rdsr 0 3, .rdsr 0 4, .rdsr 0 5, .rdsr 0 6, .rdsr 0 7, .rdsr 0 8,
    .rdsr 0 9, .wrsr 0 (.s 1), .wrsr 1 (.s 1), .wrsr 7 (.s 1), .wrsr 8 (.s 1), .trap 1, .brkpt 1, .nop, .dbgmark 1, .endGang, .halt, .sleep (.s 1),
    .getinfo 0 (.s 1)], Issues idle cur0 i := issues_of _ (by decide)

/-! ## States that meet the hypotheses of the statements: steps of the device -/

/-- The placed device between two packets. -/
def base : State := State.reset.withFetchWord 128 0

/-- `base` with its gang changed. -/
def gangWith (f : Gang → Gang) : State := base.modGang 0 f

/-- A gang that holds a data fault of a load, with eight log entries in use. -/
def faultOp : Op := { tag := 1, pc := 0, slot := 0, i := .ld .b32 .none 4 (.v 1) 2, lanes := 1, logged := true, fault := some .mmx, held := 1
                      acc := [{ lane := 0, addr := 0x2001, st := .held }] }
def faulting (x : Gang) : Gang :=
  { x with faulted := true, ops := faultOp :: (List.range 7).map fun k => { faultOp with tag := k + 2, fault := none } }

/-- PACKETS_ISSUE: a stop that waits, matrix stepping, a packet of no word, one with an UNDEF word, one with a BRKPT, a breakpoint; the stop
points of a held fault: the same, a packet after a switch packet, and a full log. -/
theorem test_witness_packets :
    let at_ (s : State) (P : Except Nat (List PWord) → Bool) : Bool := match s.nextOf 0, s.fetch 0 (BitVec.ofNat 76 (placePa / 16)) with
      | some (.packet [0, 1, 2, 3]), .packet p => P (s.decodePacket 0 p)
      | _, _ => false
    let ok (b : Bool) (n : Nat) (r : Except Nat (List PWord)) : Bool := match r with
      | .ok ws => ws.length == n && ws.any (fun w => w.i matches .brkpt _) == b
      | .error _ => false
    let err (r : Except Nat (List PWord)) : Bool := match r with
      | .ok _ => false
      | .error _ => true
    at_ (gangWith fun x => { x with trapNext := some (14, 0) }) (ok false 0) = true ∧ at_ (gangWith fun x => { x with mstep := true }) (ok false 0) = true ∧
    at_ base (ok false 0) = true ∧ at_ (State.reset.withFetchWord 128 0x3F800000) err = true ∧
    at_ (State.reset.withFetchWord 128 (0x6E * 2 ^ 23 + 1 * 2 ^ 16 + 7)) (ok true 1) = true ∧ base.logStop 0 [0, 1, 2, 3] [] = false ∧
    (base.modTen 0 fun t => { t with bpa := [(7, BitVec.ofNat 64 placePa)], bpb := [(7, 9)] }).breakpoint 0 (BitVec.ofNat 76 (placePa / 16)) false =
      some (7, 0) ∧
    at_ (gangWith fun x => faulting { x with mstep := true }) (ok false 0) = true ∧
    at_ (gangWith fun x => faulting { x with stopNext := true }) (ok false 0) = true ∧ at_ (gangWith faulting) (ok false 0) = true ∧
    ((gangWith faulting).gang 0).ops.find? (fun o => o.fault.isSome) = some faultOp ∧
    (let s := (State.reset.withFetchWord 128 0x20040240).modGang 0 faulting
     at_ s (ok false 1) = true ∧ s.logStop 0 [0, 1, 2, 3] [{ slot := 0, i := .ld .b32 .none 4 (.v 1) 2, chain := false }] = true) := by decide

/-- RESULTS_BECOME_VISIBLE: one result that is due, of each kind, at the last register. -/
theorem test_witness_results : ∀ w ∈ [Write.s 15 5, .a 15 5, .k 7 5, .mode 4, .flags 0x7F, .k7 0xFF, .exec [(3, 5)], .v 95 [(0, 1), (63, 2)]],
    ∀ sp : Bool,
    let e : Wb := { due := 0, seq := 1, writes := [w], flags := 1 }
    let s : State := { (gangWith fun x => { x with wb := [e], spilled := sp }) with phase := 0 }
    let x := s.gang 0
    s.phase = 0 ∧ (x.wb.map (·.seq)).Nodup ∧ x.wb.filter (fun y => y.dueIn s.now 0) = [e] ∧ e.writes = [w] ∧ x.spilled = sp := by decide
theorem test_witness_result_clauses : (4 : Word).toNat % 8 < 5 ∧ ([(0, (1 : Word)), (63, 2)].map (·.1)).Nodup ∧
    ∀ p ∈ [(0, (1 : Word)), (63, 2)], p.1 < 64 := by decide

/-- Pairs; two results of one cycle, the first listed the younger or the older; an older one that is still in flight. -/
theorem test_witness_result_pairs :
    let e : Wb := { due := 0, seq := 1, writes := [.v 94 [(0, 1)], .v 95 [(63, 2)]], flags := 0 }
    let x := (gangWith fun x => { x with wb := [e] }).gang 0
    (x.wb.map (·.seq)).Nodup ∧ x.wb.filter (fun y => y.dueIn 0 0) = [e] ∧ x.spilled = false := by decide
theorem test_witness_two_results : ∀ p ∈ [(Write.s 15 5, Write.s 15 6), (.a 15 5, .a 15 6), (.k 7 5, .k 7 6), (.v 95 [(0, 1)], .v 95 [(0, 2), (63, 2)])],
    ∀ k ∈ [1, 3],
    let e : Wb := { due := 0, seq := 2, writes := [p.1], flags := 1 }
    let f : Wb := { due := 0, seq := k, writes := [p.2], flags := 2 }
    let z : Wb := { due := 1, seq := k, writes := [p.2, .mode 4], flags := 2 }
    let x := (gangWith fun x => { x with wb := [e, f] }).gang 0
    let y := (gangWith fun x => { x with wb := [e, z] }).gang 0
    (x.wb.map (·.seq)).Nodup ∧ x.wb.filter (fun y => y.dueIn 0 0) = [e, f] ∧ (y.wb.map (·.seq)).Nodup ∧ y.wb.filter (fun y => y.dueIn 0 0) = [e] ∧
      z ∈ y.wb := by decide

/-- The end of a packet: a gang that a cancel has reached and whose packet parks, one whose slices all wait, and a YIELD. -/
theorem test_witness_packet_ends :
    let c : Cursor := { cur0 with group := [{ slot := 0, i := .nop, chain := false }], switch := true }
    let o : Op := { tag := 1, pc := 0, slot := 0, i := .nbwait 4 3, lanes := BitVec.allOnes 64, logged := true }
    let s := gangWith fun x => { x with cancelAt := some 0, ops := [o] }
    let w := gangWith fun x => { x with slices := x.slices.map fun k => { k with wait := true } }
    c.words = [] ∧ c.group ≠ [] ∧ c.groups = [] ∧ (s.gangOf c).faulted = false ∧ (s.gangOf c).cancelAt ≠ none ∧
    (∃ o ∈ (s.gangOf c).ops, isWait o.i = true) ∧ (w.gangOf c).cancelAt = none ∧ c.fin = false ∧
    (∀ q ∈ (w.gangOf c).slices, q.live = true ∧ (({ c with act := .yield } : Cursor).act.apply 0 0 0 q).wait = true) := by decide

/-- A memory word whose lanes are ready in a line that its core holds: a load, a store, an atomic. -/
theorem test_witness_line_access : ∀ i ∈ [Instr.ld .b32 .none 4 (.v 1) 2, .st .b32 .none (.v 1) (.v 2) 2, .atom .cas32 .gang 4 (.v 1) 2],
    let o : Op := { tag := 1, pc := 0, slot := 0, i := i, lanes := 1, logged := true, acc := [{ lane := 0, addr := 124, pa := 124, st := .ready }] }
    let l : L1Line := { st := 4, table := 1, data := List.replicate 128 7 }
    let s : State := ({ base with tables := shippedTables, homes := [(0, { ranges := [(0, (0, 0x23))] })] } : State).modCore 0 (fun c => { c with l1 := [(0, l)] })
      |>.modGang 0 fun x => { x with ops := [o] }
    let x := s.gang 0
    let e := s.entry (s.l1 x.core 0).table (s.l1 x.core 0).st (if memKind i = .load then mLD else mST)
    x.arrival s.now = none ∧ x.here = true ∧ x.ops = [o] ∧ o.due ≤ s.now ∧ isMemWord i = true ∧ memKind i ≠ .pref ∧
      (∀ a ∈ o.acc, a.st = .ready ∧ a.pa / 128 = 0 ∧ isHost a.pa = false) ∧ (s.range 0).chk = false ∧ (s.range 0).slot = (s.l1 x.core 0).table ∧
      s.kind 1 = .owned ∧ s.l1 x.core 0 ≠ {} ∧ Sparse.get {} (s.core x.core).buf 0 = {} ∧
      (entErr e = false ∧ entAct e 10 = false ∧ entAct e 3 = true ∧ entAct e 4 = false ∧ entAct e 5 = false ∧ entRv e = false ∧ entNext e ≠ 0) ∧
      (s.l1 x.core 0).bad = false ∧ (s.l1 x.core 0).poison = 0 ∧ (s.l1 x.core 0).overlay = [] ∧ (s.l1 x.core 0).bypass = false ∧
      s.life.parity = [] ∧ hintOf i ≠ .strm ∧ (i matches .ldAcq ..) = false ∧ x.vaultOut o.y.toNat = false ∧ flushes i = false := by decide

/-- ARRIVALS_PARKS_FAULTS_AND_RESUMES. -/
def loadOp : Op := { tag := 1, pc := 0, slot := 0, i := .ld .b32 .none 4 (.v 1) 2, lanes := 0xFFFF, logged := true
                     acc := [{ lane := 0, addr := 0x2000, st := .ready }] }
theorem test_witness_arrivals :
    ((gangWith fun x => { x with arr := [(0, 1, [.s 15 7])] }).gang 0).arrival 0 = some (0, 1, [.s 15 7]) ∧
    ((gangWith fun x => { x with arr := [(0, 1, [.v 95 [(0, 7), (63, 8)]])] }).gang 0).arrival 0 = some (0, 1, [.v 95 [(0, 7), (63, 8)]]) ∧
    (let x := (gangWith fun x => { x with ops := [loadOp] }).gang 0
     x.arrival 0 = none ∧ x.mover 0 = some loadOp) ∧
    (let x := (gangWith fun x => { x with parked := true }).gang 0
     x.parked = true ∧ x.pend = [] ∧ x.cancelAt = none) ∧
    (let x := (gangWith fun x => { x with parked := true, cancelAt := some 0, lastIssue := 1 }).gang 0
     x.parked = true ∧ x.pend = [] ∧ x.cancelAt = some 0 ∧ 0 < x.lastIssue) ∧
    (let s := gangWith fun x => { x with ops := [loadOp] }
     s.op? 0 1 = some loadOp ∧ loadOp.logged = true ∧ (1 : DWord) &&& loadOp.lanes ≠ 0 ∧ s.life.eccOff = false ∧ loadOp.fault = none ∧
       vaultAddr loadOp.i = none ∧ (∃ q ∈ (s.gang 0).slices, q.live = true) ∧
       ({ s with life := { s.life with eccOff := true } } : State).op? 0 1 = some loadOp) ∧
    (let s := gangWith fun x => { x with ops := [faultOp] }
     s.op? 0 1 = some faultOp ∧ faultOp.fault = some .mmx ∧ faultOp.logged = true ∧ (1 : DWord) &&& faultOp.lanes ≠ 0) ∧
    (let x := (gangWith fun x => { x with stop := some .software }).gang 0
     x.stop = some .software ∧ x.aside = false ∧ x.here = true) ∧
    (let s : State := { gangWith (fun x => { x with notBefore := 1 }) with now := 1 }
     0 < (s.gang 0).notBefore ∧ (s.gang 0).notBefore ≤ s.now) ∧
    (let s : State := { gangWith (fun x => { x with cancelAt := some 0 }) with now := 65536 }
     (s.gang 0).here = true ∧ (s.gang 0).resume = none ∧ (s.gang 0).cancelAt = some 0 ∧ 0 + 65536 ≤ s.now ∧ (s.gang 0).parked = false) ∧
    (let s := gangWith fun x => { x with parked := true, cancelAt := some 0, lastIssue := 5, ops := [{ tag := 1, pc := 0, slot := 0, i := .rdsr 0 2, lanes := 1 }] }
     (s.gang 0).parked = true ∧ ¬ (s.gang 0).lastIssue ≤ 0 ∧ (s.gang 0).longPark = true) := by decide

/-- WAITS_TAKES_AND_REQUESTS: barriers, groups, ISLRECV, takes, overflow operations, towpath requests. -/
theorem test_witness_waits :
    let waits (s : State) (o : Op) : Prop := s.op? 0 1 = some o ∧ (s.gang 0).here = true ∧ (s.gang 0).behindFault o = false
    let op (i : Instr) : Op := { tag := 1, pc := 0, slot := 0, i := i, lanes := BitVec.allOnes 64, logged := true }
    let nb := (gangWith fun x => { x with ops := [op (.nbwait 4 3)] }).modCrew 0 fun c => { c with nb := [(3, { gen := 1 })] }
    let tg := (gangWith fun x => { x with ops := [op (.tgwait 4 (.s 1))] })
    let tg1 : State := { tg with tides := [(0, { tenant := some 0, gen := 1 })] }
    let isl := gangWith fun x => { x with ops := [op (.islrecv 4 1 (.s 1))] }
    waits nb (op (.nbwait 4 3)) ∧ ((nb.crew 0).nbar 3).gen ≠ (op (.nbwait 4 3)).x.extractLsb' 0 16 ∧ nb.nbOpen 0 3 0 = false ∧
    tg1.tideOpen 0 0 = false ∧
    waits tg (op (.tgwait 4 (.s 1))) ∧ (tg.tide 0).tenant ≠ some (tg.gang 0).tenant ∧ waits tg1 (op (.tgwait 4 (.s 1))) ∧
    (tg1.tide 0).tenant = some (tg1.gang 0).tenant ∧ (tg1.tide 0).gen.toNat ≠ bits (op (.tgwait 4 (.s 1))).x 0 16 ∧
    isl.op? 0 1 = some (op (.islrecv 4 1 (.s 1))) ∧ (op (.islrecv 4 1 (.s 1))).y.toNat ≤ (op (.islrecv 4 1 (.s 1))).acks := by decide
theorem test_witness_takes : ∀ i ∈ [Instr.qpop 8 2, .qpeek 8 2],
    let o : Op := { tag := 1, pc := 0, slot := 0, i := i, lanes := 1, logged := true }
    let w : QWait := { tag := 1, slice := 0, lanes := 1, peek := match i with | .qpeek .. => true | _ => false }
    let s := gangWith fun x => { x with ops := [o] }.setQ 2 { recs := [{ bits := 5 }], waits := [w] }
    s.op? 0 1 = some o ∧ (s.gang 0).here = true ∧ (s.gang 0).behindFault o = false ∧ ((s.gang 0).qst 2).aside = false ∧
      ((s.gang 0).qst 2).waits = [w] ∧ ((s.gang 0).qst 2).recs.drop w.nth = [{ bits := 5 }] ∧ w.nth = 0 := by decide
theorem test_witness_queued_operations :
    (let s := base.modTower 1 fun t => { t with evq := [(0, 5, .gang 0 1, 0, [])] }
     (s.tower 1).evq = [(0, 5, .gang 0 1, 0, [])]) ∧
    (let o : Op := { tag := 1, pc := 0, slot := 0, i := .stv .b32 (.v 1) (.cst .zero) 2, lanes := 1, logged := true
                     acc := [{ lane := 0, addr := 512, data := 7, st := .sent }] }
     let m : Msg := { code := mTOW, src := .core 0, dst := .core 0, line := 0, due := 0, op := some o.i, gangs := [0], tag := 1
                      acc := [{ lane := 0, addr := 512, data := 7 }] }
     let s : State := { gangWith (fun x => { x with ops := [o] }) with net := [m] }
     s.net[0]? = some m ∧ m.due ≤ s.now ∧ s.op? 0 1 = some o ∧ s.busy m.line (512, accessSize o.i) = false ∧
       (s.gang 0).behindFault o = false ∧ (s.gang 0).towHeld o { lane := 0, addr := 512, data := 7 } = false ∧ (0, 0) ∉ s.life.parity ∧
       (s.core (s.crew m.line).core).badVault = []) := by decide

/-- COPIES_MOVE_AND_COMPLETE. -/
def copyOf (cp : Copy) : State := issuing id |>.modCrew 0 fun c => { c with copies := [cp] }
def copyPart : Part := { gang := 0, first := 0, count := 4, disp := 0, rm := 0, ftz := false, after := [], wants := true
                         follow := some { i := .mma 2 0 1, x := 0, a := shapeA, b := shapeB } }
def copyRun : Copy := { id := 1, crew := 0, kind := .dense, h := 4, sh := shapeV, nb := 3, tomem := false, parts := [copyPart], started := true }
theorem test_witness_copies :
    let key := copyKey 0 1
    let runs (cp : Copy) : Prop := (copyOf cp).copy? key = some cp ∧ cp.crew = key % 2 ^ 40 ∧ ((copyOf cp).crew cp.crew).here = true ∧
      ((copyOf cp).crew cp.crew).saving = 0
    runs { copyRun with next := 4 } ∧ shapeV.outer ≤ 4 ∧ (copyOf { copyRun with next := 4 }).engOut (.copy 0 1) = false ∧ runs { copyRun with moved := true } ∧
    copyRun.parts.find? (·.wants) = some copyPart ∧ ((copyOf copyRun).core 0).minsts.length < 8 ∧ copyRun.partOf 1 = some (copyPart, 0) ∧
    (let cp : Copy := { copyRun with kind := .stream, recs := [5] }
     let s := (copyOf cp).modGang 0 fun x => x.setQ 1 { b := { kind := 4 } }
     s.copy? key = some cp ∧ s.streamQ 0 cp.sh.vsel = some (0, 1) ∧ ((s.gang 0).qst 1).outRoom ≠ 0) := by decide
/-- A copy whose memory lies in the placed page, in the L2 TLB of its tower. -/
def copyAt (cp : Copy) : State := (copyOf cp).modTower 0 fun t => { t with l2tlb := (base.core 0).tlb }
def inPage (cp : Copy) (sh : Shape) : Copy := { cp with sh := { sh with w0 := BitVec.ofNat 64 placePa } }
/-- The first and a later vector to move: their bytes are asked for, and move when they have come. -/
theorem test_witness_copy_vector : ∀ next ∈ [0, 1], ∀ asked : Bool,
    let cp : Copy := { inPage copyRun shapeV with next := next, asked := asked }
    let s := copyAt cp
    let r := if next = 0 then s.copyReady cp else (true, s)
    r.1 = true ∧ (match ({ r.2 with extra := 0 } : State).moveVector cp copyPart next with
     | (.done false f, s1) => f == 0 && (s1.copy? (copyKey 0 1)).isSome && s1.extra != 0
     | _ => false) = true := by decide
/-- The values of a vector: whole-byte elements into a vector and into bit planes, from a window to memory, and a row of a CSR record with none and
with three values. -/
theorem test_witness_copy_values :
    (∀ p ∈ [(CopyKind.dense, shapeV), (.plane, shapeA)],
      let cp : Copy := { inPage copyRun p.2 with kind := p.1 }
      let s := copyAt cp
      8 ≤ fmtBits cp.sh.mfmt ∧ 8 ≤ fmtBits cp.sh.vfmt ∧ 0 < cp.sh.outer ∧
      (match s.engRead (s.copyCtx cp) (cp.addr copyPart 0) (vecLen cp.sh.mfmt cp.sh.inner) with
       | (.ok (l, _), s') => l.all (·.isSome) && l.length == vecLen cp.sh.mfmt cp.sh.inner && s'.window 0 cp.sh.vsel == some 0
       | _ => false) = true) ∧
    (let cp : Copy := { inPage copyRun shapeV with tomem := true }
     let s := copyAt cp
     s.window 0 cp.sh.vsel = some 0 ∧ (s.core (s.crew 0).core).badVault = [] ∧
     (match s.engWrite (s.copyCtx cp) (cp.addr copyPart 0) (List.replicate (cp.sh.inner * 4) (some 0)) with
      | (.ok e, _) => !e
      | _ => false) = true) ∧
    ∀ n ∈ [0, 3],
      let cp : Copy := { inPage copyRun shapeCsr with kind := .csr, h := 5 }
      let s := (copyAt cp).setBytes placePa [0, 0, 0, 0, n, 0, 0, 0]
      let rd (s : State) (off len : Nat) : Bool × State := match s.engRead (s.copyCtx cp) (cp.addr copyPart off) len with
        | (.ok (l, _), s') => (l.all (·.isSome) && l.length == len, s')
        | (_, s') => (false, s')
      let a := rd s 0 4
      let b := rd a.2 0 8
      let s3 := b.2.copyToVault cp cp.sh.vbase ([0, 0, 0, 0, n, 0, 0, 0].map some)
      let c := rd s3 (cp.sh.vstride * 16) (4 * n.toNat)
      let d := rd c.2 (cp.sh.rowstride * 16) (n.toNat * 4)
      a.1 = true ∧ b.1 = true ∧ c.1 = true ∧ d.1 = true ∧ n.toNat ≤ cp.sh.inner ∧ d.2.window 0 cp.sh.vsel = some 0 := by decide

/-! ### The matrix engine -/

/-- An MMA of the records A and B at the head of core 0's engine. -/
def mma0 : MInst := { id := 1, i := .mma 2 0 1, tok := 2, gangs := [0], crew := 0, a := shapeA, b := shapeB, m := 4, fmt := 11, depth := 3 }
def engineOf (f : Core → Core) : State := base.modCore 0 fun c => f { c with minsts := [mma0], nextInst := 2 }

/-- 11 R308, R309: one layer that has not failed stays active whatever its limit says, and rows 0 to 3 run. -/
theorem test_witness_pass_start : (∀ lims, (stepLayers 0 0 lims [.active, .failed, .failed]).1 = [.active, .failed, .failed]) ∧
    let s : State := { engineOf fun c => { c with layers := [.active, .failed, .failed] } with fresh := 3 }
    (s.nextTurn (s.core 0)) = some (mma0, .main 0 [0, 1, 2, 3] []) := by
  refine ⟨fun lims => ?_, by decide⟩
  by_cases h : (lims 0).temp < Config.layerTemp 0 ∨ (lims 0).current < Config.layerCurrent 0 <;> simp [stepLayers, stepLayer, h, List.zipIdx]
theorem test_witness_pass_end :
    let p : Pass := { inst := 1, first := 0, n := 2, act := [0, 1, 2], rows := [0], replay := false, due := 0 }
    let s := engineOf fun c => { c with pass := some p }
    (s.core 0).pass = some p ∧ p.due ≤ s.now ∧ (s.core 0).minst? p.inst = some mma0 := by decide
theorem test_witness_layer_fail :
    let s := base.modCore 95 fun c => { c with layers := [.active, .active, .skip 0] }
    (s.core 95).layers[2]? = some (.skip 0) ∧ 4 * 95 + 2 ∉ s.life.layers ∧ s.frozen 95 = false ∧
    (let t := s.modTower 1 fun t => { t with groups := [(5, { reserved := [3] })], slots := [(3, { st := .posted, b0 := pack [(10, 47)] })] }
     t.frozen 95 = true) := by decide
theorem test_witness_matrix_complete :
    let m : MInst := { mma0 with ends := some 0 }
    let s := base.modCore 0 fun c => { c with minsts := [m] }
    (s.core 0).minst? 1 = some m ∧ m.gangs.Nodup := by decide
theorem test_witness_macq_complete :
    let o : Op := { tag := 1, pc := 0, slot := 0, i := .macq 3, lanes := BitVec.allOnes 64, logged := true }
    let s := (gangWith fun x => { x with ops := [o] }).modCore 0 fun c => { c with toks := c.toks.set 3 (.transfer 0 1) }
    (s.gang 0).core = 0 ∧ (s.core 0).toks[3]? = some (.transfer 0 1) ∧ s.setBusy 0 3 = false ∧ s.op? 0 1 = some o ∧ (s.gang 0).here = true ∧
      (s.gang 0).behindFault o = false := by decide
theorem test_witness_staging :
    let m : MInst := { mma0 with i := .mmaQ 2 5 1 (.s 1), m := 1 }
    let o : Op := { tag := 1, pc := 0, slot := 0, i := .mmaQ 2 5 1 (.s 1), lanes := 0, x := 1, y := 4 }
    let q : QState := { b := { kind := 1 }, recs := [{ bits := 5 }], waits := [{ tag := 1, slice := 0, lanes := 0, peek := false }] }
    let s := (gangWith fun x => { x with ops := [o] }.setQ 5 q).modCore 0 fun c => { c with minsts := [m] }
    (s.core 0).minst? 1 = some m ∧ s.canStage m = true ∧ s.qTake m = some (o, 5) ∧ ((s.gang m.gang).qst 5).recs = [{ bits := 5 }] := by decide
/-- A fill of a block from an adapter that is at hand, in the placed page: its bytes are zeros. -/
theorem test_witness_adapter_fill :
    let m : MInst := { mma0 with i := .mmaAd 2 0 1 9, adcfg := pack [(32, 1)], adids := [5] }
    let b : AdEntry := { frame := some 0, adid := 5, tidx := 0, kb := none, rank := 1, ncol := 8, akb := 2, af := placePa, asc := placePa }
    let f : AdFill := { adid := 5, tidx := 0, kb := some 0, inst := 1, crew := 0, lands := some 0 }
    let s := (base.modCore 0 fun c => { c with minsts := [m], adcache := [b], fills := [f] }).modTower 0 fun t => { t with l2tlb := (base.core 0).tlb }
    ((s.core 0).fills.filter fun f => !f.waits && !f.room)[0]? = some f ∧ (s.core 0).minst? f.inst = some m ∧ (s.core 0).entry? m f.adid f.kb = none ∧
    (match ({ s with extra := 0 } : State).fillRead { core := 0, tenant := (s.crew m.crew).tenant, who := .fill 0, refused := f.refused } m f
        ((s.core 0).entry? m f.adid none) with
     | (.ok (some e), s1) => e.usable && decide (f.lands.getD (s.now + s1.extra) ≤ s.now) &&
         ((s1.core 0).frameFor m).isSome
     | _ => false) = true := by decide
/-- TOKENS_AND_MATRIX_WORDS: no active lane; parts of the packet that ask for a follow-on. -/
theorem test_witness_matrix_clauses :
    (issuing fun x => { x with slices := x.slices.map fun k => { k with mask := 0 } }).lanes cur0 = [] ∧ idle.lanes cur0 ≠ [] ∧
    (let cp : Copy := { copyRun with parts := [{ copyPart with follow := none }] }
     (copyOf cp).copy? (copyKey 0 1) = some cp ∧ 0 < cp.parts.length) ∧ ((idle.core 0).tok 0).isEngine = true ∧ ((idle.core 0).tok 3).isEngine = false := by
  decide

/-- MATRIX_LAYOUTS: an INT1 row-block, an FP32 vector. -/
theorem test_witness_layouts : fmtBits 16 = 1 ∧ fmtBits 8 = 32 ∧ (∀ x ∈ [0, 1], x < 2 ^ fmtBits 16) ∧ (∀ x ∈ [0, 2 ^ 32 - 1], x < 2 ^ fmtBits 8) := by decide

/-! ### Homes and agents -/

/-- A device whose first 2 MiB lie in a MOESI-INV range that the host may cache. -/
def owned : State := { base with tables := shippedTables, homes := [(0, { ranges := [(0, (0, 0x23))] })] }
/-- An engine's access to a line of MOESI-INV that no core holds. -/
theorem test_witness_engine_line :
    let s := owned
    isHost 127 = false ∧ s.kind (s.range 0).slot = .owned ∧ (s.range 0).chk = false ∧ (s.hline 0).st = 8 ∧ (s.hline 0).rcl = 0 ∧
      (s.hline 0).owner = none ∧ (s.hline 0).frozen = false ∧ s.life.paths = [] ∧ 127 % 128 + 1 ≤ 128 ∧ (127 + 0) / 64 ∉ s.life.badMem := by decide
/-- Line 0 of it at its home, with one message. -/
def homeOfLine (l : HLine) (m : Msg) : State := { owned.setHline 0 l with net := [m] }
/-- A message of core 1 about line 0. -/
def request (code : Nat) : Msg := { code := code, src := .core 1, dst := .home 0, line := 0, due := 0 }

def ready (code st : Nat) (s : State) (m : Msg) : Bool :=
  s.net == [m] && decide (m.due ≤ s.now) && m.dst == .home (lineHome m.line) && s.classify m == code && (s.range m.line).slot == 1 &&
    s.kind 1 == .owned && Sparse.get [] s.tables 1 == tableOf (moesiAgent ++ moesiHome) && (s.hline m.line).st == st && m.acc == [] &&
    m.op == none && m.write == false
def asks (code st : Nat) (s : State) (m : Msg) : Bool :=
  ready code st s m && s.readyFor m.line == [(m, 0)] && (s.home (lineHome m.line)).stalled.all (fun q => q.line != m.line) && !s.homeBusy m && decide ((s.hline m.line).freeAt ≤ s.now) &&
    decide (((s.home (lineHome m.line)).dir.filter fun k => dirSet k == dirSet m.line).length < 16)

theorem test_witness_home_requests : ([(mGETS, 8, {}), (mGETS, 9, { st := 9, sharers := [.core 2] }), (mGETS, 10, { st := 10, owner := some (.core 2) }),
    (mGETX, 9, { st := 9, sharers := [.core 1, .core 2] }), (mUPGO, 10, { st := 10, owner := some (.core 1) }),
    (mUPGS, 9, { st := 9, sharers := [.core 1] }), (mUPGN, 8, {}), (mWBMO, 10, { st := 10, owner := some (.core 1) }),
    (mWBMX, 10, { st := 10, owner := some (.core 2) }), (mWBC, 9, { st := 9, sharers := [.core 1] })] : List (Nat × Nat × HLine)).all
      (fun p => asks p.1 p.2.1 (homeOfLine p.2.2 (request p.1)) (request p.1)) = true := by decide
theorem test_witness_home_answers : ([(mINVACK, 12, { st := 12, acks := 2 }),
    (mINVACKL, 12, { st := 12, acks := 1, deferred := some (ent [0, 4] (some mDATAE) 10, request mGETX) }),
    (mFWDACK, 13, { st := 13, owner := some (.core 1), fwd := some (.core 2) }), (mFWDACKX, 14, { st := 14, fwd := some (.core 2) })] :
      List (Nat × Nat × HLine)).all (fun p => ready p.1 p.2.1 (homeOfLine p.2.2 (request p.1)) (request p.1)) = true := by decide
theorem test_witness_recall_answers : ∀ code ∈ [mRCLDATA, mRCLACK],
    let s := homeOfLine { st := 10, owner := some (.core 1), rcl := 1 } (request code)
    AtHome s 0 (request code) code (s.range 0).slot ∧ (s.hline 0).rcl = 1 := by
  unfold AtHome
  decide
theorem test_witness_home_besides :
    (let m := request mGETS
     let s := owned.modHome 0 fun h => { h with stalled := [m] }
     (s.home 0).stalled.find? (fun q => q.line == 0 && !s.mustWait q && !s.mgmtBehind q) = some m ∧ (s.hline 0).freeAt ≤ s.now ∧
     (let t := s.setHline 0 { freeAt := 5 }
      t.now < (t.hline 0).freeAt ∧ (t.home 0).stalled.find? (fun q => q.line == 0 && !t.mustWait q && !t.mgmtBehind q) = some m)) ∧
    (let m : Msg := { request mNC with src := .bridge 0, write := true, mask := 1, data := [7] }
     ready mNC 8 (homeOfLine {} { m with write := false }) { m with write := false } = true ∧ (homeOfLine {} m).classify m = mNC ∧
       (let s := homeOfLine {} m
        m.put = false ∧ m.cause = none ∧ s.updOut 0 = false ∧
        (s.hline 0).rcl = 0 ∧ (s.hline 0).frozen = false ∧ s.lineChanging 0 = false ∧ s.readyFor 0 = [(m, 0)] ∧ (s.home 0).stalled = [] ∧
          (s.hline 0).freeAt ≤ s.now)) ∧
    (let s : State := { base with now := 2100000 }
     s.life.booted = true ∧ (s.home 15).asleep = false ∧ (s.home 15).lastReq + 2100000 ≤ s.now) := by decide
theorem test_witness_lease_home : ∀ code ∈ [mWRT, mRENEW],
    let m := request code
    let s : State := { base with tables := shippedTables, net := [m] }
    s.net[0]? = some m ∧ m.dst = .home (lineHome 0) ∧ s.classify m = code ∧ (s.range 0).slot = 0 ∧ Sparse.get [] s.tables 0 = tableOf leaseRows ∧
      s.readyFor 0 = [(m, 0)] ∧ (s.home 0).stalled = [] ∧ (s.hline 0).freeAt ≤ s.now ∧ s.homeBusy m = false ∧ (s.home 0).inRebase = false ∧ s.needRebase m = false := by decide
theorem test_witness_rebase_answer :
    let m : Msg := { request mREBANS with src := .core 95, dst := .home 15, line := 15 }
    let s : State := { base.modHome 15 fun h => { h with rebasing := [95], inRebase := true } with net := [m] }
    s.net[0]? = some m ∧ m.due ≤ s.now ∧ (s.home 15).rebasing = [95] := by decide

/-- Line 0 in the L1 of core 1 in state `st` of a table, with one message from its home. -/
def agentOf (slot : Nat) (l : L1Line) (m : Msg) : State :=
  let s : State := if slot = 1 then owned else { base with tables := shippedTables }
  { s.modCore 1 fun c => { c with l1 := [(0, l)] } with net := [m] }
def atAgent (slot code st : Nat) : Bool :=
  let l : L1Line := { st := st, table := slot, data := List.replicate 128 7 }
  let m : Msg := { code := code, src := .home 0, dst := .core 1, line := 0, due := 0, onb := some (.core 2) }
  let s := agentOf slot l m
  s.net == [m] && decide (m.due ≤ s.now) && m.src == .home (lineHome 0) && Sparse.get {} (s.core 1).l1 0 == l && Sparse.get {} (s.core 1).buf 0 == {} &&
    (slot != 1 || (s.kind 1 == .owned && Sparse.get [] s.tables 1 == tableOf (moesiAgent ++ moesiHome))) &&
    (slot != 2 || Sparse.get [] s.tables 2 == tableOf updRows) && (slot != 0 || Sparse.get [] s.tables 0 == tableOf leaseRows)

theorem test_witness_agent_rows : ([(1, mDATAS, 5), (1, mDATAE, 5), (1, mDATAM, 5), (1, mUPGACK, 6), (1, mINV, 1), (1, mFWDS, 4), (1, mFWDX, 4),
    (1, mRECALL, 4), (1, mNAK, 6), (2, mUPDATE, 1), (0, mRENACK, 4)]).all (fun p => atAgent p.1 p.2.1 p.2.2) = true := by decide
theorem test_witness_agent_others :
    (let l : L1Line := { st := 7, table := 1, data := List.replicate 128 7 }
     let s := owned.modCore 1 fun c => { c with buf := [(0, l)] }
     Sparse.get {} (s.core 1).l1 0 = {} ∧ Sparse.get {} (s.core 1).buf 0 = l) ∧
    (let m : Msg := { code := mREBASE, src := .home 15, dst := .core 1, line := 15, due := 0, base := 2 ^ 23, epoch := 15 }
     let s : State := { base with net := [m] }
     s.net[0]? = some m ∧ m.due ≤ s.now ∧
     ∀ l ∈ [({ st := 4 } : L1Line), { st := 2, data := List.replicate 128 7, dirty := 1 }],
       let t := s.modCore 1 fun c => { c with l1 := [(60, l)] }
       lineHome 60 = m.line ∧ Sparse.get {} (t.core 1).buf 60 = {} ∧ l.table = 0 ∧ l.st ≠ 0 ∧ (t.core 1).l1 = [(60, l)] ∧ l.bad = false) ∧
    (let l : L1Line := { st := 2, data := List.replicate 128 7, dirty := 1, since := 0 }
     let s : State := { base.modCore 1 fun c => { c with l1 := [(0, l)] } with now := 512 }
     l.table = 0 ∧ l.overlay = [] ∧ l.bad = false ∧ l.dirty ≠ 0 ∧ l.since + 512 ≤ s.now ∧ Sparse.get {} (s.core 1).l1 0 = l ∧ Sparse.get {} (s.core 1).buf 0 = {}) := by decide

/-! ### The host and its windows -/

/-- The bridge's line 0 with its halves. -/
def bridgeWith (b : BLine) : State := owned.setBline 0 b
theorem test_witness_host_reads :
    let reach (s : State) (pa : Nat) : Prop := s.hostPa pa = some pa ∧ (s.bline (pa / 128)).todo = [] ∧ 2 ∉ s.life.paths
    let may (s : State) (pa : Nat) : Prop := reach s pa ∧ s.hostMay (pa / 128) = true ∧ (s.range (pa / 128)).slot = 1 ∧
      Sparse.get [] s.tables 1 = tableOf (moesiAgent ++ moesiHome)
    let room (s : State) : Prop := (s.bline 0).want = none ∧ (s.bline 0).snooped = none ∧ s.bridge.length < 65536
    may owned 64 ∧ room owned ∧ owned.bline 0 = {} ∧ owned.mustHold (.bridge 0) 0 = false ∧
    (let s := bridgeWith { st := 4, h1 := .m }
     may s 64 ∧ room s ∧ (s.bline 0).half (1 - 64 / 64 % 2) ≠ .m ∧ 1 ∉ s.life.badMem ∧ (s.bline 0).half 1 = .m ∧ (s.bline 0).half 0 = .i) ∧
    (reach owned (2 ^ 21) ∧ owned.hostMay (2 ^ 21 / 128) = false) ∧ owned.hostPa Config.memEcc = none ∧
    (let s := bridgeWith { st := 4, h0 := .m, h1 := .m }
     may s 64 ∧ (s.bline 0).want = none ∧ (s.bline 0).snooped = none ∧ (s.bline 0).half 1 = .m ∧ (s.bline 0).half 0 = .m) := by decide
theorem test_witness_host_addresses :
    (let s := bridgeWith { todo := [.memrd 5] }
     s.hostPa 64 = some 64 ∧ (s.bline 0).todo = [.memrd 5] ∧ Instr.memrd 5 ≠ .memrd 64) ∧
    (let s : State := { base with priv := { base.priv with cfg := { base.priv.cfg with hdmCtl := BitVec.ofNat 32 (2 ^ 10), hdmBase := 2 ^ 33 } } }
     s.life.booted = true ∧ s.hdmAt = 2 ^ 33 ∧ s.hostPa (2 ^ 33 + 64) = some 64 ∧ s.hostPa 64 = none) := by decide
theorem test_witness_host_others :
    (let s := bridgeWith { st := 1, h0 := .s, h1 := .s, snooped := some (request mINV) }
     s.hostPa 64 = some 64 ∧ s.hostMay 0 = true ∧ (s.bline 0).half 0 = .s ∧ (s.bline 0).half 1 = .s ∧ (s.bline 0).snooped = some (request mINV) ∧ (s.bline 0).st = 1) ∧
    isHost (Config.hostBase + 0) = true := by decide
theorem test_witness_peer_write :
    let w1 : DWord := pack [(63, 1), (53, 7), (20, 64)]
    let s : State := { base with tables := shippedTables, homes := [(0, { ranges := [(0, (0, 5))] })]
                                 priv := { base.priv with iw0 := [(31, 0)], iw1 := [(31, w1)] } }
    s.life.booted = true ∧ Sparse.get 0 s.priv.iw1 31 = w1 ∧ w1.getLsbD 63 = true ∧ s.life.peerQ = [] ∧ isHost 0 = false ∧
      s.kind (s.range 0).slot = .through ∧ s.lineChanging 0 = false ∧ (s.home 0).stalled = [] ∧ (s.hline 0).freeAt ≤ s.now ∧
      (s.hline 0).hold ≤ s.now ∧ s.readyFor 0 = [] ∧ s.updOut 0 = false ∧ 1 ∉ s.life.paths ∧ 63 + 1 ≤ iwSize w1 ∧ 63 + 1 ≤ iwTrig w1 ∧
    (let m : Msg := { code := mUPDATE, src := .home 0, dst := .core 1, line := 0, due := 9, cause := some 1 }
     ∃ q ∈ ({ s with net := [m] } : State).net, q.code = mUPDATE ∧ q.cause = some 1) ∧ s.net = [] ∧
    ∀ g ∈ [0, 1], let w : DWord := pack [(58, g), (59, g)]
      let t : State := { s with life := { s.life with signals := [(31, 7, w)] }, tides := [(0, { tenant := some 0 })] }
      t.life.signals = [(31, 7, w)] ∧ (g = 0 → w.getLsbD 59 = false) ∧
        (g = 1 → w.getLsbD 59 = true ∧ w.getLsbD 58 = true ∧ (t.tide (bits w 0 8)).tenant = some (iwTenant w)) := by decide

/-- 19 R444; 20 R468: entries of a ring, the last of its line and of the ring. -/
theorem test_witness_rings :
    (let s : State := { base with priv := { base.priv with errtail := 63, errhead := 0 } }
     s.life.booted = true ∧ (Sparse.get 0 s.priv.iw1 31).getLsbD 63 = false ∧ s.life.peerQ = [] ∧
     s.errNext - s.priv.errhead.toNat < 2 ^ ringLog s.priv.errsz ∧ s.now < 2 ^ 64 ∧
     s.isDevice (s.priv.errbase.toNat + 32 * (s.errNext % 2 ^ ringLog s.priv.errsz)) = true ∧ s.priv.errbase.toNat % 4096 = 0) ∧
    (let o : Op := { tag := 0, pc := 1, slot := 2, i := .dbgmark 3, lanes := 0, x := 5 }
     let s := (base.modGang 0 fun x => { x with ops := [o] }).modTen 0 fun t => { t with trtail := 63 }
     (s.gang 0).here = true ∧ (s.gang 0).arr = [] ∧ (s.gang 0).ops = [o] ∧ o.due ≤ s.now ∧ (s.gang 0).faulted = false ∧
     (s.gang 0).vaultOut o.y.toNat = false ∧ o.fence = none ∧ s.flushCore (s.gang 0).core = s ∧
     s.coreOut (s.gang 0).core (s.core (s.gang 0).core).wseq = false ∧ (s.gang 0).gid < 16 ∧
     (s.gang 0).quarter < 4 ∧ (s.gang 0).core < 96 ∧
     s.isDevice (bits (s.ten (s.gang 0).tenant).trbase 12 40 * 4096 + 32 * (s.traceNext (s.gang 0).tenant %
       2 ^ ringLog (s.ten (s.gang 0).tenant).trsize)) = true) := by decide

/-- 19 R443 to R450: the windows. -/
def queueWith (x : Queue) : State := base.modTen 0 fun t => { t with queues := [(15, x)] }
theorem test_witness_windows :
    let d (s : State) (v : Nat) : Nat := (v + 2 ^ 32 - (s.queue 0 15).tail.toNat) % 2 ^ 32
    base.life.booted = true ∧
    ((queueWith { tail := 7 }).queue 0 15).sw = 0 ∧ d (queueWith { tail := 7 }) 8 = 1 ∧ d (queueWith { tail := 7 }) (7 + 2 ^ 31 - 1) < 2 ^ 31 ∧
    d (queueWith { tail := 7 }) 7 = 0 ∧ 2 ^ 31 ≤ d (queueWith { tail := 7 }) 6 ∧ ((queueWith { sw := 2 }).queue 0 15).sw ≠ 0 ∧
    ((queueWith { sw := 2 }).queue 0 15).latched = none ∧ ((queueWith {}).queue 0 15).qd1.getLsbD 29 = false ∧
    ((queueWith { qd1 := 2 ^ 29 }).queue 0 15).qd1.getLsbD 29 = true := by decide
theorem test_witness_cancels :
    (let s := base.modTen 0 fun t => { t with queues := [(0, { prog := 1 })] }
     (s.ten 0).live = true ∧ bits 0 62 2 = 0 ∧ ((s.queue 0 0).prog.toNat + 2 ^ 32 - 0) % 2 ^ 32 = 1 ∧
     (s.lents.find? (fun p => p.2.used && !p.2.finished && p.2.tenant == 0 && p.2.queue == 0 && p.2.n == 0)).isSome = true) ∧
    (let s := base.modTen 0 fun t => { t with cancels := (List.range 15).map fun k => BitVec.ofNat 64 (k + 1) }
     (s.ten 0).live = true ∧ (0 : DWord) ∉ (s.ten 0).cancels ∧ (s.ten 0).cancels.length < 16 ∧ ((s.queue 0 0).prog.toNat + 2 ^ 32 - 0) % 2 ^ 32 = 0) := by
  decide
theorem test_witness_tenant_registers :
    base.tenBusy 7 = false ∧ (pack [(47, 1)]).getLsbD 47 = true ∧ (base.ten 7).tlbBusy = false ∧ (base.ten 7).dbgctl.getLsbD 1 = false ∧
    (let s := base.modTen 0 fun t => { t with tlbBusy := true, tlbFlush := true }
     (s.ten 0).tlbBusy = true ∧ (s.ten 0).tlbOps.any s.opOpen = false ∧ (s.ten 0).tlbFlush = true ∧
     ∀ p ∈ s.gangs, p.2.tenant = 0 → p.2.here = true → s.wrtOut p.1 = false) ∧
    (let s := (base.modTen 0 fun t => { t with tlbBusy := true, tlbOps := [(0, 1)] }).modGang 0 fun x => { x with ops := [loadOp] }
     (s.ten 0).tlbBusy = true ∧ (s.ten 0).tlbOps.any s.opOpen = true) ∧
    (let s := (base.modTen 0 fun t => { t with tlbBusy := true }).modTower 1 fun t => { t with walks := [{ tenant := 0, vpage := 0, who := [], inv := true }] }
     (s.ten 0).tlbBusy = true ∧ ∃ p ∈ s.towers, ∃ w ∈ p.2.walks, w.inv = true ∧ w.tenant = 0) ∧ (∀ p ∈ base.towers, p.2.walks = []) ∧
    (∀ on : Bool, let s : State := { base with priv := { base.priv with msixPend := BitVec.ofNat 256 (2 ^ 255), cfg := { base.priv.cfg with msixOn := on } } }
     s.priv.msixPend.getLsbD 255 = true ∧ s.priv.cfg.msixOn = on ∧ s.priv.cfg.msixMask = false) := by decide

/-! ### The scheduler -/

/-- A launch of two crews of one gang, with 16 V registers and a window of 16 KiB. -/
def work : Launch := { used := true, started := true, words := [0, 0, 0, 0, 0, pack [(56, 1), (36, 2)], pack [(16, 2), (32, 1), (48, 1)], 0] }
theorem test_witness_intake :
    let x (tail : Word) : Queue := { qd1 := pack [(29, 1), (36, 4)], tail := tail }
    (queueWith (x 1)).canIntake 0 15 = true ∧ ((queueWith (x 16)).queue 0 15).ahead ≤ 2 ^ ((queueWith (x 16)).queue 0 15).lsize ∧
    (queueWith (x 1)).freeLent = some 1 ∧ (queueWith (x 17)).canIntake 0 15 = true ∧
    2 ^ ((queueWith (x 17)).queue 0 15).lsize < ((queueWith (x 17)).queue 0 15).ahead := by decide
theorem test_witness_launch_start :
    let la : Launch := { work with started := false }
    let s := base.setLaunch 1 la
    s.canStart (s.launch 1) = true ∧ (s.launch 1).flag 10 = false ∧ (s.launch 1).total ≠ 0 ∧
      s.tenRead (s.launch 1).tenant (s.launch 1).patchVa (4 * (s.launch 1).npatch) = some [] ∧
    (let s := base.setLaunch 1 { la with words := la.words.set 7 (pack [(10, 1)]) }
     s.canStart (s.launch 1) = true ∧ (s.launch 1).flag 10 = true ∧ (s.launch 1).gate = 0) ∧
    (let s : State := { base.setLaunch 1 work with now := 2100 * 4000 }
     (s.launch 1).bound < (s.launch 1).total ∧ (s.launch 1).since + 2100 * (s.ten (s.launch 1).tenant).starve ≤ s.now) := by decide
/-- Tables of tenant 0 at 0 and 8192, in which page 0 maps to page 1 with every permission; a walk of page 0 for a fetch. -/
def walk0 : Walk := { tenant := 0, vpage := 0, who := [(.fetch 0, 4, 0)], due := some 0 }
def mapped : State := ((base.setBytes 0 (leBytes 8 0x2001)).setBytes 8192 (leBytes 8 0x201D)).modTower 0 fun t => { t with walks := [walk0] }
/-- The lines of a record and of the patch words are ready, or not: a request waits at the home of line 0. -/
def awaited (s : State) : State := { s with homes := [(0, { stalled := [{ code := mGETS, src := .core 0, dst := .home 0, line := 0, due := 0 }] })] }
theorem test_witness_lines_ready :
    (let s := queueWith { qd1 := pack [(29, 1), (36, 4)], tail := 1 }
     (s.recordReady 0 15).1 = true ∧ ((awaited s).recordReady 0 15).1 = false ∧ (awaited s).canIntake 0 15 = true) ∧
    (let s := (mapped.setLaunch 1 { work with started := false, words := work.words.set 5 (pack [(56, 1), (36, 2), (47, 1)]) })
     let ready (s : State) : Bool := (s.tenReady (s.launch 1).tenant (s.launch 1).patchVa (4 * (s.launch 1).npatch)).1
     s.canStart (s.launch 1) = true ∧ (s.launch 1).npatch = 1 ∧ ready s = true ∧ ready (awaited s) = false) := by decide

/-- Tower 0 with a posted crew of `work`, launch 1, on core 1; in a cluster of one crew where `cgrp` is not 0. -/
def posted (mask : BitVec 48) (cgrp : Nat) : State :=
  let la : Launch := if cgrp = 0 then work else { work with words := work.words.set 5 (pack [(56, 1), (36, 2), (30, 1), (32, 1)]) }
  let s := (base.setLaunch 1 la).modTen 0 fun t => { t with mask0 := mask, queues := [(0, { qd1 := pack [(30, 2)] })] }
  let e : SlotE := { st := .posted, seq := 1, b0 := pack [(32, 0), (21, 1), (17, if cgrp = 0 then 0 else 1), (10, 1), (2, 15), (0, 1)]
                     b1 := pack [(32, cgrp)] }
  s.modTower 0 fun t => { t with slots := [(3, e)] }
theorem test_witness_bind_post :
    let s := base.setLaunch 1 work
    let b0 : DWord := pack [(32, 0), (21, 1)]
    (s.launch (s.lentOf b0)).used = true ∧ (s.launch (s.lentOf b0)).started = true ∧ (s.launch (s.lentOf b0)).finished = false ∧
      bits b0 32 32 = (s.launch (s.lentOf b0)).bound ∧ (s.launch (s.lentOf b0)).bound < (s.launch (s.lentOf b0)).total ∧
      (s.tower 1).slots = [] := by decide
theorem test_witness_bind_accept :
    let s := posted 2 0
    let e := Sparse.get ({} : SlotE) (s.tower 0).slots 3
    e.st = .posted ∧ (s.tower 0).acceptAt ≤ s.now ∧ bits e.b1 32 13 = 0 ∧ s.turnFor 0 e = true ∧ s.bindOk 0 e.b0 e.b1 = true ∧
      s.claimFree (s.claimOf 0 e.b0 e.b1) (s.launch (s.lentOf e.b0)).minl = true := by decide
theorem test_witness_bind_refuse :
    let s := posted 0 0
    let e := Sparse.get ({} : SlotE) (s.tower 0).slots 3
    e.st = .posted ∧ s.turnFor 0 e = true ∧ s.bindOk 0 e.b0 e.b1 = false := by decide
theorem test_witness_cluster :
    let s := posted 2 8191
    let ms := (s.tower 0).members 8191
    s.groupReadyAt 0 8191 = true ∧ ((s.tower 0).group 8191).reserved = [] ∧ s.groupPlaced ms = true ∧ (∀ m ∈ ms, s.bindOk 0 m.2.b0 m.2.b1 = true) ∧
      (∀ c ∈ ms.map fun m => s.claimOf 0 m.2.b0 m.2.b1, s.claimFree c 0 = true) ∧ (∀ p ∈ (s.tower 0).groups, p.2.reserved = []) ∧
      ((s.tower 0).group 8191).wait ≤ s.now ∧
    (let t := s.modTower 0 fun x => { x with groups := [(8191, { reserved := [3] })] }
     t.groupReadyAt 0 8191 = true ∧ ((t.tower 0).group 8191).reserved ≠ []) := by decide
/-- A cluster that holds its reservation and fits, and one that does not fit. -/
theorem test_witness_cluster_ends :
    let fits (s : State) : Bool :=
      let ms := (s.tower 0).members 8191
      s.groupPlaced ms && ms.all (fun m => s.bindOk 0 m.2.b0 m.2.b1) &&
        ms.all fun m => s.claimFree (s.claimOf 0 m.2.b0 m.2.b1) (s.launch (s.lentOf (ms.headD (0, {})).2.b0)).minl
    let held (s : State) : State := s.modTower 0 fun x => { x with groups := [(8191, { reserved := [3] })] }
    ((held (posted 2 8191)).groupReadyAt 0 8191 = true ∧ fits (held (posted 2 8191)) = true) ∧
    ((posted 0 8191).groupReadyAt 0 8191 = true ∧ fits (posted 0 8191) = false) := by decide
theorem test_witness_crew_retire :
    let s := (gangWith fun x => { x with slices := x.slices.map fun k => { k with live := false } }).setLaunch 0 { work with bound := 2, disp := 1 }
    s.canRetire 0 (s.crew 0) = true ∧ (∀ p ∈ s.gangsOf 0, s.holdsDirty (s.crew 0).core p.1 = false) ∧ (s.crew 0).pos = 0 ∧
      (s.launch (s.crew 0).lent).finished = false ∧ (s.launch (s.crew 0).lent).retired + 1 < (s.launch (s.crew 0).lent).total := by decide

/-! ### Translation and pre-emption -/

def walked (s : State) : Bool × State := s.allReady (.engine 0) 2 0 false ((s.walkTree 0 0 0).2.map fun e => (some e.2.1, 8))
theorem test_witness_walk_ok :
    let e : TlbE := { tenant := 0, vpage := 0, ppage := 1, size := 1, r := true, w := true, x := true }
    (mapped.walkTree 0 0 0).1 = .ok e ∧ (walked mapped).1 = true ∧ e.allows 4 = true ∧ (mapped.gang 0).slices ≠ [] ∧
    (walked { mapped with homes := [(0, { stalled := [{ code := mGETS, src := .core 0, dst := .home 0, line := 0, due := 0 }] })] }).1 = false := by decide
theorem test_witness_walk_fails :
    let s := base.modTower 0 fun t => { t with walks := [walk0] }
    (s.walkTree 0 0 0).1 = .fail ∧ (walked s).1 = true ∧ (s.tower 0).preqs = [] := by decide
theorem test_witness_page_response :
    let s := (base.modTower 0 fun t => { t with preqs := [walk0] }).modTen 0 fun t => { t with fctl1 := pack [(16, 1)] }
    0 < 256 ∧ (s.tower 0).preqs[0]? = some walk0 ∧ (s.gang 0).slices ≠ [] ∧ (s.gang 0).here = true ∧ (s.gang 0).faulted = false ∧
      (s.ten (s.gang 0).tenant).fctl1.getLsbD 16 = true := by decide

/-- An image, whose size the spec leaves open within its fields, fits the largest context area; saves, restores and borrows. -/
theorem image_fits (cr : Crew) (hv : cr.nv ≤ 96) (hw : cr.width ≤ 64) (hg : cr.ngangs ≤ 16) (hb : cr.wsize ≤ 2 ^ 22) :
    (ctxPlace [] (128 * cr.ctxLay.size) (0xFFFFFF * 2 ^ 20)).isSome = true := by
  have h : 128 * cr.ctxLay.size ≤ 0xFFFFFF * 2 ^ 20 := by
    have a := Nat.mul_le_mul hv hw
    have b : 0x5000 + (cr.nv * cr.width * 4 + 127) / 128 * 128 ≤ 65536 := by omega
    have c := Nat.mul_le_mul hg b
    have d (k : Nat) := (Config.ctxUnits k).isLt
    have d0 := d 0
    have d1 := d 1
    have d2 := d 2
    simp only [Crew.ctxLay]
    split <;> omega
  simp only [ctxPlace, List.map_nil, List.any_nil, Bool.not_false, Bool.and_true, Nat.zero_add, List.filter_cons, List.filter_nil, h,
    decide_true, if_true]
  rfl
/-- The largest context area, in tenant 0. -/
def roomy (s : State) : State := s.modTen 0 fun t => { t with fctl1 := pack [(0, 1), (24, 0xFFFFFF)] }
theorem test_witness_swapout :
    (let s := gangWith fun x => { x with stop := some .fault }
     s.timerTurn 0 (s.crew 0) = true ∧ s.yieldRoom 0 = none ∧ (s.crew 0).timer = none) ∧
    (let s := base.modCrew 0 fun c => { c with timer := some 0 }
     s.timerTurn 0 (s.crew 0) = true ∧ s.yieldRoom 0 = none ∧ (s.crew 0).timer ≠ none ∧ s.crewWaits 0 = false) ∧
    (let s := base.modCrew 0 fun c => { c with saving := 1 }
     s.saveTurn 0 (s.crew 0) = true ∧ (s.gangsOf 0).any (fun p => s.holdable p.1 p.2) = true) ∧
    (let s := (gangWith Gang.hold).modCrew 0 fun c => { c with saving := 1 }
     s.saveTurn 0 (s.crew 0) = true ∧ (∀ p ∈ s.gangsOf 0, s.holdable p.1 p.2 = false) ∧ s.saveReady 0 (s.crew 0) = true ∧
     (s.gangsOf 0).length = (s.crew 0).ngangs ∧ (∀ p ∈ s.gangsOf 0, p.2.width = (s.crew 0).width ∧ p.2.nv = (s.crew 0).nv)) := by decide
/-- A crew whose timer has run for 2,100 cycles. -/
def timedOut : State :=
  let s := roomy (gangWith fun x => { x with stop := some .fault }) |>.modCrew 0 fun c => { c with timer := some 0 }
  { s with now := 2100 }
theorem timed_out_fits : (timedOut.startSave 1 0).isSome = true := by
  have := image_fits (timedOut.crew 0) (by decide) (by decide) (by decide) (by decide)
  have z : (timedOut.crew 0).saving = 0 := by decide
  have u : timedOut.ctxUsed (timedOut.crew 0).tenant = [] := by decide
  have r : (timedOut.ten (timedOut.crew 0).tenant).ctxBytes = 0xFFFFFF * 2 ^ 20 := by decide
  rw [State.startSave, if_neg (by rw [z]; simp), u, r, Option.isSome_map, this]
theorem swaps_out (s : State) (u now : Nat) (hc : (s.clusterOf u).map (·.1) = [u]) (hb : (s.core (s.crew u).core).borrow = false)
    (hf : (s.ten (s.crew u).tenant).ftmo = 1) (hn : s.now = now) (h : 2100 ≤ now) (ha : (s.crew u).aside = false)
    (hm : (s.crew u).timer = some 0) (hs : (s.startSave 1 u).isSome = true) : (s.swapOut u (s.crew u)).isSome = true := by
  have n : ¬ now < 2100 := by omega
  simp [State.swapOut, hm, hf, hn, ha, n, hc, State.startSaves, hb, hs]
theorem timed_out_swaps : (timedOut.swapOut 0 (timedOut.crew 0)).isSome = true :=
  swaps_out timedOut 0 2100 (by decide) (by decide) (by decide) rfl (by decide) (by decide) (by decide) timed_out_fits
theorem test_witness_swapout_starts : timedOut.yieldRoom 0 = none ∧ (timedOut.crew 0).timer = some 0 ∧ timedOut.crewWaits 0 = true ∧
    (timedOut.crew 0).pos = 0 := by decide
theorem test_witness_swapout_turn : timedOut.timerTurn 0 (timedOut.crew 0) = true := by
  rw [State.timerTurn, timed_out_swaps]
  simp only [Bool.or_true]
  decide
/-- A starving launch that needs the tokens of core 0, the one core of its tenant, which the crew there holds. -/
def starved : State :=
  let la : Launch := { work with words := work.words.set 5 (pack [(56, 1), (36, 2), (46, 1)]), starving := true }
  (roomy (base.setLaunch 1 la)).modTen 0 (fun t => { t with mask0 := 1, mask1 := 0, queues := [(0, { qd1 := pack [(30, 2)] })] })
    |>.modCore 0 fun k => { k with tokOwner := some 0 }
theorem yields (s : State) (u l : Nat) (la : Launch) (h1 : (s.crews.any fun p => p.2.here && p.2.saving != 0) = false)
    (h2 : (s.waitingLaunches.find? fun p => p.2.starving && !s.isRt p.2 && (s.bindOf p.1 p.2).isNone) = some (l, la))
    (h3 : (([0, 1].flatMap (s.blocksFor la)).map fun b => s.withMates ((s.crewsIn l b).map (·.1))) = [[u]])
    (h4 : ((s.without [u]).bindOf l la).isSome = true) (hb : (s.core (s.crew u).core).borrow = false) (hs : (s.startSave 1 u).isSome = true) :
    (s.yieldRoom u).isSome = true := by
  have v : (s.startSaves 1 [u]).isSome = true := by simp [State.startSaves, hb, hs]
  have r : s.roomMakers = [u] := by
    simp only [State.roomMakers, h1, h2, h3, Bool.false_eq_true, if_false]
    simp [v, h4]
  simp [State.yieldRoom, r, v]
theorem starved_fits : (starved.startSave 1 0).isSome = true := by
  have := image_fits (starved.crew 0) (by decide) (by decide) (by decide) (by decide)
  have z : (starved.crew 0).saving = 0 := by decide
  have u : starved.ctxUsed (starved.crew 0).tenant = [] := by decide
  have r : (starved.ten (starved.crew 0).tenant).ctxBytes = 0xFFFFFF * 2 ^ 20 := by decide
  rw [State.startSave, if_neg (by rw [z]; simp), u, r, Option.isSome_map, this]
theorem test_witness_yields : (starved.yieldRoom 0).isSome = true :=
  yields starved 0 1 (starved.launch 1) (by decide) (by decide) (by decide) (by decide) (by decide) starved_fits
theorem test_witness_vacate :
    let s := roomy (((base.setLaunch 0 work).setLaunch 1 { work with queue := 1 }).modTen 0 fun t => { t with queues := [(0, { qd1 := pack [(30, 3)] }), (1, { qd1 := pack [(30, 2), (32, 15)] })] })
    s.lent 0 = false ∧ s.mayVacate [0] = true ∧ (s.crews.filter fun p => p.2.here && p.2.core == 0) = [(0, s.crew 0)] ∧ (s.crew 0).pos = 0 ∧
      (s.crew 0).saving = 0 ∧ s.ctxUsed (s.crew 0).tenant = [] ∧ (s.ten (s.crew 0).tenant).ctxBytes = 0xFFFFFF * 2 ^ 20 ∧ (s.crew 0).nv ≤ 96 ∧
      (s.crew 0).width ≤ 64 ∧ (s.crew 0).ngangs ≤ 16 ∧ (s.crew 0).wsize ≤ 2 ^ 22 ∧
    (s.modCore 47 fun k => { k with borrow := true }).lent 47 = true := by decide
/-- A saved crew of `work`, with the image `b`. -/
def saved (b : List Byte) : State := (((base.setLaunch 0 work).modTen 0 fun t => { t with mask0 := 1 }).modCrew 0 fun c =>
  { c with here := false, saved := true, dispatchable := true, ctxAt := 0, ctxLen := 128 }).setBytes 0 b
def imageWords : List DWord := [pack [(48, 0xC7E1), (40, 1), (37, 1), (0, 1)], pack [(0, 2)], pack [(56, 1)]]
def imageBytes : List Byte := imageWords.flatMap (fun w => leBytes 8 w.toNat) ++ List.replicate 104 0
def imaged (s : State) : Bool × State := s.mgmtReady [((s.ten (s.crew 0).tenant).ctxBase + (s.crew 0).ctxAt, (s.crew 0).ctxLen)]
theorem test_witness_restore :
    let s := saved imageBytes
    s.restorable 0 (s.crew 0) = true ∧ ((s.restorePlan 0 0).map fun l => l.map fun p => (p.1, p.2.1)) = some [(0, 0)] ∧ (imaged s).1 = true ∧
      (imaged s).2.readImage (s.crew 0) = some imageBytes ∧ (imaged s).2.imageOk (s.crew 0) imageBytes = true ∧ Sparse.wf {} s.gangs = true := by decide
theorem test_witness_restore_fails :
    (let s := saved (List.replicate 128 0)
     s.restorable 0 (s.crew 0) = true ∧ ((s.restorePlan 0 0).map fun l => l.map fun p => (p.1, p.2.1)) = some [(0, 0)] ∧ (imaged s).1 = true ∧
       (imaged s).2.readImage (s.crew 0) = some (List.replicate 128 0) ∧ (imaged s).2.imageOk (s.crew 0) (List.replicate 128 0) = false) ∧
    (let s : State := { saved [] with homes := [(0, { stalled := [{ code := mGETS, src := .core 0, dst := .home 0, line := 0, due := 0 }] })] }
     s.restorable 0 (s.crew 0) = true ∧ ((s.restorePlan 0 0).map fun l => l.map fun p => (p.1, p.2.1)) = some [(0, 0)] ∧ (imaged s).1 = false) := by decide
/-- Core 0 with gang 0 and an RT crew that wants it. -/
def wanted : State := base.setCrew 1 { tenant := 0, lent := 0, idx := 0, core := 0, rt := true, here := true }
/-- The same once the gang is held, in a borrow. -/
def borrowed : State := (wanted.modCore 0 fun k => { k with borrow := true }).modGang 0 Gang.hold
theorem test_witness_borrow :
    (wanted.rtWants 0 = true ∧ (wanted.core 0).borrow = false ∧ Sparse.wf {} wanted.gangs = true ∧ wanted.victims 0 ≠ []) ∧
    (borrowed.rtWants 0 = true ∧ (borrowed.core 0).borrow = true ∧ (borrowed.core 0).restoring = none ∧ (borrowed.core 0).spilled = none ∧
       borrowed.victims 0 ≠ [] ∧ (∀ p ∈ borrowed.victims 0, p.2.aside = true)) ∧
    (let s := base.modCore 95 fun k => { k with borrow := true, spilled := some 0 }
     s.borrowOver 95 (s.core 95) = true) := by decide
theorem test_witness_borrow_places : borrowed.victimsApart 0 := by
  rw [State.victimsApart]
  decide
theorem test_witness_borrow_ends :
    (let s := wanted.modCore 0 fun k => { k with borrow := true, restoring := some (0, 0) }
     s.rtWants 0 = true ∧ (s.core 0).borrow = true ∧ (s.core 0).restoring = some (0, 0)) ∧
    (let s := (base.modCore 0 fun k => { k with borrow := true, restoring := some (0, 0) }).modGang 0 fun x => { x with spilled := true }
     (s.core 0).restoring = some (0, 0) ∧ 0 ≤ s.now ∧ (s.core 0).lentImg = none ∧ Sparse.wf {} s.gangs = true ∧
       (∀ p ∈ s.victims 0, p.2.width ≤ 64) ∧ ∃ p ∈ s.victims 0, p.2.spilled = true) := by decide

/-! ### Islands -/

theorem test_witness_island_entry :
    let s := gangWith fun x => x.setQ 2 { b := { kind := 2, isel := 0, stream := 1 }, recs := [{ bits := 5 }] }
    s.canEnter 0 = true ∧ s.entrant 0 = some (0, 2, 1) ∧ ((s.gang 0).qst 2).recs = [{ bits := 5 }] := by decide
/-- An empty record in W0, whose image is RAST, at its latency. -/
def rec0 : IslRec := { stream := 0, bits := 0, tag := 0, mark := false, gang := 0, core := 0, tenant := 0, entered := 0 }
def inW0 (r : IslRec) : State := { base.setIsl 4 { inside := [r] } with now := 64 }
theorem test_witness_island_exit :
    let leaves (s : State) (r : IslRec) : Prop :=
      s.canLeave 4 = true ∧ s.stalls 4 = (s.isl 4).stallFrom.isSome ∧ s.islWork 4 = none ∧ s.leaving 4 = some (rastImage, r)
    leaves (inW0 rec0) rec0 ∧
    (let r : IslRec := { rec0 with formed := true }
     leaves (inW0 r) r) ∧
    (let r : IslRec := { rec0 with formed := true, outs := [(0, 5)] }
     let s := (inW0 r).modGang 0 fun x => x.setQ 2 { b := { kind := 1, isel := 4, stream := 0 } }
     leaves s r ∧ s.outQueue (islSel 4) r 0 = some (0, 2) ∧ ((s.gang 0).qst 2).outRoom ≠ 0) := by decide
/-- A record at the standard texture filter, of a crew without patch slots. -/
def texState : State := { (base.setIsl 0 { img := some texImage, inside := [rec0] }) with now := 8 }
theorem test_witness_island_tex :
    texState.canLeave 0 = true ∧ texState.stalls 0 = (texState.isl 0).stallFrom.isSome ∧ texState.islWork 0 = some (0, rec0, none) ∧
    (match texState.runTex (texState.islCtx 0 rec0) rec0.stream rec0.bits with
     | (.ok _, _) => true
     | _ => false) = true := by decide

/-- An image whose one cell in use is a STOREV sequencer that stream 0 drives; its record 64 cycles after it entered I1 of core 0. -/
def seqImage : Image := { imgid := 9, lat := 64, inmask := 1, cells := [BitVec.ofNat 128 (3 * 2 ^ 126 + 2 ^ 125 + 4 * 2 ^ 116)], routes := [2 ^ 31 + 64 * 2 ^ 24] }
def seqState : State := { base.setIsl 1 { img := some seqImage, inside := [rec0] } with now := 8 }
theorem test_witness_island_work :
    let s := seqState
    s.canLeave 1 = true ∧ s.stalls 1 = false ∧ (s.isl 1).stallFrom = none ∧ s.islWork 1 = some (0, rec0, some 0) ∧ (s.isl 1).img = some seqImage ∧
    seqImage.loads 0 = false ∧
    (s.seqCell (s.islCtx 1 rec0) (seqImage.cell 0)
      ((seqImage.ports (seqImage.fabric rec0.stream rec0.bits rec0.vals (gridN seqImage.wide)) rec0.stream rec0.bits 0).getD [])
      ((rec0.part.map (·.2)).getD [])).1.await = none ∧
    (let t : State := { s with now := 64 }
     t.canLeave 1 = true ∧ t.stalls 1 = true ∧ (t.isl 1).stallFrom = none) ∧
    (let t : State := { base.setIsl 1 { img := some seqImage, inside := [rec0], stallFrom := some 3 } with now := 8 }
     t.canLeave 1 = true ∧ t.stalls 1 = false ∧ (t.isl 1).stallFrom = some 3) := by decide
/-- The same with a sequencer that loads, and one that finds its line at a home where another request waits. -/
theorem test_witness_island_loading :
    let at_ (f : Nat) (s : State) : State := { s.setIsl 1 { img := some { seqImage with cells := [BitVec.ofNat 128 (3 * 2 ^ 126 + 2 ^ 125 + f * 2 ^ 116)] }, inside := [rec0], stallFrom := some 8 } with now := 8 }
    let m (f : Nat) : Image := { seqImage with cells := [BitVec.ofNat 128 (3 * 2 ^ 126 + 2 ^ 125 + f * 2 ^ 116)] }
    let y (f : Nat) (s : State) : SeqRes := (s.seqCell (s.islCtx 1 rec0) ((m f).cell 0)
      (((m f).ports ((m f).fabric rec0.stream rec0.bits rec0.vals (gridN (m f).wide)) rec0.stream rec0.bits 0).getD [])
      ((rec0.part.map (·.2)).getD [])).1
    let far := base.modCrew 0 fun c => { c with patch := [0, 0] }
    (at_ 2 base).canLeave 1 = true ∧ (at_ 2 base).stalls 1 = ((at_ 2 base).isl 1).stallFrom.isSome ∧ (at_ 2 base).islWork 1 = some (0, rec0, some 0) ∧ (m 2).loads 0 = true ∧
      (y 2 (at_ 2 base)).await = none ∧ cellOpc ((m 2).cell 0) = 2 ∧ bits (((m 2).cell 0).setWidth 64) 0 2 ≠ 3 ∧
    (at_ 1 far).islWork 1 = some (0, rec0, some 0) ∧ (y 1 (at_ 1 far)).await.isSome = true := by decide
theorem test_witness_island_loads :
    let m : Image := { imgid := 9 }
    let s := (base.modCrew 0 fun c => { c with imgWait := true }).modLaunch 0 fun l => { l with img := some m }
    s.mayLoad 0 = true ∧ s.imgWanted 0 = some (0, m) := by decide

/-! ### Boot, commands, traps, steps -/

theorem test_witness_boot : (State.reset.life.bootFail = none ∧ State.reset.life.firmware.all firmwareGood = true ∧ firmwareGood [] = false) ∧
    (let s : State := { base with life := { base.life with bootFail := some 1 } }
     s.life.bootFail = some 1) ∧ base.life.booted = true ∧ base.life.badMem = [] ∧ (∀ p ∈ base.agenda, p.2 ≠ .scrub) ∧
    (let s : State := { base with life := { base.life with spdmState := 3 } }
     3 ≤ s.life.spdmState ∧ s.life.recovery = false ∧ s.life.meas[7]? = some 0 ∧ s.life.meas[0]? = some 0) := by decide
theorem test_witness_boot_flash :
    (∀ e ∈ [0, 1], let b : FlashCopy := { seq := 2, list := [0, 8192], ends := e }
      let s : State := { base with life := { base.life with flashPages := [{ seq := 1, list := [0] }, b] } }
      s.life.bootFail = none ∧ s.life.firmware.all firmwareGood = true ∧ s.life.flashPages = [{ seq := 1, list := [0] }, b] ∧ (0 : Nat) ≤ s.now ∧ b.whole = true ∧ 1 < b.seq) ∧
    base.life.under = [] ∧
    (let s : State := { base with life := { base.life with bootFail := some 2, badMem := [5] } }
     s.life.bootFail = some 2 ∧ s.life.firmware.all firmwareGood = true ∧ s.life.eccOff = false ∧ s.life.under = [] ∧ s.heldM 2 = false ∧ s.isPinned 2 = false ∧
       s.errNext - s.priv.errhead.toNat < 2 ^ ringLog s.priv.errsz ∧ s.now < 2 ^ 64 ∧
       s.isDevice (s.priv.errbase.toNat + 32 * (s.errNext % 2 ^ ringLog s.priv.errsz)) = true ∧ s.priv.errbase.toNat % 4096 = 0) ∧
    (let s : State := { base with life := { base.life with spdmState := 3, recovery := true } }
     3 ≤ s.life.spdmState ∧ s.life.recovery = true ∧ (s.life.meas.take 1)[0]? = some 0) := by decide

/-- A command in progress, with its arguments. -/
def commanded (code tn : Nat) (args : List DWord) (s : State) : State :=
  { s with priv := { s.priv with busy := true, cmdop := pack [(0, code), (16, tn)], cargs := args.zipIdx.map fun p => (p.2, p.1) } }
def runsB (s : State) (code : Nat) : Bool := s.priv.busy && s.priv.cend == none && bits s.priv.cmdop 0 16 == code

theorem test_witness_commands_begin : (runsB (commanded 0x12 0 [] base) 0x12 && runsB (commanded 0 0 [] base) 0 && runsB (commanded 1 7 [] base) 1 &&
    runsB (commanded 0x10 0 [] base) 0x10) = true ∧ (base.ten 7).live = false ∧
    (let s : State := { base with priv := { base.priv with busy := true, cend := some (3, 5) } }
     s.priv.cend = some (3, 5)) := by decide
theorem test_witness_commands_tenants :
    let two := base.modTen 7 fun t => { t with live := true, gran0 := 1, gran1 := 1, pins := [(0, 1)] }
    (let s := commanded 2 7 [] (two.modTen 7 fun t => { t with dying := true })
     (s.ten 7).live = true ∧ (s.ten 7).dying = true ∧ (∀ p ∈ s.crews, p.2.tenant ≠ 7) ∧ ∀ p ∈ s.lents, p.2.used = true → p.2.tenant ≠ 7) ∧
    (∀ p ∈ two.crews, p.2.here = true → p.2.tenant = 7 → p.2.core / 48 = 1 → False) ∧
    (let s := commanded 4 7 [1, 0xFFFF] ((List.range 16).foldl (fun s k => s.modCore (48 + k) fun c => { c with rtOn := true }) two)
     (∀ k, k < 48 → (s.core (48 + k)).borrow = false ∧ ((0xFFFF : DWord).getLsbD k = true → (s.core (48 + k)).rtOn = true)) ∧
     ((List.range 48).filter fun k => (0xFFFF : DWord).getLsbD k).length ≤ 16) ∧
    (let s := commanded 5 0 [pack [(0, 1), (1, 47)], pack [(0, 6), (8, 1)]] base
     (∀ p ∈ s.crews, p.2.here = true → p.2.core ≠ 95) ∧
     s.granHeld 1 ≤ (s.modCore 95 fun x => { x with sp := 6 * 2 ^ 19, rtOn := true }).granTotal 1) := by decide
theorem test_witness_commands_memory :
    let two := base.modTen 7 fun t => { t with live := true, gran0 := 2, gran1 := 2, pins := [(0, 1)] }
    (two.ten 7).pinned ≤ (2 - 1) * 2 ^ 19 ∧ two.granHeld 0 - (two.ten 7).gran 0 + 2 ≤ two.granTotal 0 ∧
    two.isDevice (8192 + 8192 * 1 - 1) = true ∧ (two.ten 7).pins.length < 32 ∧
    (∀ j, j < 2 → (two.ten 7).pinned + 4096 * 1 ≤ ((two.ten 7).gran j - 1) * 2 ^ 19) ∧
    (∀ k, k < 8 → ∀ p ∈ (two.ten k).pins, p.1 + 8192 * p.2 ≤ 8192 ∨ 8192 + 8192 * 1 ≤ p.1) ∧ (∃ p ∈ (two.ten 7).pins, p.1 = 0) := by decide
theorem test_witness_commands_groups :
    let s : State := { base with tides := [(255, { tenant := some 0 })], tables := shippedTables }
    (base.tide 255).tenant = none ∧ (s.tide 255).tenant = some 0 ∧ (s.tide 255).members = [] ∧ (s.tide 255).joining = [] ∧
    (s.island 95 1).group = none ∧ s.wideBound 1 7 = [] ∧ (s.island 48 7).loading = none ∧
    (let w : DWord × DWord := (keep 0 0 62, keep 3 0 10)
     Sparse.get [] s.tables (bits w.2 1 3) ≠ [] ∧ s.knownLines = []) ∧
    s.isDevice 8192 = true ∧ 8192 ∉ s.life.pages ∧ s.life.pages.length < 1024 ∧ s.slotUsed 7 = false ∧ (s.mgmtRead 0 2208).isSome = true ∧
    (let m : Image := { imgid := 9 }
     let t := s.setIsland 48 7 { loading := some (0, m) }
     (t.island 48 7).loading = some (0, m)) := by decide

/-- PIN: a page with no line in the stacked cache, one whose lines have come; a table read into the homes, or found wrong by a checker. -/
theorem test_witness_commands_staged :
    (let s := commanded 0x09 0 [8192, 1] (base.modTen 0 fun t => { t with live := true, gran0 := 2, gran1 := 2 })
     runsB s 0x09 = true ∧ (s.ten 0).pinning = none ∧ s.toLoad 8192 1 ≠ 0 ∧
     (let t := s.modTen 0 fun x => { x with pinning := some (8192, 1, 0) }
      (t.ten 0).pinning = some (8192, 1, 0) ∧ 0 ≤ t.now)) ∧
    (let s := commanded 0x0B 0 [0, 7] { base with tables := shippedTables }
     runsB s 0x0B = true ∧ (s.home 0).staging.lookup 7 = none ∧ (s.mgmtReady [(0, 2208)]).1 = true ∧
       ((s.mgmtReady [(0, 2208)]).2.mgmtRead 0 2208).isSome = true) ∧
    (∀ b ∈ [List.replicate 2208 (0 : Byte), List.replicate 2208 255],
      let s := commanded 0x0B 0 [0, 7] { base with tables := shippedTables, homes := [(0, { staging := [(7, (0, b))] })] }
      (s.home 0).staging.lookup 7 = some (0, b) ∧ 0 ≤ s.now) ∧
    (let s := commanded 0x0D 0 [pack [(1, 3)], 0] base
     runsB s 0x0D = true ∧ (s.island 0 7).loading = none ∧ (s.cmdContainerReady 0).1 = true ∧ s.wideBound 0 7 = [] ∧
       ((awaited s).cmdContainerReady 0).1 = false) := by decide

/-- TRAPS: the enables of the divide and overflow traps with lanes that meet them, and without; the states of a token; records that are no operand. -/
theorem test_witness_lane_traps :
    let s (mode : Word) (y : Word) := issuing fun x => (List.range 16).foldl (fun x l => vIn l [(1, 0x80000000), (2, y)] x) { x with mode := mode }
    let t (mode y : Word) (i : Instr) : Option (Nat × DWord) := ((s mode y).wordTrap cur0 i).map fun t => (t.cause, t.mask)
    let clear (i : Instr) : Prop := (s 0x6000 0).pendingTrap cur0 i = none ∧ (s 0x6000 0).regTrap cur0 i = none
    t 0x6000 0 (.idiv false 0 (.v 1) (.v 2)) = some (11, 0xFFFF) ∧ t 0x6000 0xFFFFFFFF (.irem false 0 (.v 1) (.v 2)) = some (12, 0xFFFF) ∧
    t 0 0 (.idiv false 0 (.v 1) (.v 2)) = none ∧ t 0x4000 0x80000000 (.iadd .s32 0 (.v 1) (.v 2)) = some (12, 0xFFFF) ∧
    t 0x4000 0 (.ineg 0 (.v 1)) = some (12, 0xFFFF) ∧ t 0x2000 0 (.iabs 0 (.v 1)) = none ∧
    clear (.idiv false 0 (.v 1) (.v 2)) ∧ clear (.iadd .s32 0 (.v 1) (.v 2)) := by decide
theorem test_witness_engine_traps :
    let t (f : State → State) (i : Instr) : Option (Nat × Nat) := ((f idle).wordTrap cur0 i).map fun t => (t.cause, t.info)
    let sh (h : Nat) (r : Shape) (s : State) : State := s.modCrew 0 fun c => { c with h := Sparse.set {} c.h h r }
    t id (.mma 3 0 1) = some (3, 3) ∧ t id (.mrel 2) = some (3, 2) ∧ t (sh 0 {}) (.mma 2 0 1) = some (6, 2) ∧ t id (.mma 2 2 1) = some (6, 3) ∧
    t (sh 0 { shapeA with w3 := 0x000100000FFF8000 }) (.mma 2 0 1) = some (4, 0) ∧ t id (.mma 2 0 1) = none ∧ t id (.shape 1 8) = some (6, 1) ∧
    t id (.copyQ 0 (.s 8) 3) = some (6, 3) ∧ t id (.copy false false 4 (.cst .zero) 3) = some (7, (idle.gangOf cur0).gid) ∧
    t (sh 4 { shapeV with w3 := 0xFFF0000 }) (.copy false false 4 (.s 8) 3) = some (4, 0) ∧
    (idle.crew 0).gathering 4 = none ∧ ((idle.crew 0).shape 4).valid = true := by decide

/-- TRAPS: a misaligned load, a pending register, and the three traps of a vault word. -/
theorem test_witness_traps :
    let s := issuing fun x => aIn [(2, 2)] { x with pend := [{ reg := .v 1, lanes := 1, tag := 0 }] }
    ((s.wordTrap { cur0 with tag0 := 1 } (.ld .b32 .none 4 (.v 3) 2)).map fun t => (t.cause, t.mask)) = some (8, 0xFFFF) ∧
    s.pendingTrap { cur0 with tag0 := 1 } (.ld .b32 .none 4 (.v 3) 2) = none ∧
    (s.gangOf cur0).faulted = false ∧ s.pendingTrap { cur0 with tag0 := 1 } (.iadd .u32 0 (.v 1) (.v 2)) = some 1 ∧
    (let t (off : Nat) (cp : List Copy) : Option (Nat × DWord) :=
       (((issuing (sIn [(1, BitVec.ofNat 64 off)])).modCrew 0 fun c => { c with copies := cp }).wordTrap cur0 (.ldv .b64 4 (.cst .zero) 1)).map fun t =>
         (t.cause, t.mask)
     t 4 [] = some (8, 0xFFFF) ∧ t (2 ^ 20) [] = some (4, 0xFFFF) ∧ t 0x40000 [copyRun] = some (5, 0xFFFF) ∧ t (2 ^ 20 - 8) [] = none) := by decide

/-- A packet of one group that holds the word `i`, with the words left of it. -/
def grouped (i : Instr) (left : List PWord) : Cursor := { cur0 with group := [{ slot := 0, i := i, chain := false }], words := left }
/-- A STEP: the word that issues, the word that traps, the end of a group and of a packet, an act that is due, a happening of the tape, a gang
that is ready, a turn, a cycle. -/
theorem test_witness_steps :
    (let c := grouped .nop [{ slot := 0, i := .nop, chain := false }]
     let s : State := { idle with cur := some c }
     c.words.length = c.group.length ∧ ∀ v ∈ c.group, s.wordTrap { c with slot := v.slot } v.i = none) ∧
    (let i : Instr := .ld .b32 .none 4 (.v 3) 2
     let c := grouped i [{ slot := 0, i := i, chain := false }]
     let s : State := { issuing (aIn [(2, 2)]) with cur := some c }
     c.words.length = c.group.length ∧ (c.group.find? fun v => (s.wordTrap { c with slot := v.slot } v.i).isSome) =
       some { slot := 0, i := i, chain := false }) ∧
    (let c := grouped .nop []
     let s : State := { idle with cur := some c }
     c.words = [] ∧ c.group ≠ [] ∧ c.groups = [] ∧ (s.gangOf c).faulted = false) ∧
    State.reset.dueAct.isSome = true ∧ base.dueAct = none ∧ base.tapeAct = none ∧ base.pickGang = some 0 ∧
    (let s : State := { base with tape := [(0, .sleepExpiry 0)], phase := 0 }
     s.dueAct = none ∧ s.tapeAct.isSome = true) ∧
    (let s : State := { State.reset with agenda := [] }
     s.dueAct = none ∧ s.tapeAct = none ∧ s.pickGang = none ∧ s.phase < 6 ∧
     (let t : State := { s with phase := 6 }
      t.dueAct = none ∧ t.tapeAct = none ∧ t.pickGang = none ∧ 6 ≤ t.phase ∧ t.life.upsets = [])) ∧
    (let p := Packet.ofBytes fun k => (leBytes 16 0x00840208).getD k 0
     removedWord p.w0 = false ∧ p.isExpr = false ∧ p.w1 = 0 ∧ p.w2 = 0 ∧
       base.contextBad 0 p [{ slot := 0, i := .iadd .s32 4 (.v 1) (.v 2), chain := p.w0.testBit 31 }] = []) := by decide
/-- WORDS_LEAVE: a word whose registers are not pending and whose entry passes, with no error in a line or a vault word. -/
theorem test_witness_words_leave : idle.cur = some cur0 ∧ idle.pendingTrap cur0 (.iadd .s32 0 (.v 1) (.v 2)) = none ∧
    idle.entryTrap cur0 (.iadd .s32 0 (.v 1) (.v 2)) = none ∧
    ∀ k ∈ idle.cores, k.2.badVault = [] ∧ (∀ l ∈ k.2.l1, l.2.bad = false) ∧ ∀ l ∈ k.2.buf, l.2.bad = false := by decide
theorem test_witness_step_next : base.memWf = true ∧ (match step base with | .next t => t.memWf | _ => false) = true := by decide
theorem test_witness_round_trip : [Instr.iadd .s64 94 (.v 94) .lit, .loop 15 1, .nop].all (fun i => i.wf && isWord i) = true ∧ isWord .reset = false := by decide
/-- Reset is ill-defined nowhere: the first step boots the device. -/
theorem test_reset_boots : (match step State.reset with | .next t => t.life.booted && t.life.stage == 3 && t.agenda.length == 1 | _ => false) = true := by decide

/-! ## Objects and the assembler (00 R15, R473; 17 R418 to R421, program 1) -/

theorem test_literals :
    literalOf (some (fF32, 1)) ['0', '.', '1'] = some 0x3DCCCCCD ∧ literalOf (some (fF32, 1)) ['-', '2', 'e', '-', '3'] = some 0xBB03126F ∧
    literalOf (some (fE4M3, 4)) ['1', '.', '5'] = some 0x3C3C3C3C ∧ literalOf (some (fE4M3, 4)) ['5', 'e', '2'] = none ∧
    literalOf none ['1', '.', '5'] = none ∧ literalOf (some (fF32, 1)) ['5'] = some 5 ∧ literalOf none ['-', '1'] = some 0xFFFFFFFF ∧
    literalOf none ['4', '2', '9', '4', '9', '6', '7', '2', '9', '6'] = none ∧ literalOf none ['0', 'x', '1', 'F'] = some 0x1F := by decide

/-- The packet of 00 R15, and packets 0 and 3 of program 1 of 17. -/
theorem test_assembled_packets :
    assemble [{ bits := 0x108201E0, lits := [0x40490FDB], chain := true }, { bits := 0x100303EC }] true =
      some [0xD08201E0, 0x100303EC, 0, 0x40490FDB] ∧
    assemble [{ bits := 0x0A0101E6, slots := [0], chain := true }, { bits := 0x0601E1F4 }] false = some [0x8A0101E6, 0x0601E1F4, 0, 0] ∧
    assemble [{ bits := 0x20020220 }, { bits := 0x20030240 }] true = some [0x60020220, 0x20030240, 0, 0] ∧
    assemble [{ bits := 1, lits := [1] }, { bits := 1, lits := [2] }] false = none ∧
    assemble [{ bits := 1, lits := [1] }, { bits := 1, slots := [0] }] false = none ∧
    assemble [{ bits := 1, lits := [0x2301], ctl := some 1 }, { bits := 1, ctl := some 0x23 }] false = some [3, 3, 0, 0x2301] ∧
    assemble [{ bits := 1, lits := [0x2301] }, { bits := 1, ctl := some 0x24 }] false = none := by decide

theorem test_program_1_loads :
    let k := kernelOf [0x76] [.level 2, .gang 16, .vregs 16, .vault 0, .patch [1], .patch [2], .patch [3]] 0 [0x8A0101E6] 0 0 5
    (k.map fun k => (k.target, k.present, k.npatch, k.tokn, k.loads 1)) = some (2, 1, 3, false, true) ∧
    (k.map fun k => ((k.fields 0x1000 7).gw, (k.fields 0x1000 7).nvd, (k.fields 0x1000 7).image)) = some (0, 2, 0) ∧
    (k.map fun k => ({ k with present := 2 } : KernelNote).loads 1) = some false ∧
    kernelOf [0x76] [.gang 16, .vregs 16] 0 [] 0 0 0 = none ∧ kernelOf [0x76] [.gang 16, .vregs 16, .vault 0, .patch [1], .patch [1]] 0 [] 0 0 0 = none := by
  decide

end Sys2Proof.Tests
end

/-! # Vector integer words: division and remainder (02 R60; 04 R102)

How a lane-wise word meets `VectorResult` is shown once, for every word of that form; what is left for IDIV and IREM is
the arithmetic of one lane. -/

namespace Sys2Proof.Machine

open Sys2Proof

/-! ## Lane-wise words -/

/-- A lane-wise form puts one result in flight, of the active lanes' values and of their flags together (01 R39, R49; 04 R100). -/
theorem State.laneWord_inFlight (s : State) (c : Cursor) (lat d : Nat) (f : Nat → Word × BitVec 7) :
    InFlight s (s.laneWord c lat d f) c.gang (widthLat s c lat) [.v d ((s.lanes c).map fun l => (l, (f l).1))]
      (orFlags ((s.lanes c).map fun l => (f l).2)) := by
  have hlat : s.latVX c lat = widthLat s c lat := by
    unfold State.latVX widthLat State.gangOf
    split <;> rfl
  simp only [InFlight, State.laneWord, State.emit_eq, hlat, List.map_map, Function.comp_def]

/-- A word whose meaning is a lane-wise form has a vector result of what holds of that form in every lane. -/
theorem vectorResult_of_laneWord {i : Instr} {lat d : Nat} {P : State → Cursor → Nat → Word → BitVec 7 → Prop}
    {f : State → Cursor → Nat → Word × BitVec 7}
    (hexec : ∀ s, exec i s = s.runWord i fun c => s.laneWord c lat d (f s c))
    (hlane : ∀ s c l, P s c l (f s c l).1 (f s c l).2) : VectorResult i lat d P := by
  intro s c hissues
  obtain ⟨hcur, htrap⟩ := hissues
  refine ⟨s.laneWord c lat d (f s c), ?_, f s c, fun l _ => hlane s c l, s.laneWord_inFlight c lat d (f s c)⟩
  rw [hexec, State.runWord_eff hcur htrap]

/-! ## Division of one lane (02 R60) -/

/-- The truncated quotient of the signed values, modulo 2^w, is the signed division of bit vectors. -/
theorem ofInt_tdiv_eq_sdiv {w : Nat} (a b : BitVec w) : BitVec.ofInt w (a.toInt.tdiv b.toInt) = a.sdiv b :=
  BitVec.eq_of_toInt_eq (by rw [BitVec.toInt_ofInt, BitVec.toInt_sdiv])

/-- The remainder of the truncated quotient is the signed remainder of bit vectors. -/
theorem ofInt_tmod_eq_srem {w : Nat} (a b : BitVec w) : BitVec.ofInt w (a.toInt.tmod b.toInt) = a.srem b := by
  rw [← BitVec.toInt_srem, BitVec.ofInt_toInt]

/-- The flag of a division or remainder of one lane: IDZ for a zero divisor, IOV for the signed INT_MIN / −1, none otherwise. -/
def divFlags (uns : Bool) (a b : Word) : BitVec 7 :=
  if b = 0 then flIDZ else if uns = false ∧ a = 0x80000000 ∧ b = 0xFFFFFFFF then flIOV else 0

/-- IDIV of one lane: all ones for a zero divisor, else the quotient of the form; INT_MIN / −1 is no exception, as its
quotient wraps to INT_MIN. -/
theorem divI_eq (uns : Bool) (a b : Word) :
    divI uns a b = (if b = 0 then 0xFFFFFFFF else if uns then a.udiv b else a.sdiv b, divFlags uns a b) := by
  have hwrap : (0x80000000#32).sdiv 0xFFFFFFFF#32 = 0x80000000#32 := by decide
  unfold divI divFlags
  by_cases hb : b = 0#32
  · simp [hb]
  · cases uns with
    | true => simp [hb]
    | false =>
      by_cases hov : a = 0x80000000#32 ∧ b = 0xFFFFFFFF#32
      · obtain ⟨rfl, rfl⟩ := hov
        simp [hwrap]
      · simp [hb, hov, ofInt_tdiv_eq_sdiv]

/-- IREM of one lane: the dividend for a zero divisor, else the remainder of the form, which is 0 for INT_MIN and −1. -/
theorem remI_eq (uns : Bool) (a b : Word) :
    remI uns a b = (if b = 0 then a else if uns then a.umod b else a.srem b, divFlags uns a b) := by
  have hzero : (0x80000000#32).srem 0xFFFFFFFF#32 = 0#32 := by decide
  unfold remI divFlags
  by_cases hb : b = 0#32
  · simp [hb]
  · cases uns with
    | true => simp [hb]
    | false =>
      by_cases hov : a = 0x80000000#32 ∧ b = 0xFFFFFFFF#32
      · obtain ⟨rfl, rfl⟩ := hov
        simp [hzero]
      · simp [hb, hov, ofInt_tmod_eq_srem]

/-! ## The words -/

theorem exec_idiv (uns : Bool) (d : VReg) (a b : Src) (s : State) :
    exec (.idiv uns d a b) s = s.runWord (.idiv uns d a b) fun c =>
      s.laneWord c 24 d.val fun l => divI uns (s.readI c a l) (s.readI c b l) := rfl

theorem exec_irem (uns : Bool) (d : VReg) (a b : Src) (s : State) :
    exec (.irem uns d a b) s = s.runWord (.irem uns d a b) fun c =>
      s.laneWord c 24 d.val fun l => remI uns (s.readI c a l) (s.readI c b l) := rfl

/-- Settles O3: both words are lane-wise forms, and one lane's value and flag are those of `divI_eq` and `remI_eq`. -/
theorem divisionTruncatesWithListedEdgeCases : Obligations.DivisionTruncatesWithListedEdgeCases := by
  unfold Obligations.DivisionTruncatesWithListedEdgeCases
  intro uns d a b
  constructor
  · refine vectorResult_of_laneWord (exec_idiv uns d a b) fun s c l => ?_
    rw [divI_eq]
    exact ⟨rfl, rfl⟩
  · refine vectorResult_of_laneWord (exec_irem uns d a b) fun s c l => ?_
    rw [remI_eq]
    exact ⟨rfl, rfl⟩

end Sys2Proof.Machine

/-! # Shifts and bit fields (04 R106, R107)

A word of these two primaries is a lane-wise form, so `vectorResult_of_laneWord` leaves the bits of one lane. The words of
primaries 0x0C and 0x0D are of format R; decoding reads their fields first, and admits the operands last (03 R80, 04 R99). -/

namespace Sys2Proof.Machine

open Sys2Proof Sys2Proof.Laws

/-! ## Decoding -/

/-- Once its fields name `i`, a word is `i` where the operands are admitted, and no instruction where they are not. -/
theorem decodeWord_of_raw {w : Nat} {i : Instr} (hraw : decodeRaw w = .ok i) :
    (i.wf = true → decodeWord w = .ok i) ∧ (i.wf = false → ∃ e, decodeWord w = .error e) := by
  have hword : decodeWord w = if i.wf then .ok i else .error .operandClass := by simp only [decodeWord, hraw, bind_ok]
  constructor
  · intro hwf
    rw [hword, if_pos hwf]
  · intro hwf
    exact ⟨.operandClass, by simp [hword, hwf]⟩

/-- A word whose fields name no instruction is no instruction. -/
theorem decodeWord_of_raw_error {w : Nat} {e : Reject} (hraw : decodeRaw w = .error e) : decodeWord w = .error e := by
  rw [decodeWord, hraw]
  rfl

/-- Primaries 0x01 to 0x0F are the integer words. -/
theorem decodeRaw_int {w op : Nat} (hop : fld w 23 7 = op) (hpos : 0 < op) (hle : op ≤ 15) :
    decodeRaw w = decodeInt op w := by
  have hne : op ≠ 0 := by omega
  simp [decodeRaw, hop, hne, hle]

/-- The word of format R with V registers in D: what `decodeInt` answers from its fields is what the word's fields name. -/
theorem decodeRaw_encR_int {op t : Nat} {d : VReg} {a b : Src} {r : Except Reject Instr} (hpos : 0 < op) (hle : op ≤ 15)
    (ht : t < 4) (hint : ∀ w, IsR w op d.val a.code b.code t → decodeInt op w = r) :
    decodeRaw (encR op d.val a.code b.code t) = r := by
  have hfields : IsR (encR op d.val a.code b.code t) op d.val a.code b.code t :=
    encR_fields (by omega) (by omega) (src_lt a) (src_lt b) ht
  have hop : fld (encR op d.val a.code b.code t) 23 7 = op := hfields.1
  rw [decodeRaw_int hop hpos hle, hint _ hfields]

/-- The shift of each T (04 R106). -/
def shiftWord (t : Fin 4) (d : VReg) (a b : Src) : Instr :=
  match t with
  | 0 => .shl d a b
  | 1 => .shr d a b
  | 2 => .sar d a b
  | 3 => .rot d a b

theorem decodeRaw_shiftWord (t : Fin 4) (d : VReg) (a b : Src) :
    decodeRaw (encR 12 d.val a.code b.code t.val) = .ok (shiftWord t d a b) := by
  refine decodeRaw_encR_int (by decide) (by decide) t.isLt fun w hw => ?_
  unfold IsR at hw
  fin_cases t <;> simp [decodeInt, hw, shiftWord]

/-- The bit-field word of each T; T = 3 is no instruction (04 R107). -/
def bitFieldWord (t : Fin 4) (d : VReg) (a b : Src) : Except Reject Instr :=
  match t with
  | 0 => .ok (.bfe false d a b)
  | 1 => .ok (.bfe true d a b)
  | 2 => .ok (.bfi d a b)
  | 3 => .error .unassignedVariant

theorem decodeRaw_bitFieldWord (t : Fin 4) (d : VReg) (a b : Src) :
    decodeRaw (encR 13 d.val a.code b.code t.val) = bitFieldWord t d a b := by
  refine decodeRaw_encR_int (by decide) (by decide) t.isLt fun w hw => ?_
  unfold IsR at hw
  fin_cases t <;> simp [decodeInt, hw, bitFieldWord]

/-! ## The bits of a shifted lane (04 R106) -/

/-- A count of 32 or more needs no case of its own in SHL: it moves every bit out. -/
theorem shlW_eq (a b : Word) : shlW a b = a <<< b.toNat := by
  unfold shlW
  split
  · next hbig => exact (BitVec.shiftLeft_eq_zero hbig).symm
  · rfl

/-- As in SHL, a count of 32 or more needs no case of its own in SHR. -/
theorem shrW_eq (a b : Word) : shrW a b = a >>> b.toNat := by
  unfold shrW
  split
  · next hbig => exact (BitVec.ushiftRight_eq_zero hbig).symm
  · rfl

theorem getLsbD_shlW (a b : Word) {j : Nat} (hj : j < 32) :
    (shlW a b).getLsbD j = (decide (b.toNat ≤ j) && a.getLsbD (j - b.toNat)) := by
  rw [shlW_eq, BitVec.getLsbD_shiftLeft]
  simp [hj, ← decide_not]

theorem getLsbD_shrW (a b : Word) (j : Nat) : (shrW a b).getLsbD j = a.getLsbD (j + b.toNat) := by
  rw [shrW_eq, BitVec.getLsbD_ushiftRight, Nat.add_comm]

/-- SAR repeats bit 31: a place past the top reads it, and so does every place when the count is 31 or more. -/
theorem getLsbD_sarW (a b : Word) {j : Nat} (hj : j < 32) :
    (sarW a b).getLsbD j = a.getLsbD (min 31 (j + b.toNat)) := by
  rw [sarW, BitVec.getLsbD_sshiftRight, BitVec.msb_eq_getLsbD_last]
  by_cases hin : min b.toNat 31 + j < 32
  · have hplace : min b.toNat 31 + j = min 31 (j + b.toNat) := by omega
    simp [hj, hplace]
  · have hplace : min 31 (j + b.toNat) = 31 := by omega
    simp [hj, hin, hplace]

/-- ROT: the low places read the bits that left at the top. -/
theorem getLsbD_rotW (a b : Word) {j : Nat} (hj : j < 32) :
    (rotW a b).getLsbD j = a.getLsbD ((j + 32 - b.toNat % 32) % 32) := by
  rw [rotW, BitVec.getLsbD_rotateLeft, Nat.mod_mod]
  by_cases hlow : j < b.toNat % 32
  · have hplace : (j + 32 - b.toNat % 32) % 32 = 32 - b.toNat % 32 + j := by omega
    simp [hlow, hplace]
  · have hplace : (j + 32 - b.toNat % 32) % 32 = j - b.toNat % 32 := by omega
    simp [hlow, hj, hplace]

/-! ## The bits of a field (04 R107) -/

/-- The position of the field that `b` describes. -/
def fieldPos (b : Word) : Nat := b.toNat % 256
/-- The length of the field that `b` describes, before it is cut. -/
def fieldLen (b : Word) : Nat := b.toNat / 256 % 256
/-- The bits of the field that `b` describes, cut at bit 31. -/
def fieldWidth (b : Word) : Nat := min (fieldLen b) (32 - fieldPos b)

theorem bfeW_empty (sgn : Bool) (a : Word) {b : Word} (hempty : 32 ≤ fieldPos b ∨ fieldLen b = 0) : bfeW sgn a b = 0 :=
  if_pos hempty

/-- Subtracting 2^n from a field whose top bit is set is reading it as signed. -/
theorem ofInt_sub_two_pow_eq_signExtend {n v : Nat} {x : BitVec n} (hmsb : x.msb = true) :
    BitVec.ofInt v ((x.toNat : Int) - 2 ^ n) = x.signExtend v := by
  rw [BitVec.signExtend, BitVec.toInt_eq_msb_cond, if_pos hmsb]
  norm_num

/-- Reading a field whose top bit is clear as signed changes nothing. -/
theorem signExtend_eq_ofNat {n v : Nat} {x : BitVec n} (hmsb : x.msb = false) :
    x.signExtend v = BitVec.ofNat v x.toNat := by
  rw [BitVec.signExtend, BitVec.toInt_eq_msb_cond, hmsb, if_neg Bool.false_ne_true, BitVec.ofInt_natCast]

/-- BFE takes the bits of the field out, extended by their sign or by zero. -/
theorem bfeW_eq_extend (sgn : Bool) (a : Word) {b : Word} (hpos : fieldPos b < 32) (hlen : 0 < fieldLen b) :
    bfeW sgn a b =
      if sgn then (a.extractLsb' (fieldPos b) (fieldWidth b)).signExtend 32
      else (a.extractLsb' (fieldPos b) (fieldWidth b)).setWidth 32 := by
  have hsome : ¬ (fieldPos b ≥ 32 ∨ fieldLen b = 0) := by omega
  have hfield : a.toNat / 2 ^ fieldPos b % 2 ^ fieldWidth b = (a.extractLsb' (fieldPos b) (fieldWidth b)).toNat := by
    rw [BitVec.extractLsb'_toNat, Nat.shiftRight_eq_div_pow]
  have hunfold : bfeW sgn a b =
      let f := a.toNat / 2 ^ fieldPos b % 2 ^ fieldWidth b
      if sgn ∧ f ≥ 2 ^ (fieldWidth b - 1) then BitVec.ofInt 32 ((f : Int) - 2 ^ fieldWidth b) else BitVec.ofNat 32 f :=
    if_neg hsome
  rw [hunfold, hfield]
  generalize a.extractLsb' (fieldPos b) (fieldWidth b) = x
  cases sgn with
  | false => simp
  | true =>
    by_cases hmsb : x.msb = true
    · have htop : x.toNat ≥ 2 ^ (fieldWidth b - 1) := by simpa [BitVec.msb_eq_decide] using hmsb
      simp only [htop, and_self, if_true, ofInt_sub_two_pow_eq_signExtend hmsb]
    · have htop : ¬ x.toNat ≥ 2 ^ (fieldWidth b - 1) := by simpa [BitVec.msb_eq_decide] using hmsb
      simp only [htop, and_false, if_false, if_true, signExtend_eq_ofNat (Bool.eq_false_of_not_eq_true hmsb)]

/-- The bits of BFE: those of the field, then its top bit where the form is signed, and zeros where it is not. -/
theorem getLsbD_bfeW (sgn : Bool) (a : Word) {b : Word} (hpos : fieldPos b < 32) (hlen : 0 < fieldLen b) {j : Nat} (hj : j < 32) :
    (bfeW sgn a b).getLsbD j =
      if j < fieldWidth b then a.getLsbD (fieldPos b + j) else sgn && a.getLsbD (fieldPos b + fieldWidth b - 1) := by
  have hwidth : 0 < fieldWidth b := by unfold fieldWidth; omega
  have htop : fieldPos b + (fieldWidth b - 1) = fieldPos b + fieldWidth b - 1 := by omega
  rw [bfeW_eq_extend sgn a hpos hlen]
  cases sgn with
  | false => simp [hj]
  | true =>
    rw [if_pos rfl, BitVec.getLsbD_signExtend, BitVec.msb_eq_getLsbD_last]
    by_cases hin : j < fieldWidth b
    · simp [hj, hin]
    · simp [hj, hin, hwidth, htop]

/-- The mask of BFI has the bits of the field: below bit 32 the cut of its length does not show. -/
theorem getLsbD_fieldMask (b : Word) {j : Nat} (hj : j < 32) :
    (BitVec.ofNat 32 ((2 ^ fieldWidth b - 1) * 2 ^ fieldPos b)).getLsbD j =
      decide (fieldPos b ≤ j ∧ j < fieldPos b + fieldLen b) := by
  have hcut : (fieldPos b ≤ j ∧ j - fieldPos b < fieldWidth b) ↔ fieldPos b ≤ j ∧ j < fieldPos b + fieldLen b := by
    unfold fieldWidth; omega
  rw [BitVec.getLsbD_ofNat, Nat.testBit_mul_two_pow, Nat.testBit_two_pow_sub_one, decide_eq_true hj, Bool.true_and,
    ← Bool.decide_and]
  exact decide_eq_decide.mpr hcut

/-- The bits of BFI: those of `a` in the field, those of `d` elsewhere; an empty field leaves `d`. -/
theorem getLsbD_bfiW (d a b : Word) {j : Nat} (hj : j < 32) :
    (bfiW d a b).getLsbD j =
      if fieldPos b ≤ j ∧ j < fieldPos b + fieldLen b then a.getLsbD (j - fieldPos b) else d.getLsbD j := by
  by_cases hempty : fieldPos b ≥ 32 ∨ fieldLen b = 0
  · have hunfold : bfiW d a b = d := if_pos hempty
    have hout : ¬ (fieldPos b ≤ j ∧ j < fieldPos b + fieldLen b) := by omega
    rw [hunfold, if_neg hout]
  · have hunfold : bfiW d a b =
        let m : Word := BitVec.ofNat 32 ((2 ^ fieldWidth b - 1) * 2 ^ fieldPos b)
        (d &&& ~~~m) ||| ((a <<< fieldPos b) &&& m) := if_neg hempty
    rw [hunfold]
    simp only [BitVec.getLsbD_or, BitVec.getLsbD_and, BitVec.getLsbD_not, BitVec.getLsbD_shiftLeft, getLsbD_fieldMask b hj]
    by_cases hin : fieldPos b ≤ j ∧ j < fieldPos b + fieldLen b
    · simp [hj, hin]
    · simp [hj, hin]

/-! ## The words -/

theorem exec_shl (d : VReg) (a b : Src) (s : State) :
    exec (.shl d a b) s = s.runWord (.shl d a b) fun c =>
      s.laneWord c 2 d.val fun l => (shlW (s.readI c a l) (s.readI c b l), 0) := rfl

theorem exec_shr (d : VReg) (a b : Src) (s : State) :
    exec (.shr d a b) s = s.runWord (.shr d a b) fun c =>
      s.laneWord c 2 d.val fun l => (shrW (s.readI c a l) (s.readI c b l), 0) := rfl

theorem exec_sar (d : VReg) (a b : Src) (s : State) :
    exec (.sar d a b) s = s.runWord (.sar d a b) fun c =>
      s.laneWord c 2 d.val fun l => (sarW (s.readI c a l) (s.readI c b l), 0) := rfl

theorem exec_rot (d : VReg) (a b : Src) (s : State) :
    exec (.rot d a b) s = s.runWord (.rot d a b) fun c =>
      s.laneWord c 2 d.val fun l => (rotW (s.readI c a l) (s.readI c b l), 0) := rfl

theorem exec_bfe (sgn : Bool) (d : VReg) (a b : Src) (s : State) :
    exec (.bfe sgn d a b) s = s.runWord (.bfe sgn d a b) fun c =>
      s.laneWord c 2 d.val fun l => (bfeW sgn (s.readI c a l) (s.readI c b l), 0) := rfl

theorem exec_bfi (d : VReg) (a b : Src) (s : State) :
    exec (.bfi d a b) s = s.runWord (.bfi d a b) fun c =>
      s.laneWord c 2 d.val fun l => (bfiW ((s.gangOf c).vreg d.val l) (s.readI c a l) (s.readI c b l), 0) := rfl

/-- Settles O5: each shift is a lane-wise form, one lane's bits are those of `getLsbD_shlW` and its like, and the fields of
the word name the shift. -/
theorem shiftsUseTheWholeCount : Obligations.ShiftsUseTheWholeCount := by
  unfold Obligations.ShiftsUseTheWholeCount
  intro d a b
  refine ⟨?shl, ?shr, ?sar, ?rot, decodeWord_of_raw (decodeRaw_shiftWord 0 d a b),
    decodeWord_of_raw (decodeRaw_shiftWord 1 d a b), decodeWord_of_raw (decodeRaw_shiftWord 2 d a b),
    decodeWord_of_raw (decodeRaw_shiftWord 3 d a b)⟩
  case shl => exact vectorResult_of_laneWord (exec_shl d a b) fun s c l => ⟨rfl, fun j hj => getLsbD_shlW _ _ hj⟩
  case shr => exact vectorResult_of_laneWord (exec_shr d a b) fun s c l => ⟨rfl, fun j _ => getLsbD_shrW _ _ j⟩
  case sar => exact vectorResult_of_laneWord (exec_sar d a b) fun s c l => ⟨rfl, fun j hj => getLsbD_sarW _ _ hj⟩
  case rot => exact vectorResult_of_laneWord (exec_rot d a b) fun s c l => ⟨rfl, fun j hj => getLsbD_rotW _ _ hj⟩

/-- Settles O6: BFE and BFI are lane-wise forms, one lane's bits are those of `getLsbD_bfeW` and `getLsbD_bfiW`, and the
fields of the word name them, or nothing when T = 3. -/
theorem bitFieldExtractAndInsert : Obligations.BitFieldExtractAndInsert := by
  unfold Obligations.BitFieldExtractAndInsert
  intro sgn d a b
  refine ⟨?bfe, ?bfi, decodeWord_of_raw (decodeRaw_bitFieldWord 0 d a b), decodeWord_of_raw (decodeRaw_bitFieldWord 1 d a b),
    decodeWord_of_raw (decodeRaw_bitFieldWord 2 d a b), _, decodeWord_of_raw_error (decodeRaw_bitFieldWord 3 d a b)⟩
  case bfe =>
    exact vectorResult_of_laneWord (exec_bfe sgn d a b) fun s c l =>
      ⟨rfl, fun hempty => bfeW_empty sgn _ hempty, fun hpos hlen j hj => getLsbD_bfeW sgn _ hpos hlen hj⟩
  case bfi =>
    exact vectorResult_of_laneWord (exec_bfi d a b) fun s c l => ⟨rfl, fun j hj => getLsbD_bfiW _ _ _ hj⟩

end Sys2Proof.Machine

/-! # Events (06 R189, R190; 15 R387)

What one signal leaves at every event is said once, as an equation (`State.evSignal_ev`); the clauses on counts, waiters and
other events are read off it. -/

namespace Sys2Proof.Sparse

/-- A key that a filter keeps no entry of reads as the empty value. -/
theorem get_filter_of_drops {α : Type} (d : α) (f : Nat × α → Bool) (k : Nat) (hdrops : ∀ v, f (k, v) = false) (m : Sparse α) :
    get d (m.filter f) k = d := by
  induction m with
  | nil => rfl
  | cons p r ih =>
    obtain ⟨j, v⟩ := p
    rw [List.filter_cons]
    split
    next hkept =>
      have hne : k ≠ j := fun h => by simp [← h, hdrops] at hkept
      rw [get_cons, if_neg hne, ih]
    next => exact ih

end Sys2Proof.Sparse

namespace Sys2Proof.Machine

open Sys2Proof

/-! ## A signal -/

/-- The condition of a wait on an event, as the spec writes it (06 R190). -/
theorem evMet_iff (c t : Word) : evMet c t = true ↔ 0 < (c - t).toNat ∧ (c - t).toNat < 2 ^ 31 := by
  simp only [evMet, Bool.and_eq_true, decide_eq_true_eq]

/-- Only a gang whose context is out is not there to be released (06 R197). -/
theorem State.evThere_iff (s : State) (w : XWho) :
    s.evThere w = true ↔ ∀ g tag, w = .gang g tag → (s.gang g).here = true := by
  cases w with
  | gang g tag => exact ⟨fun hhere _ _ h => by cases h; exact hhere, fun h => h g tag rfl⟩
  | fetch _ | copy _ _ | fill _ | island _ _ | launch _ => simp [State.evThere]

/-- A wait that is satisfied changes its gang's operation or its launch, and no event. -/
@[simp] theorem State.evDone_ev (s : State) (w : XWho × Word) (count : Word) (rs : List Rel) (j : Nat) :
    (s.evDone w count rs).ev j = s.ev j := by
  obtain ⟨who, t⟩ := w
  cases who <;> rfl

/-- Does a signal of event `k` release the waiter `w`? -/
def State.releases (s : State) (k : Nat) (w : XWho × Word) : Bool := evMet ((s.ev k).count + 1) w.2 && s.evThere w.1

/-- Event `k` after a signal that carries the releases `rs`: the count is one higher, and the waiters not released stay. -/
def State.signalled (s : State) (k : Nat) (rs : List Rel) : Ev where
  count := (s.ev k).count + 1
  waits := (s.ev k).waits.filter fun w => !s.releases k w
  rels := rs.foldl addRel (s.ev k).rels

/-- A signal changes the event that it names and no other. -/
theorem State.evSignal_ev (s : State) (k : Nat) (who : XWho) (rs : List Rel) (j : Nat) :
    (s.evSignal k who rs).ev j = (s.setEv k (s.signalled k rs)).ev j := by
  unfold State.evSignal
  simp only [List.partition_eq_filter_filter]
  refine foldl_keeps (P := fun u => u.ev j = (s.setEv k (s.signalled k rs)).ev j) _ (fun u w _ hu => ?_) _ ?_
  · rw [State.evDone_ev, hu]
  · cases who <;> rfl

@[simp] theorem State.evSignal_ev_self (s : State) (k : Nat) (who : XWho) (rs : List Rel) :
    (s.evSignal k who rs).ev k = s.signalled k rs := by
  rw [State.evSignal_ev, State.setEv_ev_self]

theorem State.evSignal_ev_ne (s : State) {k j : Nat} (who : XWho) (rs : List Rel) (hj : j ≠ k) :
    (s.evSignal k who rs).ev j = s.ev j := by
  rw [State.evSignal_ev, State.setEv_ev_ne _ _ hj]

/-- A signal adds 1 to the count, modulo 2^32 (06 R189). -/
theorem State.signalled_count (s : State) (k : Nat) (rs : List Rel) :
    (s.signalled k rs).count.toNat = ((s.ev k).count.toNat + 1) % 2 ^ 32 :=
  BitVec.toNat_add (s.ev k).count 1

/-- Each of two signals adds 1 (06 R189). -/
theorem State.signalled_count_twice (s : State) (k : Nat) (who : XWho) (rs rs' : List Rel) :
    ((s.evSignal k who rs).signalled k rs').count.toNat = ((s.ev k).count.toNat + 2) % 2 ^ 32 := by
  rw [State.signalled_count, State.evSignal_ev_self, State.signalled_count]
  omega

/-- The waiters that a signal leaves are those whose threshold is not passed or whose gang is out (06 R190, R197). -/
theorem State.mem_signalled_waits (s : State) (k : Nat) (rs : List Rel) (w : XWho × Word) :
    w ∈ (s.signalled k rs).waits ↔ w ∈ (s.ev k).waits ∧
      ¬ ((0 < ((s.ev k).count + 1 - w.2).toNat ∧ ((s.ev k).count + 1 - w.2).toNat < 2 ^ 31) ∧
        ∀ g tag, w.1 = .gang g tag → (s.gang g).here = true) := by
  rw [← evMet_iff, ← State.evThere_iff, ← Bool.and_eq_true, Bool.not_eq_true, ← Bool.not_eq_true']
  exact List.mem_filter

/-! ## Residence (15 R387) -/

/-- A reference to a resident event finds it, where no operation on it is queued, and makes it the latest that is used. -/
theorem State.evResident_of_mem {s : State} {k : Nat} (hq : s.evQueued k = false) (hres : k ∈ s.evRes) :
    s.evResident k = (true, { s with evRes := k :: s.evRes.filter fun j => j != k }) := by
  simp [State.evResident, hq, hres]

/-- A signal of a resident event takes place at once. -/
theorem State.evOp_signal_of_mem {s : State} {k : Nat} (hq : s.evQueued k = false) (hres : k ∈ s.evRes)
    (tower : Nat) (who : XWho) (t : Word) (rs : List Rel) :
    s.evOp tower 0 k who t rs = ({ s with evRes := k :: s.evRes.filter fun j => j != k } : State).evSignal k who rs := by
  simp [State.evOp, State.evAct, State.evResident_of_mem hq hres]

/-- Moves from the overflow table change what is resident and nothing else (15 R388). -/
theorem State.evBack_eq (ks : List Nat) : ∀ s : State, ∃ res, s.evBack ks = { s with evRes := res } := by
  induction ks with
  | nil => exact fun s => ⟨s.evRes, rfl⟩
  | cons k r ih =>
    intro s
    unfold State.evBack
    split
    · exact ih { s with evRes := s.evRes ++ [k] }
    · exact ih s

/-! ## The events of a tenant -/

theorem State.evOf_eq (s : State) (c : Cursor) (e : Src) :
    s.evOf c e = evKey (s.gangOf c).tenant ((s.readO c e).toNat % 65536) := by
  simp [State.evOf, State.gangOf, bits]

/-- A key gives its event's tenant back. -/
theorem evKey_div (t : Nat) {n : Nat} (hn : n < 65536) : evKey t n / 65536 = t := by
  unfold evKey
  omega

theorem evKey_inj {t n t' n' : Nat} (hn : n < 65536) (hn' : n' < 65536) : evKey t n = evKey t' n' ↔ t = t' ∧ n = n' := by
  unfold evKey
  omega

/-- The device without the events of tenant `t`, resident or queued. -/
def State.withoutEvents (s : State) (t : Nat) : State :=
  { s with
    events := s.events.filter fun p => p.1 / 65536 != t
    evRes := s.evRes.filter fun k => k / 65536 != t
    towers := s.towers.map fun p => (p.1, { p.2 with evq := p.2.evq.filter fun q => q.2.1 / 65536 != t }) }

theorem State.withoutEvents_count (s : State) (t : Nat) {n : Nat} (hn : n < 65536) :
    ((s.withoutEvents t).ev (evKey t n)).count = 0 := by
  have hget : (s.withoutEvents t).ev (evKey t n) = Ev.empty :=
    Sparse.get_filter_of_drops _ _ _ (fun _ => by simp [evKey_div t hn]) _
  rw [hget]
  rfl

@[simp] theorem State.cmdOut_ten (s : State) (result res0 t : Nat) : (s.cmdOut result res0).ten t = s.ten t := by
  rw [State.cmdOut, State.later_eq]
  rfl

@[simp] theorem State.cmdOut_ev (s : State) (result res0 k : Nat) : (s.cmdOut result res0).ev k = s.ev k := by
  rw [State.cmdOut, State.later_eq]
  rfl

/-- TCREATE of a tenant that does not exist drops what events of its number there are, and makes its resources anew. -/
theorem exec_tcreate {s : State} (hopen : s.cmdOpen = true) (hcode : s.cmdCode = 1) (hdead : (s.ten s.cmdTen).live = false) :
    exec .tcreate s = .next ((((s.withoutEvents s.cmdTen).evBack ((s.withoutEvents s.cmdTen).events.map (·.1))).modTen s.cmdTen
      Tenant.fresh).cmdOut 0 0) := by
  change execTcreate s = _
  simp only [execTcreate, State.command, hopen, hcode, hdead]
  rfl

/-- TCREATE leaves a tenant that exists and whose events all have the count 0 (06 R189; 19 R454). -/
theorem tcreate_clears_events {n : Nat} (hn : n < 65536) :
    Happens .tcreate (fun s => s.cmdOpen = true ∧ s.cmdCode = 1 ∧ (s.ten s.cmdTen).live = false)
      fun s t => (t.ten s.cmdTen).live = true ∧ (t.ev (evKey s.cmdTen n)).count = 0 := by
  rintro s ⟨hopen, hcode, hdead⟩
  refine ⟨_, exec_tcreate hopen hcode hdead, ?_, ?_⟩
  · simp [Tenant.fresh]
  · obtain ⟨res, hback⟩ := State.evBack_eq ((s.withoutEvents s.cmdTen).events.map (·.1)) (s.withoutEvents s.cmdTen)
    rw [State.cmdOut_ev, State.modTen_ev_, hback]
    exact s.withoutEvents_count s.cmdTen hn

/-! ## Flushes at issue take no time (10 R294) -/

@[simp] theorem State.send_now (s : State) (m : Msg) (lat : Nat) : (s.send m lat).now = s.now := by
  rw [State.send, State.popLag_eq]

@[simp] theorem State.service_now (s : State) (t : Nat) : (s.service t).now = s.now := by
  obtain ⟨p, hp⟩ := s.service_eq t
  rw [hp]

@[simp] theorem State.ringWrite_now (s : State) (pa : Nat) (d : List Byte) (r : Rel) (done : Counted) :
    (s.ringWrite pa d r done).now = s.now := by
  unfold State.ringWrite
  split
  · exact State.send_now ..
  · cases done with
    | nothing => rfl
    | record t => exact State.service_now _ t
    | trace t => rfl

@[simp] theorem State.l1Leave_now (s : State) (c ln : Nat) : (s.l1Leave c ln).now = s.now := by
  have herror : (s.l1Error c ln).2.now = s.now := by
    unfold State.l1Error
    simp only
    split
    · rfl
    · split <;> rfl
  unfold State.l1Leave State.errorRecord
  simp only
  split
  · split
    · exact herror
    · rw [State.ringWrite_now, herror]
  · exact herror

@[simp] theorem State.sendWrt_now (s : State) (c ln : Nat) (l : L1Line) (reb : Bool) : (s.sendWrt c ln l reb).now = s.now :=
  State.send_now ..

@[simp] theorem State.setL1_now (s : State) (c ln : Nat) (x : L1Line) : (s.setL1 c ln x).now = s.now := rfl

@[simp] theorem State.dropL1_now (s : State) (c ln : Nat) : (s.dropL1 c ln).now = s.now := rfl

@[simp] theorem State.flushLine_now (s : State) (c ln : Nat) : (s.flushLine c ln).now = s.now := by
  unfold State.flushLine
  simp only
  split
  · rfl
  · simp only [apply_ite State.now, State.dropL1_now, State.setL1_now, State.sendWrt_now, State.l1Leave_now, ite_self]

@[simp] theorem State.flushCore_now (s : State) (c : Nat) : (s.flushCore c).now = s.now :=
  foldl_keeps (P := fun u => u.now = s.now) _ (fun u p _ hu => (u.flushLine_now c p.1).trans hu) s rfl

/-! ## The word -/

/-- The model's start of a barrier, event or group word is that of the statements. -/
theorem State.issueSync_eq_syncing (s : State) (c : Cursor) (i : Instr) (regs : List PReg) (x : DWord) (acks : Nat) :
    s.issueSync c i regs x acks = s.syncing c i regs x acks := by
  have hnow : (s.flushedFor c i).now = s.now := by
    unfold State.flushedFor
    split
    · exact s.flushCore_now _
    · rfl
  unfold State.syncing
  rw [← hnow]
  rfl

theorem exec_evsig (e : Src) (s : State) :
    exec (.evsig e) s = s.runWord (.evsig e) fun c =>
      (s.syncing c (.evsig e) [] (BitVec.ofNat 64 (s.evOf c e))).evOp ((s.gangOf c).core / 48) 0 (s.evOf c e)
        (.gang c.gang (s.gangOf c).nextTag) 0 [] := by
  change execEvsig e s = _
  simp only [execEvsig, State.issueSync_eq_syncing, State.gangOf]

/-- Settles O28: the counts and waiters are those of `State.signalled`, and EVSIG is the operation that signals. -/
theorem eventSignalsReleaseTheirWaiters : Obligations.EventSignalsReleaseTheirWaiters := by
  unfold Obligations.EventSignalsReleaseTheirWaiters
  refine ⟨fun s k who rs => ?_, State.evOf_eq, fun t n t' n' => evKey_inj, fun n hn => ?_, fun e s c hissues => ?_⟩
  · simp only [State.evSignal_ev_self]
    exact ⟨s.signalled_count k rs, List.filter_sublist, s.mem_signalled_waits k rs, fun _ rs' => s.signalled_count_twice k who rs rs',
      fun j hj => s.evSignal_ev_ne who rs hj, fun tower t hq hres => State.evOp_signal_of_mem hq hres tower who t rs⟩
  · rintro s ⟨hbusy, hend, hcode, hdead⟩
    exact tcreate_clears_events hn s ⟨by simp [State.cmdOpen, hbusy, hend], hcode, hdead⟩
  · obtain ⟨hcur, htrap⟩ := hissues
    exact ⟨_, (exec_evsig e s).trans (State.runWord_eff hcur htrap _), rfl⟩

end Sys2Proof.Machine
